-- ==== Sys2Proof/Word.lean ====
section
/-! DEFINITION. The word and byte types of the Twiquin 8 (spec/00_scope.md R2, spec/02_formats.md R31). -/

namespace Sys2Proof

/-- A byte of memory. -/
abbrev Byte := BitVec 8

/-- A 32-bit instruction word, or the content of one register of one lane. -/
abbrev Word := BitVec 32

/-- A 64-bit operand (a pair of registers, R56). -/
abbrev Dword := BitVec 64

end Sys2Proof
end

