-- ==== Sys2Proof/Syntax.lean ====
section
/-! DEFINITION. The instructions: one constructor for each row of spec/opcode_table.json. The lane-set and
uniform-set words come first; after them the acts of the part's other agents (events), the command processors'
commands, the hosts' register writes and the firmware calls, each one indivisible step of the part
(spec/95_what_each_step_holds.md). An act carries no fields: on what it acts is plain data in the state (`Choice`). -/

namespace Sys2Proof

/-- The prefix word (R37), without its fixed bits. -/
structure Pfx where
  msk : BitVec 4
  rnd : BitVec 2
  zero : Bool
  f4v : Bool
  f4 : BitVec 8
  type : BitVec 4
  phint : BitVec 4
  deriving DecidableEq, Repr

/-- The ordering word (R46). -/
structure Ord where
  strm : BitVec 3
  pred : BitVec 8
  scope : BitVec 3
  vol : Bool
  pol : BitVec 2
  ohint : BitVec 3
  off : BitVec 12
  deriving DecidableEq, Repr

/-- A register field (R52). -/
abbrev Reg := BitVec 8

/-- An optional prefix. -/
abbrev OPfx := Option Pfx

/-- The engine word of MMA less ENG and OP (R318). -/
structure MmaWord where
  acc : BitVec 3
  fmt : BitVec 4
  ca : Bool
  cb : Bool
  pa : Bool
  pb : Bool
  za : Bool
  ctag : BitVec 6
  nt : Bool
  deriving DecidableEq, Repr

/-- The PARAM of QNT and DQNT (R319). -/
structure QntWord where
  fmt : BitVec 4
  cmp : Bool
  ori : Bool
  deriving DecidableEq, Repr

/-- The tag fields of a point instruction's engine word (R356). -/
structure TagWord where
  tag : BitVec 6
  nt : Bool
  deriving DecidableEq, Repr

/-- What a completing read meets (R451, R452): an input of the completion acts. -/
inductive ReadError where
  | none | corrected | uncorrectable
  deriving DecidableEq, Repr

/-- Who makes a firmware call (R474): a host through its mailbox, or a layer kernel through its call slot. -/
inductive Caller where
  | host (port : Nat)
  | kernel (layer : Nat)
  deriving DecidableEq, Repr

/-- What an agent outside the part answers: data, or a status (R256, R257, R476). -/
inductive Answer where
  | none
  | data (bytes : List Byte)
  | status (code : BitVec 8)
  deriving DecidableEq, Repr

/-- The place the work distributor chooses for a crew (R508): a cluster, a core and the gang slots. -/
structure Placement where
  cluster : Nat
  core : Nat
  slots : List Nat
  deriving DecidableEq, Repr

/-- Bytes a host has written to its own memory since the last step, by port and bus address (R197). -/
structure HostWrite where
  port : Nat
  bus : Nat
  bytes : List Byte
  deriving DecidableEq, Repr

/-- On what an act of another agent acts, and what reaches it from outside the part. An act reads the fields it needs;
the rest stand at their defaults. -/
structure Choice where
  /-- The operation, request, gang, crew, convoy, launch or command the act is on. -/
  target : Nat := 0
  lane : Nat := 0
  layer : Nat := 0
  cluster : Nat := 0
  core : Nat := 0
  /-- The queue, router, bin, slot, sub-array, aperture or bit. -/
  unit : Nat := 0
  port : Nat := 0
  offset : Nat := 0
  size : Nat := 0
  value : Nat := 0
  err : ReadError := .none
  answer : Answer := .none
  caller : Caller := .host 0
  places : List Placement := []
  nums : List Nat := []
  /-- What the hosts write to their memories before the act. -/
  host : List HostWrite := []
  deriving DecidableEq, Repr

/-- The instructions, events, commands, register writes and calls of the part. -/
inductive Instr where
  -- control, lane set (R86)
  | nop
  | bra (off : BitVec 20)
  | brc (k : BitVec 4) (off : BitVec 20)
  | call (off : BitVec 20)
  | ret
  | retPair (p : Reg)
  | jmpi (p : Reg)
  | calli (p : Reg)
  | calliLink (d p : Reg)
  | exit
  | vote (k : BitVec 8) (x : Reg) (v : BitVec 2)
  -- control, uniform set (R87)
  | bru (off : BitVec 20)
  | bruMask (k : BitVec 4) (off : BitVec 20)
  | join (k : BitVec 8)
  | leave (k : BitVec 8)
  | waitm (k : BitVec 8)
  | mand (k a b : BitVec 8)
  | mor (k a b : BitVec 8)
  | mxor (k a b : BitVec 8)
  | mandn (k a b : BitVec 8)
  | mmovMM (k a : BitVec 8)
  | mmovMG (k : BitVec 8) (a : Reg)
  | mmovGM (d : Reg) (a : BitVec 8)
  | yieldGang
  | sleep (x : Reg)
  | roleGet (d : Reg)
  | roleSet (x : Reg)
  | mpop (d : Reg) (a : BitVec 8) (v : BitVec 2)
  -- integer (R106)
  | add (p : OPfx) (d a b : Reg)
  | sub (p : OPfx) (d a b : Reg)
  | addc (p : OPfx) (d a b : Reg)
  | mul (p : OPfx) (d a b : Reg)
  | mulh (p : OPfx) (d a b : Reg)
  | mad (p : OPfx) (d a b : Reg)
  | div (p : OPfx) (d a b : Reg)
  | rem (p : OPfx) (d a b : Reg)
  | min (p : OPfx) (d a b : Reg)
  | max (p : OPfx) (d a b : Reg)
  | abs (p : OPfx) (d a : Reg)
  | and (p : OPfx) (d a b : Reg)
  | or (p : OPfx) (d a b : Reg)
  | xor (p : OPfx) (d a b : Reg)
  | andn (p : OPfx) (d a b : Reg)
  | shl (p : OPfx) (d a b : Reg)
  | shr (p : OPfx) (d a b : Reg)
  | fsh (p : OPfx) (d a b : Reg)
  | bfx (p : OPfx) (d a b : Reg)
  | bfi (p : OPfx) (d a b : Reg)
  | popc (p : OPfx) (d a : Reg)
  | clz (p : OPfx) (d a : Reg)
  | ctz (p : OPfx) (d a : Reg)
  | brev (p : OPfx) (d a : Reg)
  | sel (p : OPfx) (d a b : Reg)
  | cmpm (p : OPfx) (cc k : BitVec 4) (a b : Reg)
  | movi (p : OPfx) (d : Reg) (imm : BitVec 16)
  | movh (p : OPfx) (d : Reg) (imm : BitVec 16)
  | addi (p : OPfx) (d : Reg) (imm : BitVec 16)
  | mov (p : OPfx) (d a : Reg)
  | lea (p : OPfx) (d a b : Reg)
  -- uniform integer (R122)
  | uadd (d a b : Reg)
  | usub (d a b : Reg)
  | umul (d a b : Reg)
  | uand (d a b : Reg)
  | uor (d a b : Reg)
  | uxor (d a b : Reg)
  | ushl (d a b : Reg)
  | ushr (d a b : Reg)
  | umovi (d : Reg) (imm : BitVec 16)
  | umovh (d : Reg) (imm : BitVec 16)
  -- cross-lane (R125)
  | shfi (p : OPfx) (d a : Reg) (wid : BitVec 3) (flg : BitVec 4)
  | shfu (p : OPfx) (d a : Reg) (wid : BitVec 3) (flg : BitVec 4)
  | shfd (p : OPfx) (d a : Reg) (wid : BitVec 3) (flg : BitVec 4)
  | shfx (p : OPfx) (d a : Reg) (wid : BitVec 3) (flg : BitVec 4)
  | cxs (p : OPfx) (d a : Reg) (rev : Bool) (lk lj : BitVec 3)
  | perm (p : OPfx) (d a b : Reg)
  | scan (p : OPfx) (d a : Reg) (wid : BitVec 3) (ex : Bool) (op : BitVec 2)
  -- floating point (R137)
  | fadd (p : OPfx) (d a b : Reg)
  | fsub (p : OPfx) (d a b : Reg)
  | fmul (p : OPfx) (d a b : Reg)
  | ffma (p : OPfx) (d a b : Reg)
  | fmin (p : OPfx) (d a b : Reg)
  | fmax (p : OPfx) (d a b : Reg)
  | fabs (p : OPfx) (d a : Reg)
  | fneg (p : OPfx) (d a : Reg)
  | fcmp (p : OPfx) (cc k : BitVec 4) (a b : Reg)
  | fcvt (p : OPfx) (d a : Reg) (st : BitVec 8)
  | fcvti (p : OPfx) (d a : Reg) (st : BitVec 8)
  | icvtf (p : OPfx) (d a : Reg) (st : BitVec 8)
  | fadd2 (p : OPfx) (d a b : Reg)
  | fmul2 (p : OPfx) (d a b : Reg)
  | ffma2 (p : OPfx) (d a b : Reg)
  | fclass (p : OPfx) (d a : Reg)
  | sfq (p : OPfx) (d a : Reg) (tok fn : BitVec 4)
  | sfwait (p : OPfx) (m : BitVec 16)
  | frnd (p : OPfx) (d a : Reg)
  | fscl (p : OPfx) (d a b : Reg)
  | fdiv (p : OPfx) (d a b : Reg)
  | fsqrt (p : OPfx) (d a : Reg)
  -- streams and memory (R163, R187, R195)
  | swait (sm : BitVec 8) (n : BitVec 8)
  | ldg (p : OPfx) (d a : Reg) (x4 : Bool) (o : Ord)
  | stg (p : OPfx) (d a : Reg) (x4 : Bool) (o : Ord)
  | lds (p : OPfx) (d a : Reg) (x4 : Bool) (o : Ord)
  | sts (p : OPfx) (d a : Reg) (x4 : Bool) (o : Ord)
  | ldp (p : OPfx) (d a : Reg) (x4 : Bool) (o : Ord)
  | stp (p : OPfx) (d a : Reg) (x4 : Bool) (o : Ord)
  | pfg (p : OPfx) (a : Reg) (lvl : Bool) (o : Ord)
  | uldg (d a : Reg) (sz : BitVec 2) (o : Ord)
  | ustg (d a : Reg) (sz : BitVec 2) (o : Ord)
  | ulds (d a : Reg) (sz : BitVec 2) (o : Ord)
  | usts (d a : Reg) (sz : BitVec 2) (o : Ord)
  -- atomics and synchronisation (R210, R219, R222, R226, R229)
  | atom (p : OPfx) (d a : Reg) (op : BitVec 4) (sp : BitVec 2) (o : Ord)
  | cas (p : OPfx) (d a : Reg) (sp : BitVec 2) (o : Ord)
  | cas128 (p : OPfx) (d a : Reg) (sp : BitVec 2) (o : Ord)
  | red (p : OPfx) (d a : Reg) (op : BitVec 4) (sp : BitVec 2) (o : Ord)
  | uatom (d a : Reg) (op : BitVec 4) (w sg : Bool) (sp : BitVec 2) (o : Ord)
  | ucas (d a : Reg) (w : Bool) (sp : BitVec 2) (o : Ord)
  | barr (bar : BitVec 5) (o : Ord)
  | barrPhase (d : Reg) (bar : BitVec 5) (o : Ord)
  | barw (x : Reg) (bar : BitVec 5) (o : Ord)
  | bars (x : Reg) (bar : BitVec 5) (o : Ord)
  | tkt (d x : Reg) (o : Ord)
  | tktw (x y : Reg)
  | tktsNext (x : Reg) (o : Ord)
  | tktsSet (x y : Reg) (o : Ord)
  | qlk (d x : Reg) (o : Ord)
  | qul (x : Reg) (o : Ord)
  -- barges, tags, rings and I/O (R237)
  | barge (a : Reg) (o : Ord)
  | tagw (a : Reg) (any : Bool)
  | tagf (d a : Reg) (clr : Bool)
  | tagclr (a : Reg)
  | rawait (d a : Reg) (free : Bool) (o : Ord)
  | rarel (a : Reg) (o : Ord)
  | rapub (a : Reg) (o : Ord)
  | waity (a : Reg) (mode : BitVec 2)
  | ioreq (p : OPfx) (a : Reg) (o : Ord)
  -- intervals (R273, R288)
  | eadd (p : OPfx) (d a b : Reg)
  | esub (p : OPfx) (d a b : Reg)
  | emul (p : OPfx) (d a b : Reg)
  | ediv (p : OPfx) (d a b : Reg)
  | esqrt (p : OPfx) (d a : Reg)
  | eneg (p : OPfx) (d a : Reg)
  | esq (p : OPfx) (d a : Reg)
  | efma (p : OPfx) (d a b : Reg)
  | eleaf (p : OPfx) (d x : Reg)
  | eleafi (p : OPfx) (d x : Reg)
  | emov (p : OPfx) (d a : Reg) (adopt : Bool)
  | ebnd (p : OPfx) (d a : Reg) (v : BitVec 2)
  | esever (p : OPfx) (d a : Reg) (opaq : Bool)
  | ewid (p : OPfx) (d a : Reg) (rel : Bool)
  | ecmp (p : OPfx) (cc k : BitVec 4) (a : Reg) (u : BitVec 4)
  | esgn (p : OPfx) (d a : Reg) (u : BitVec 4)
  -- matrix (R317)
  | mma (p : OPfx) (a b : Reg) (o : Ord) (e : MmaWord)
  | accz (p : OPfx) (o : Ord) (acc : BitVec 3)
  | accrd (p : OPfx) (d : Reg) (o : Ord) (acc : BitVec 3) (form : BitVec 2) (fin : Bool)
  | accwr (p : OPfx) (a : Reg) (o : Ord) (acc : BitVec 3) (form : BitVec 2)
  | qnt (p : OPfx) (d a : Reg) (o : Ord) (e : QntWord)
  | dqnt (p : OPfx) (d a : Reg) (o : Ord) (e : QntWord)
  | ctbl (p : OPfx) (a : Reg) (o : Ord)
  -- weir (R338)
  | wcfg (p : OPfx) (a : Reg) (o : Ord)
  | wsig (p : OPfx) (d a : Reg) (o : Ord) (bf : Bool)
  | wtest (p : OPfx) (d x c : Reg) (o : Ord) (n : Reg) (skm : BitVec 4)
  | wskip (p : OPfx) (d x : Reg) (o : Ord) (v : BitVec 2)
  | wstep (p : OPfx) (o : Ord)
  | wstepSet (p : OPfx) (x : Reg) (o : Ord)
  -- points (R356)
  | nbrk (p : OPfx) (a : Reg) (o : Ord) (t : TagWord)
  | nbrr (p : OPfx) (a : Reg) (o : Ord) (t : TagWord)
  | siteh (p : OPfx) (a : Reg) (o : Ord) (t : TagWord)
  | rule (p : OPfx) (a : Reg) (o : Ord) (t : TagWord)
  | ruleSub (p : OPfx) (a : Reg) (o : Ord) (t : TagWord)
  | pgat (p : OPfx) (a : Reg) (o : Ord) (f32 : Bool) (t : TagWord)
  | psca (p : OPfx) (a : Reg) (o : Ord) (t : TagWord)
  -- tasks, claims and queues (R372)
  | spawn (x a b : Reg) (o : Ord)
  | bflush (x : Reg)
  | bflushAll
  | claim (n : BitVec 4)
  | claimTry (d : Reg) (n : BitVec 4)
  | give (n : BitVec 4)
  | giveRole (r : BitVec 2) (n : BitVec 4)
  | cyield
  | tdone (k : BitVec 8) (act : BitVec 2)
  | qlen (d q : Reg) (room : Bool)
  -- stack and aqueduct (R407)
  | mcst (x a : Reg) (sz : BitVec 2) (o : Ord)
  | rchk (d a : Reg) (o : Ord)
  | resync (a : Reg) (o : Ord)
  | slotq (d : Reg) (v : BitVec 2)
  | slotr (d : Reg)
  | slotw (x : Reg)
  | rstat (d a : Reg)
  -- system (R425)
  | trap (n : BitVec 8)
  | brk (n : BitVec 8)
  | eret
  | eretKill
  | csrr (d : Reg) (n : BitVec 16)
  | csrw (x : Reg) (n : BitVec 16)
  | tlbiAll (o : Ord)
  | tlbiVa (a : Reg) (o : Ord)
  | iclock (d a b : Reg)
  | icunlk (a b : Reg)
  | keyld (x a : Reg) (o : Ord)
  | ctxsv (a : Reg) (o : Ord)
  | ctxld (a : Reg) (o : Ord)
  | dbgh (a : Reg) (v : BitVec 2)
  -- control, uniform set (R87): acts
  | sleepEnd
  | starvationTurn
  -- floating point (R137): acts
  | sfqComplete
  -- streams and memory (R163, R187, R195): acts
  | loadComplete
  | storeComplete
  | prefetchComplete
  | pageTableWalk
  | replay
  | operationFailure
  | hostCompletionTimeout
  -- atomics and synchronisation (R210, R219, R222, R226, R229): acts
  | atomicPerform
  | atomicComplete
  | barrierArrivalCounts
  | barsActs
  | tktwWake
  | tktsUpdate
  | qlkGrant
  | qulRelease
  -- barges, tags, rings and I/O (R237): acts
  | bargeEngineTake
  | bargeComplete
  | bargeFault
  | rawaitComplete
  | rarelRelease
  | advanceReady
  | crewYield
  | crewReturn
  | ioreqPost
  | ioRequestEnd
  | ioTimeout
  -- intervals (R273, R288): acts
  | reclamation
  | refinementAdmit
  | refinementEnd
  -- matrix (R317): acts
  | matrixCommandStart
  | subarrayGate
  | operandsConsumed
  | matrixCommandComplete
  -- weir (R338): acts
  | wtestEntryUpdate
  | weirContextLoad
  | weirCommandComplete
  -- points (R356): acts
  | pointCommandComplete
  | pointCommandFault
  -- tasks, claims and queues (R372): acts
  | spawnTasksEnter
  | binTimerExpiry
  | taskGangPlace
  | q24Fill
  | coreReserve
  | cyieldAct
  -- stack and aqueduct (R407): acts
  | aqueductSlot
  | aqueductWriteApply
  | resyncComplete
  | slotwWake
  -- system (R425): acts
  | trapEntry
  | preemption
  | convoyRestore
  | gangRetire
  | convoyPlace
  | drainStart
  | drainPreempt
  | watchdogExpiry
  | routerGate
  | routerWake
  | deadlockEscape
  -- the hosts and their register writes (R457, R473, R478): acts
  | hostApertureAccess
  | qwrDoorbell
  | queueEnable
  | queueReset
  | resume
  | registerWrite
  -- commands (R460): acts
  | commandNop
  | launch
  | launchComplete
  | depwait
  | depwaitPoll
  | signal
  | copyc
  | copyComplete
  | mark
  | jump
  | setpri
  | stamp
  | tlbcVa
  | tlbcAll
  | evrdWrite
  -- firmware calls (R474 to R476, R491): acts
  | export_
  | import_
  | revoke
  | createRegion
  | freeRegion
  | writeIoTargetEntry
  | assignKeyIndices
  | unassignKeyIndices
  | loadCodeSegment
  | freeSegment
  | debugHalt
  | debugRun
  | debugStep
  | debugSnap
  | sleepDevice
  | wakeDevice
  | assignLayersAndPorts
  | setKernelState
  -- the part as a whole (R477 to R483): acts
  | warmStartRequest
  | coldStartRequest
  | startRequestLapse
  | coldStart
  | warmStart
  | readySet
  | freezeWrite
  | freezeLapse
  | freeze
  | thermalThrottle
  | ethernetLinkChange
  | tktComplete
  | rchkComplete
  | pcieLinkChange
  deriving DecidableEq, Repr

end Sys2Proof
end

