-- ==== Sys2Proof/Machine/Info.lean ====
section
/-! DEFINITION. What an instruction's words say by themselves: its set, length, operands, accepted types and whether its
fields are legal (spec/02_formats.md R31 to R66 and the encoding tables of the instruction chapters). -/

namespace Sys2Proof.Machine

/-- One register operand: `n` registers of each lane (or queue entries) from `reg`. -/
structure Opnd where
  reg : Reg
  n : Nat
  /-- It is read at issue. -/
  src : Bool
  /-- It is written, at issue or at completion. -/
  dst : Bool
  /-- The highest register number the description allows (R52): 191 v, 223 v or g, 247 also q0 to q23, 249 any. -/
  max : Nat
  deriving DecidableEq, Repr

/-- What the words of an instruction decide. -/
structure Info where
  /-- The row is an instruction word, not an event, a command or a call. -/
  word : Bool := true
  uniform : Bool := false
  pfx : OPfx := none
  ord : Option Ord := none
  /-- Words after the base word. -/
  ext : Nat := 0
  /-- The default type, 0 where the instruction takes no type (R45). -/
  dflt : Nat := 0
  types : List Nat := []
  needs4 : Bool := false
  rounds : Bool := false
  /-- It has a lane-register destination (R37, ZERO). -/
  laneDest : Bool := false
  opnds : List Opnd := []
  /-- The masks it may write. -/
  masks : List Nat := []
  privileged : Bool := false
  fields : Bool := true

def inRange (x lo hi : Nat) : Bool := decide (lo ≤ x) && decide (x ≤ hi)

/-- The type in force: TYPE, or the default where TYPE is 0 or there is no prefix (R43, R45). -/
def effType (p : OPfx) (dflt : Nat) : Nat :=
  match p with
  | none => dflt
  | some q => if q.type.toNat = 0 then dflt else q.type.toNat

def is64 (t : Nat) : Bool := t == 4 || t == 8 || t == 13
def pairN (t : Nat) : Nat := if is64 t then 2 else 1
def isSigned (t : Nat) : Bool := inRange t 1 4

/-- The width in bits of a type (R45). -/
def typeBits (t : Nat) : Nat :=
  if t = 1 ∨ t = 5 then 8 else if t = 2 ∨ t = 6 ∨ t = 10 ∨ t = 11 then 16 else if is64 t then 64 else 32

def f4Of (p : OPfx) : Reg := match p with | none => 0 | some q => q.f4

def src (r : Reg) (n : Nat := 1) (max : Nat := 249) : Opnd := ⟨r, n, true, false, max⟩
def dst (r : Reg) (n : Nat := 1) (max : Nat := 247) : Opnd := ⟨r, n, false, true, max⟩
def srcDst (r : Reg) (n : Nat := 1) (max : Nat := 223) : Opnd := ⟨r, n, true, true, max⟩

/-- A format A lane instruction. -/
def laneA (p : OPfx) (dflt : Nat) (types : List Nat) (ops : List Opnd) : Info :=
  { pfx := p, dflt := dflt, types := types, opnds := ops, laneDest := true }

def laneL (p : OPfx) (o : Ord) (dflt : Nat) (types : List Nat) (ops : List Opnd) (dest : Bool) (offOk volOk polOk : Bool) : Info :=
  { pfx := p, ord := some o, ext := 1, dflt := dflt, types := types, opnds := ops, laneDest := dest
    fields := (volOk || !o.vol) && (polOk || o.pol == 0) && (offOk || o.off == 0) }

def laneE (p : OPfx) (o : Ord) (ops : List Opnd) (dest : Bool) (ok : Bool) : Info :=
  { pfx := p, ord := some o, ext := 2, opnds := ops, laneDest := dest
    fields := ok && !o.vol && o.pol == 0 && o.off == 0 }

def uniA (ops : List Opnd) (ok : Bool := true) : Info := { uniform := true, opnds := ops, fields := ok }

def uniL (o : Ord) (ops : List Opnd) (offOk volOk polOk : Bool) (ok : Bool := true) : Info :=
  { uniform := true, ord := some o, ext := 1, opnds := ops
    fields := ok && (volOk || !o.vol) && (polOk || o.pol == 0) && (offOk || o.off == 0) }

def ctl (ops : List Opnd) (ok : Bool := true) : Info := { opnds := ops, fields := ok }

def event : Info := { word := false }

def tyN : List Nat := [1, 2, 5, 6]
def tyW : List Nat := [3, 7, 4, 8]
def tyP : List Nat := [4, 8]
def tyLogic : List Nat := [3, 7, 4, 8]
def tyF : List Nat := [10, 11, 12, 13]
def tyInt : List Nat := [1, 2, 3, 4, 5, 6, 7, 8]
def tyMem : List Nat := [1, 2, 3, 4, 5, 6, 7, 8, 9, 10, 11, 12, 13]

/-- The types of ATOM and RED by operation (R212). -/
def atomTypes (op : Nat) : List Nat :=
  if op = 4 ∨ op = 5 then [3, 7, 4, 8] else if op = 7 then [12]
  else if op = 8 ∨ op = 9 then [9, 7] else [9, 3, 7, 4, 8]

def alu3 (p : OPfx) (dflt : Nat) (types : List Nat) (d a b : Reg) : Info :=
  let w := pairN (effType p dflt)
  laneA p dflt types [src a w, src b w, dst d w]

def flt3 (p : OPfx) (d a b : Reg) (rounds : Bool) : Info :=
  { alu3 p 12 tyF d a b with rounds := rounds }

def flt2 (p : OPfx) (d a : Reg) (rounds : Bool) : Info :=
  let w := pairN (effType p 12)
  { laneA p 12 tyF [src a w, dst d w] with rounds := rounds }

def cmpInfo (p : OPfx) (dflt : Nat) (types : List Nat) (ccMax : Nat) (cc k : BitVec 4) (a b : Reg) : Info :=
  let w := pairN (effType p dflt)
  { pfx := p, dflt := dflt, types := types, opnds := [src a w, src b w], masks := [k.toNat]
    fields := decide (cc.toNat ≤ ccMax) && inRange k.toNat 1 11 }

def maskOp (k a b : BitVec 8) : Info :=
  { uniform := true, masks := [k.toNat]
    fields := inRange k.toNat 1 11 && decide (a.toNat ≤ 11) && decide (b.toNat ≤ 11) }

def shuffle (p : OPfx) (d a : Reg) (wid : BitVec 3) (flg : BitVec 4) : Info :=
  let w := pairN (effType p 9)
  { laneA p 9 tyLogic [src a w 223, src (f4Of p), dst d w] with
    needs4 := true
    masks := if flg = 15 then [] else [flg.toNat]
    fields := inRange wid.toNat 1 5 && (inRange flg.toNat 1 11 || flg == 15) }

def eops (rs : List (Reg × Bool)) : List Opnd := rs.map fun (r, d) => ⟨r, 4, !d, d, 191⟩

def ivl (p : OPfx) (srcs : List Reg) (d : Reg) : Info :=
  laneA p 0 [] (eops (srcs.map (·, false)) ++ [dst d 4 191])

def memSize (p : OPfx) (x4 : Bool) : Nat := if x4 then 4 else pairN (effType p 9)

/-- `.x4` takes TYPE 0 or .b32 alone (R187). -/
def x4ok (p : OPfx) (x4 : Bool) : Bool := !x4 || effType p 9 == 9

def lsInfo (p : OPfx) (d a : Reg) (x4 : Bool) (o : Ord) (load glob : Bool) : Info :=
  let i := laneL p o 9 tyMem
    [src a (if glob then 2 else 1) 223, if load then dst d (memSize p x4) 223 else src d (memSize p x4)]
    load true true true
  { i with fields := i.fields && x4ok p x4 }

def atomInfo (p : OPfx) (d a : Reg) (op : BitVec 4) (sp : BitVec 2) (o : Ord) (red : Bool) : Info :=
  let w := pairN (effType p 7)
  let i := laneL p o 7 (atomTypes op.toNat)
    [src a (if sp = 0 then 2 else 1) 223, if red then src d w 247 else srcDst d w] (!red) true true true
  { i with
    rounds := op.toNat == 7
    fields := i.fields && decide (op.toNat ≤ 9) && sp != 3 && !(red && op == 6)
      && (atomTypes op.toNat).contains (effType p 7) }

def uniMem (d a : Reg) (sz : BitVec 2) (o : Ord) (load glob : Bool) : Info :=
  let n := 2 ^ sz.toNat
  uniL o [src a (if glob then 2 else 1) 223, if load then dst d n 223 else src d n] true true true (sz != 3)

def ringInfo (a : Reg) (o : Ord) (extra : List Opnd) : Info := uniL o (src a 1 223 :: extra) true false false

def ptInfo (p : OPfx) (a : Reg) (o : Ord) (t : TagWord) : Info :=
  laneE p o [src a 1 223] false (!t.nt || t.tag == 0)

/-- The numbers of the system registers (R422). -/
def sysNumbers : List Nat :=
  [0x000, 0x001, 0x002, 0x003, 0x004, 0x005, 0x006, 0x007, 0x008, 0x009, 0x00A, 0x010, 0x011, 0x012, 0x013, 0x014,
   0x020, 0x021, 0x030, 0x031, 0x032, 0x033, 0x034, 0x035, 0x036, 0x037, 0x038, 0x039, 0x03A, 0x03B, 0x03C]

/-- The registers with a Write column other than — (R422). -/
def sysWritable : List Nat := [0x021, 0x030, 0x031, 0x033, 0x034, 0x035, 0x036, 0x037, 0x038, 0x03B, 0x03C]

end Sys2Proof.Machine

namespace Sys2Proof
open Sys2Proof.Machine

/-- The words' own information about each instruction; `event` for the rows that are no words. A source in the D field stands last among
the operands, and its queue is popped last: R57 orders A, B and F4 alone (notes/assumptions/58.md). -/
def Instr.info : Instr → Info
  | .nop => ctl []
  | .bra _ => ctl []
  | .brc k _ => ctl [] (decide (k.toNat ≤ 11))
  | .call _ => ctl []
  | .ret => ctl []
  | .retPair p => ctl [src p 2 191]
  | .jmpi p => ctl [src p 2 191]
  | .calli p => ctl [src p 2 191]
  | .calliLink d p => ctl [src p 2 191, dst d 2 191]
  | .exit => ctl []
  | .vote k x _ => { opnds := [src x], masks := [k.toNat], fields := inRange k.toNat 1 11 }
  | .bru _ => uniA []
  | .bruMask k _ => uniA [] (decide (k.toNat ≤ 11))
  | .join k => { uniform := true, masks := [k.toNat], fields := inRange k.toNat 1 11 }
  | .leave k => { uniform := true, masks := [k.toNat], fields := inRange k.toNat 1 11 }
  | .waitm k => uniA [] (decide (k.toNat ≤ 11))
  | .mand k a b => maskOp k a b
  | .mor k a b => maskOp k a b
  | .mxor k a b => maskOp k a b
  | .mandn k a b => maskOp k a b
  | .mmovMM k a => maskOp k a 0
  | .mmovMG k a => { uniform := true, opnds := [src a 1 223], masks := [k.toNat]
                     fields := inRange k.toNat 1 11 && decide (192 ≤ a.toNat) }
  | .mmovGM d a => uniA [dst d 1 223] (decide (192 ≤ d.toNat) && decide (a.toNat ≤ 11))
  | .yieldGang => uniA []
  | .sleep x => uniA [src x]
  | .roleGet d => uniA [dst d]
  | .roleSet x => uniA [src x]
  | .mpop d a v => uniA [dst d] (decide (a.toNat ≤ 11) && v != 3)
  | .add p d a b => alu3 p 3 (tyN ++ tyW) d a b
  | .sub p d a b => alu3 p 3 (tyN ++ tyW) d a b
  | .addc p d a b => { laneA p 7 [] [src a, src b, src (f4Of p), dst d 2] with needs4 := true }
  | .mul p d a b => alu3 p 3 tyW d a b
  | .mulh p d a b => alu3 p 3 tyW d a b
  | .mad p d a b =>
    let w := pairN (effType p 3)
    { laneA p 3 tyW [src a w, src b w, src (f4Of p) w, dst d w] with needs4 := true }
  | .div p d a b => alu3 p 3 tyW d a b
  | .rem p d a b => alu3 p 3 tyW d a b
  | .min p d a b => alu3 p 3 (tyN ++ tyW) d a b
  | .max p d a b => alu3 p 3 (tyN ++ tyW) d a b
  | .abs p d a => let w := pairN (effType p 3); laneA p 3 [1, 2, 4] [src a w, dst d w]
  | .and p d a b => alu3 p 9 tyLogic d a b
  | .or p d a b => alu3 p 9 tyLogic d a b
  | .xor p d a b => alu3 p 9 tyLogic d a b
  | .andn p d a b => alu3 p 9 tyLogic d a b
  | .shl p d a b => let w := pairN (effType p 9); laneA p 9 tyLogic [src a w, src b, dst d w]
  | .shr p d a b => let w := pairN (effType p 7); laneA p 7 [9, 3, 4, 8] [src a w, src b, dst d w]
  | .fsh p d a b => { laneA p 9 [] [src a, src b, src (f4Of p), dst d] with needs4 := true }
  | .bfx p d a b => laneA p 7 [9, 3] [src a, src b, dst d]
  | .bfi p d a b => { laneA p 9 [] [src a, src b, src (f4Of p), dst d] with needs4 := true }
  | .popc p d a => laneA p 9 tyLogic [src a (pairN (effType p 9)), dst d]
  | .clz p d a => laneA p 9 tyLogic [src a (pairN (effType p 9)), dst d]
  | .ctz p d a => laneA p 9 tyLogic [src a (pairN (effType p 9)), dst d]
  | .brev p d a => let w := pairN (effType p 9); laneA p 9 tyLogic [src a w, dst d w]
  | .sel p d a b =>
    let w := pairN (effType p 9)
    { laneA p 9 tyLogic [src a w, src b w, src (f4Of p), dst d w] with needs4 := true }
  | .cmpm p cc k a b => cmpInfo p 3 (tyN ++ tyW ++ [9]) 5 cc k a b
  | .movi p d _ => laneA p 3 [7, 4, 8] [dst d (pairN (effType p 3))]
  | .movh p d _ => laneA p 9 [] [srcDst d 1 247]
  | .addi p d _ => laneA p 3 [7, 4, 8] [srcDst d (pairN (effType p 3)) 247]
  | .mov p d a => let w := pairN (effType p 9); laneA p 9 tyLogic [src a w, dst d w]
  | .lea p d a b => laneA p 1 tyInt [src a 2, src b, dst d 2]
  | .uadd d a b => uniA [src a, src b, dst d]
  | .usub d a b => uniA [src a, src b, dst d]
  | .umul d a b => uniA [src a, src b, dst d]
  | .uand d a b => uniA [src a, src b, dst d]
  | .uor d a b => uniA [src a, src b, dst d]
  | .uxor d a b => uniA [src a, src b, dst d]
  | .ushl d a b => uniA [src a, src b, dst d]
  | .ushr d a b => uniA [src a, src b, dst d]
  | .umovi d _ => uniA [dst d]
  | .umovh d _ => uniA [srcDst d 1 247]
  | .shfi p d a w f => shuffle p d a w f
  | .shfu p d a w f => shuffle p d a w f
  | .shfd p d a w f => shuffle p d a w f
  | .shfx p d a w f => shuffle p d a w f
  | .cxs p d a _ lk lj =>
    { laneA p 7 [3, 12] [src a 2 223, dst d 2] with
      fields := inRange lk.toNat 1 5 && decide (lj.toNat ≤ 4) && decide (lj.toNat < lk.toNat) }
  | .perm p d a b => { laneA p 9 [] [src a, src b, src (f4Of p), dst d] with needs4 := true }
  | .scan p d a wid _ _ =>
    let w := pairN (effType p 3)
    { laneA p 3 tyW [src a w 223, dst d w] with fields := inRange wid.toNat 1 5 }
  | .fadd p d a b => flt3 p d a b true
  | .fsub p d a b => flt3 p d a b true
  | .fmul p d a b => flt3 p d a b true
  | .ffma p d a b =>
    let w := pairN (effType p 12)
    { laneA p 12 tyF [src a w, src b w, src (f4Of p) w, dst d w] with needs4 := true, rounds := true }
  | .fmin p d a b => flt3 p d a b false
  | .fmax p d a b => flt3 p d a b false
  | .fabs p d a => flt2 p d a false
  | .fneg p d a => flt2 p d a false
  | .fcmp p cc k a b => cmpInfo p 12 tyF 7 cc k a b
  | .fcvt p d a st =>
    { laneA p 12 tyF [src a (pairN st.toNat), dst d (pairN (effType p 12))] with
      rounds := true, fields := inRange st.toNat 10 13 }
  | .fcvti p d a st =>
    { laneA p 3 tyInt [src a (pairN st.toNat), dst d (pairN (effType p 3))] with
      rounds := true, fields := inRange st.toNat 10 13 }
  | .icvtf p d a st =>
    { laneA p 12 tyF [src a (pairN st.toNat), dst d (pairN (effType p 12))] with
      rounds := true, fields := inRange st.toNat 1 8 }
  | .fadd2 p d a b => { laneA p 10 [11] [src a, src b, dst d] with rounds := true }
  | .fmul2 p d a b => { laneA p 10 [11] [src a, src b, dst d] with rounds := true }
  | .ffma2 p d a b =>
    { laneA p 10 [11] [src a, src b, src (f4Of p), dst d] with needs4 := true, rounds := true }
  | .fclass p d a => laneA p 12 tyF [src a (pairN (effType p 12)), dst d]
  | .sfq p d a _ fn => { laneA p 12 [] [src a, dst d 1 191] with fields := decide (fn.toNat ≤ 7) }
  | .sfwait p _ => { pfx := p }
  | .frnd p d a => flt2 p d a true
  | .fscl p d a b =>
    let w := pairN (effType p 12)
    { laneA p 12 tyF [src a w, src b, dst d w] with rounds := true }
  | .fdiv p d a b => flt3 p d a b true
  | .fsqrt p d a => flt2 p d a true
  | .swait _ n => uniA [] (decide (n.toNat ≤ 63))
  | .ldg p d a x4 o => lsInfo p d a x4 o true true
  | .stg p d a x4 o => lsInfo p d a x4 o false true
  | .lds p d a x4 o => lsInfo p d a x4 o true false
  | .sts p d a x4 o => lsInfo p d a x4 o false false
  | .ldp p d a x4 o => lsInfo p d a x4 o true false
  | .stp p d a x4 o => lsInfo p d a x4 o false false
  | .pfg p a _ o => laneL p o 0 [] [src a 2 223] false true false true
  | .uldg d a sz o => uniMem d a sz o true true
  | .ustg d a sz o => uniMem d a sz o false true
  | .ulds d a sz o => uniMem d a sz o true false
  | .usts d a sz o => uniMem d a sz o false false
  | .atom p d a op sp o => atomInfo p d a op sp o false
  | .red p d a op sp o => atomInfo p d a op sp o true
  | .cas p d a sp o =>
    let w := pairN (effType p 9)
    let i := laneL p o 9 [3, 7, 4, 8]
      [src a (if sp = 0 then 2 else 1) 223, src (f4Of p) w 247, srcDst d w] true true true true
    { i with needs4 := true, fields := i.fields && sp != 3 }
  | .cas128 p d a sp o =>
    let i := laneL p o 0 []
      [src a (if sp = 0 then 2 else 1) 223, src (f4Of p) 4 247, srcDst d 4] true true true true
    { i with needs4 := true, fields := i.fields && sp != 3 }
  | .uatom d a op w sg sp o =>
    uniL o [src a (if sp = 0 then 2 else 1) 223, srcDst d (if w then 2 else 1)] true true true
      (decide (sp.toNat ≤ 1) && decide (op.toNat ≤ 9) && (!sg || op == 4 || op == 5)
        && !(w && (op == 7 || op == 8 || op == 9)))
  | .ucas d a w sp o =>
    uniL o [src a (if sp = 0 then 2 else 1) 223, srcDst d (if w then 4 else 2)] true true true
      (decide (sp.toNat ≤ 1))
  | .barr bar o => uniL o [] false false false (decide (bar.toNat < 24))
  | .barrPhase d bar o => uniL o [dst d 1 223] false false false (decide (bar.toNat < 24))
  | .barw x bar o => uniL o [src x 1 247] false false false (decide (bar.toNat < 24))
  | .bars x bar o => uniL o [src x 1 247] false false false (decide (bar.toNat < 24))
  | .tkt d x o => uniL o [src x 1 247, dst d 1 223] false false false
  | .tktw x y => uniA [src x 1 247, src y 1 247]
  | .tktsNext x o => uniL o [src x 1 247] false false false
  | .tktsSet x y o => uniL o [src x 1 247, src y 1 247] false false false
  | .qlk d x o => { uniL o [src x, dst d 1 223] false false false with privileged := true }
  | .qul x o => { uniL o [src x] false false false with privileged := true }
  | .barge a o => { uniL o [src a 1 223] true false false with ext := 2 }
  | .tagw a _ => uniA [src a 2 223]
  | .tagf d a _ => uniA [src a 2 223, dst d]
  | .tagclr a => uniA [src a 2 223]
  | .rawait d a _ o => ringInfo a o [dst d 1 223]
  | .rarel a o => ringInfo a o []
  | .rapub a o => ringInfo a o []
  | .waity a mode => uniA [src a (if mode.toNat ≤ 1 then 2 else 1) 223]
  | .ioreq p a o => { laneL p o 0 [] [src a 1 223] false true false false with ext := 2 }
  | .eadd p d a b => ivl p [a, b] d
  | .esub p d a b => ivl p [a, b] d
  | .emul p d a b => ivl p [a, b] d
  | .ediv p d a b => ivl p [a, b] d
  | .esqrt p d a => ivl p [a] d
  | .eneg p d a => ivl p [a] d
  | .esq p d a => ivl p [a] d
  | .efma p d a b => { ivl p [a, b, f4Of p] d with needs4 := true }
  | .eleaf p d x => laneA p 12 [10, 11, 13] [src x (pairN (effType p 12)), dst d 4 191]
  | .eleafi p d x => laneA p 3 [7, 4] [src x (pairN (effType p 3)), dst d 4 191]
  | .emov p d a _ => ivl p [a] d
  | .ebnd p d a v =>
    if v = 2 then laneA p 12 [] [⟨a, 4, true, false, 191⟩, dst d 2]
    else { laneA p 12 [10, 11, 13] [⟨a, 4, true, false, 191⟩, dst d (pairN (effType p 12))] with fields := v != 3 }
  | .esever p d a _ => ivl p [a] d
  | .ewid p d a _ => laneA p 12 [] [⟨a, 4, true, false, 191⟩, dst d]
  | .ecmp p cc k a u =>
    { pfx := p, needs4 := true, opnds := eops [(a, false), (f4Of p, false)], masks := [k.toNat, u.toNat]
      fields := decide (cc.toNat ≤ 5) && inRange k.toNat 1 11 && inRange u.toNat 1 11 && u != k }
  | .esgn p d a u =>
    { laneA p 0 [] [⟨a, 4, true, false, 191⟩, dst d 1 191] with
      masks := [u.toNat], fields := inRange u.toNat 1 11 }
  | .mma p a b o e =>
    laneE p o [src a 1 223, src b 1 223] false
      ((decide (e.fmt.toNat ≤ 6) || ((e.fmt == 8 || e.fmt == 9) && !e.ca && !e.cb)) && (!e.nt || e.ctag == 0))
  | .accz p o _ => laneE p o [] false true
  | .accrd p d o _ form _ => { laneE p o [src d 1 223] false (form != 3) with rounds := form != 2 }
  | .accwr p a o _ form => laneE p o [src a 1 223] false (form == 0 || form == 2)
  | .qnt p d a o e => { laneE p o [src a 1 223, src d 1 223] false (decide (e.fmt.toNat ≤ 6)) with rounds := true }
  | .dqnt p d a o e => { laneE p o [src a 1 223, src d 1 223] false (decide (e.fmt.toNat ≤ 6)) with rounds := true }
  | .ctbl p a o => laneE p o [src a 1 223] false true
  | .wcfg p a o => laneE p o [src a 1 223] false true
  | .wsig p d a o _ => laneE p o [src a 1 223, src d 1 223] false true
  | .wtest p d x c o n skm =>
    { laneE p o [src x 1 223, src c 1 223, src n 2 223, dst d 2 191] true (inRange skm.toNat 1 11 || skm == 15) with
      masks := if skm = 15 then [] else [skm.toNat] }
  | .wskip p d x o v =>
    laneE p o (dst d (if v = 2 then 2 else 1) 223 :: (if v = 0 then [src x 1 223] else [])) true (v == 0 || x == 0)
  | .wstep p o => laneE p o [] false true
  | .wstepSet p x o => laneE p o [src x 1 223] false true
  | .nbrk p a o t => ptInfo p a o t
  | .nbrr p a o t => ptInfo p a o t
  | .siteh p a o t => ptInfo p a o t
  | .rule p a o t => ptInfo p a o t
  | .ruleSub p a o t => ptInfo p a o t
  | .pgat p a o _ t => ptInfo p a o t
  | .psca p a o t => ptInfo p a o t
  | .spawn x a b o => uniL o [src a 1 223, src b 1 247, src x 2 223] true false false
  | .bflush x => uniA [src x 2 223]
  | .bflushAll => uniA []
  | .claim n => uniA [] (inRange n.toNat 1 12)
  | .claimTry d n => uniA [dst d 1 223] (inRange n.toNat 1 12)
  | .give n => uniA [] (inRange n.toNat 1 12)
  | .giveRole _ n => uniA [] (inRange n.toNat 1 12)
  | .cyield => uniA []
  | .tdone k _ => uniA [] (decide (k.toNat ≤ 11))
  | .qlen d q _ => uniA [dst d 1 223] (inRange q.toNat 224 249 || decide (q.toNat < 192))
  | .mcst x a sz o =>
    uniL o [src a 2 223, src x (if sz = 0 then 1 else if sz = 1 then 2 else if sz = 2 then 4 else 8) 223]
      true true false (inRange o.scope.toNat 4 5)
  | .rchk d a o => uniL o [src a 2 223, dst d] true false false (inRange o.scope.toNat 4 5)
  | .resync a o => uniL o [src a 2 223] true false false (inRange o.scope.toNat 4 5)
  | .slotq d _ => uniA [dst d]
  | .slotr d => uniA [dst d 2 223]
  | .slotw x => uniA [src x 1 247]
  | .rstat d a => uniA [src a 2 223, dst d]
  | .trap _ => uniA []
  | .brk _ => uniA []
  | .eret => { uniA [] with privileged := true }
  | .eretKill => { uniA [] with privileged := true }
  | .csrr d n => uniA [dst d] (sysNumbers.contains n.toNat)
  | .csrw x n => uniA [src x 1 247] (sysWritable.contains n.toNat)
  | .tlbiAll o => { uniL o [] false false false (inRange o.scope.toNat 3 5) with privileged := true }
  | .tlbiVa a o => { uniL o [src a 2 223] false false false (inRange o.scope.toNat 3 5) with privileged := true }
  | .iclock d a b => uniA [src a 2 223, src b 1 247, dst d]
  | .icunlk a b => uniA [src a 2 223, src b 1 247]
  | .keyld x a o => { uniL o [src a 1 223, src x 1 223] true false false with privileged := true }
  | .ctxsv a o => { uniL o [src a 2 223] false false false with privileged := true }
  | .ctxld a o => { uniL o [src a 2 223] false false false with privileged := true }
  | .dbgh a _ => { uniA [src a 2 223] with privileged := true }
  | _ => event

end Sys2Proof

namespace Sys2Proof.Machine

/-- A register field is legal (R52, R56, R59): in range, and a pair or group of v or g registers starts at a multiple of
its size. A q register of odd number may stand for a 64-bit operand: R57 gives its two entries, and R56 speaks of pairs of v
and g registers; so may one of any number for the store data of `.x4` and for y of CAS128, of which R187 and R210 say that they start at a multiple
of four: DEDUCED (notes/assumptions/46.md). -/
def Opnd.ok (o : Opnd) : Bool :=
  decide (o.reg.toNat ≤ o.max) && (decide (224 ≤ o.reg.toNat) || o.reg.toNat % o.n == 0)

/-- The prefix fields are legal for the instruction (R37, R44, R45). -/
def Info.pfxOk (i : Info) : Bool :=
  match i.pfx with
  | none => !i.needs4
  | some p =>
    (decide (p.msk.toNat ≤ 11) || p.msk == 15) && (p.f4v || p.f4 == 0) && (p.f4v == i.needs4)
      && (p.rnd == 0 || i.rounds) && (!p.zero || i.laneDest)
      && (p.type == 0 || p.type.toNat == i.dflt || i.types.contains p.type.toNat)

/-- The ordering word's scope is legal (R28). -/
def Info.ordOk (i : Info) : Bool := match i.ord with | none => true | some o => decide (o.scope.toNat ≤ 5)

/-- No field of the words raises illegal-instruction by itself (R34 to R61, R64). -/
def Info.legal (i : Info) : Bool := i.word && i.fields && i.pfxOk && i.ordOk && i.opnds.all Opnd.ok

end Sys2Proof.Machine

namespace Sys2Proof

/-- The bytes of an instruction: prefix, base, ordering and engine words (R31). -/
def Instr.len (i : Instr) : Nat :=
  4 * ((if i.info.pfx.isSome then 1 else 0) + 1 + i.info.ext)

end Sys2Proof
end

