-- ==== Sys2Proof/WellFormed.lean ====
section
/-! DEFINITION. Well-formed instructions: those whose words raise no illegal-instruction by themselves. -/

namespace Sys2Proof

/-- An instruction word group the part accepts (R64, R66): every field has a legal value. Rows that are no words
(events, commands, register writes, calls) have no words and are not well-formed. -/
abbrev Instr.WellFormed (i : Instr) : Prop := i.info.legal = true

end Sys2Proof
end

