-- ==== Sys2Proof/Decode.lean ====
section
/-! DEFINITION. The decoder, total on any words and rejecting by name, and the encoder, both from the encoding tables of
spec/02 to spec/17. A rejected word group is one the part traps with illegal-instruction (R64). -/

namespace Sys2Proof

/-- Why a word group is no instruction. -/
inductive Reject where
  | unassigned      -- an unassigned major (R64)
  | badPrefix       -- a prefix before a word it may not precede (R38), or uniform major 7Fh (R37)
  | reservedField   -- a reserved or unused field is not zero (R34, R35, R36)
  | engineCode      -- ENG does not match the major (R50, R51)
  | engineOp        -- OP is not defined for the major (R50)
  | truncated       -- fewer words than the instruction has
  deriving DecidableEq, Repr

/-- Bits [lo + n − 1 : lo] of a word. -/
def fld (w : Word) (lo n : Nat) : BitVec n := w.extractLsb' lo n
def bit (w : Word) (i : Nat) : Bool := w.getLsbD i
def dOf (w : Word) : BitVec 8 := fld w 16 8
def aOf (w : Word) : BitVec 8 := fld w 8 8
def bOf (w : Word) : BitVec 8 := fld w 0 8
def b1 (b : Bool) : BitVec 1 := BitVec.ofBool b

/-- Formats A, I and B (R34, R35, R36): the set bit and the major together are one byte. -/
def wA (op d a b : BitVec 8) : Word := op ++ d ++ a ++ b
def wI (op d : BitVec 8) (imm : BitVec 16) : Word := op ++ d ++ imm
def wB (op : BitVec 8) (sel : BitVec 4) (off : BitVec 20) : Word := op ++ sel ++ off

/-- The prefix word (R37). -/
def Pfx.word (p : Pfx) : Word :=
  0x7F#8 ++ p.msk ++ p.rnd ++ b1 p.zero ++ b1 p.f4v ++ p.f4 ++ p.type ++ p.phint

def pfxOf (w : Word) : Pfx := ⟨fld w 20 4, fld w 18 2, bit w 17, bit w 16, fld w 8 8, fld w 4 4, fld w 0 4⟩

/-- The ordering word (R46). -/
def Ord.word (o : Ord) : Word := o.strm ++ o.pred ++ o.scope ++ b1 o.vol ++ o.pol ++ o.ohint ++ o.off

def ordOf (w : Word) : Ord := ⟨fld w 29 3, fld w 21 8, fld w 18 3, bit w 17, fld w 15 2, fld w 12 3, fld w 0 12⟩

def pw (p : OPfx) : List Word := match p with | none => [] | some q => [q.word]

def zero {n : Nat} (x : BitVec n) (i : Instr) : Except Reject Instr := if x = 0 then .ok i else .error .reservedField
def zeroBit (x : Bool) (i : Instr) : Except Reject Instr := if x then .error .reservedField else .ok i

/-- Lane majors 00h to 08h (R86). -/
def decodeControl (op : Nat) (w : Word) : Except Reject Instr :=
  let d := dOf w; let a := aOf w; let b := bOf w; let sel : BitVec 4 := fld w 20 4; let off : BitVec 20 := fld w 0 20
  match op with
  | 0x00 => if d = 0 ∧ a = 0 ∧ b = 0 then .ok (.nop) else .error .reservedField
  | 0x01 => if sel = 0 then .ok (.bra off) else .error .reservedField
  | 0x02 => .ok (.brc sel off)
  | 0x03 => if sel = 0 then .ok (.call off) else .error .reservedField
  | 0x04 => if d = 0 ∧ a = 0 ∧ b = 0 then .ok (.ret) else if d = 0 ∧ b = 1 then .ok (.retPair a) else .error .reservedField
  | 0x05 => if d = 0 ∧ b = 0 then .ok (.jmpi a) else .error .reservedField
  | 0x06 => if d = 0 ∧ b = 0 then .ok (.calli a) else if b = 1 then .ok (.calliLink d a) else .error .reservedField
  | 0x07 => if d = 0 ∧ a = 0 ∧ b = 0 then .ok (.exit) else .error .reservedField
  | 0x08 => if fld w 2 6 = 0#6 then .ok (.vote d a (fld w 0 2)) else .error .reservedField
  | _ => .error .unassigned

/-- Lane majors 10h to 1Fh (R106). -/
def decodeInteger1 (op : Nat) (p : OPfx) (w : Word) : Except Reject Instr :=
  let d := dOf w; let a := aOf w; let b := bOf w
  match op with
  | 0x10 => .ok (.add p d a b)
  | 0x11 => .ok (.sub p d a b)
  | 0x12 => .ok (.addc p d a b)
  | 0x13 => .ok (.mul p d a b)
  | 0x14 => .ok (.mulh p d a b)
  | 0x15 => .ok (.mad p d a b)
  | 0x16 => .ok (.div p d a b)
  | 0x17 => .ok (.rem p d a b)
  | 0x18 => .ok (.min p d a b)
  | 0x19 => .ok (.max p d a b)
  | 0x1a => zero b (.abs p d a)
  | 0x1b => .ok (.and p d a b)
  | 0x1c => .ok (.or p d a b)
  | 0x1d => .ok (.xor p d a b)
  | 0x1e => .ok (.andn p d a b)
  | 0x1f => .ok (.shl p d a b)
  | _ => .error .unassigned

/-- Lane majors 20h to 2Eh (R106). -/
def decodeInteger2 (op : Nat) (p : OPfx) (w : Word) : Except Reject Instr :=
  let d := dOf w; let a := aOf w; let b := bOf w
  match op with
  | 0x20 => .ok (.shr p d a b)
  | 0x21 => .ok (.fsh p d a b)
  | 0x22 => .ok (.bfx p d a b)
  | 0x23 => .ok (.bfi p d a b)
  | 0x24 => zero b (.popc p d a)
  | 0x25 => zero b (.clz p d a)
  | 0x26 => zero b (.ctz p d a)
  | 0x27 => zero b (.brev p d a)
  | 0x28 => .ok (.sel p d a b)
  | 0x29 => .ok (.cmpm p (fld w 20 4) (fld w 16 4) a b)
  | 0x2a => .ok (.movi p d (fld w 0 16))
  | 0x2b => .ok (.movh p d (fld w 0 16))
  | 0x2c => .ok (.addi p d (fld w 0 16))
  | 0x2d => zero b (.mov p d a)
  | 0x2e => .ok (.lea p d a b)
  | _ => .error .unassigned

/-- Lane majors 30h to 3Fh (R137). -/
def decodeFloat (op : Nat) (p : OPfx) (w : Word) : Except Reject Instr :=
  let d := dOf w; let a := aOf w; let b := bOf w
  match op with
  | 0x30 => .ok (.fadd p d a b)
  | 0x31 => .ok (.fsub p d a b)
  | 0x32 => .ok (.fmul p d a b)
  | 0x33 => .ok (.ffma p d a b)
  | 0x34 => .ok (.fmin p d a b)
  | 0x35 => .ok (.fmax p d a b)
  | 0x36 => zero b (.fabs p d a)
  | 0x37 => zero b (.fneg p d a)
  | 0x38 => .ok (.fcmp p (fld w 20 4) (fld w 16 4) a b)
  | 0x39 => .ok (.fcvt p d a b)
  | 0x3a => .ok (.fcvti p d a b)
  | 0x3b => .ok (.icvtf p d a b)
  | 0x3c => .ok (.fadd2 p d a b)
  | 0x3d => .ok (.fmul2 p d a b)
  | 0x3e => .ok (.ffma2 p d a b)
  | 0x3f => zero b (.fclass p d a)
  | _ => .error .unassigned

/-- Lane majors 40h to 4Eh (R125, R137). -/
def decodeCross (op : Nat) (p : OPfx) (w : Word) : Except Reject Instr :=
  let d := dOf w; let a := aOf w; let b := bOf w
  match op with
  | 0x40 => .ok (.sfq p d a (fld w 4 4) (fld w 0 4))
  | 0x41 => zero d (.sfwait p (fld w 0 16))
  | 0x42 => zero b (.frnd p d a)
  | 0x43 => .ok (.fscl p d a b)
  | 0x44 => .ok (.fdiv p d a b)
  | 0x45 => zero b (.fsqrt p d a)
  | 0x48 => zeroBit (bit w 4) (.shfi p d a (fld w 5 3) (fld w 0 4))
  | 0x49 => zeroBit (bit w 4) (.shfu p d a (fld w 5 3) (fld w 0 4))
  | 0x4a => zeroBit (bit w 4) (.shfd p d a (fld w 5 3) (fld w 0 4))
  | 0x4b => zeroBit (bit w 4) (.shfx p d a (fld w 5 3) (fld w 0 4))
  | 0x4c => zeroBit (bit w 7) (.cxs p d a (bit w 6) (fld w 3 3) (fld w 0 3))
  | 0x4d => .ok (.perm p d a b)
  | 0x4e => zeroBit (bit w 7 || bit w 3) (.scan p d a (fld w 4 3) (bit w 2) (fld w 0 2))
  | _ => .error .unassigned

/-- Lane majors 50h to 5Fh (R273, R288). -/
def decodeInterval (op : Nat) (p : OPfx) (w : Word) : Except Reject Instr :=
  let d := dOf w; let a := aOf w; let b := bOf w
  match op with
  | 0x50 => .ok (.eadd p d a b)
  | 0x51 => .ok (.esub p d a b)
  | 0x52 => .ok (.emul p d a b)
  | 0x53 => .ok (.ediv p d a b)
  | 0x54 => zero b (.esqrt p d a)
  | 0x55 => zero b (.eneg p d a)
  | 0x56 => zero b (.esq p d a)
  | 0x57 => .ok (.efma p d a b)
  | 0x58 => zero b (.eleaf p d a)
  | 0x59 => zero b (.eleafi p d a)
  | 0x5a => zero (fld w 1 7) (.emov p d a (bit w 0))
  | 0x5b => zero (fld w 2 6) (.ebnd p d a (fld w 0 2))
  | 0x5c => zero (fld w 1 7) (.esever p d a (bit w 0))
  | 0x5d => zero (fld w 0 4) (.ecmp p (fld w 20 4) (fld w 16 4) a (fld w 4 4))
  | 0x5e => zero (fld w 0 4) (.esgn p d a (fld w 4 4))
  | 0x5f => zero (fld w 1 7) (.ewid p d a (bit w 0))
  | _ => .error .unassigned

/-- Lane majors 60h to 6Ah (R187, R210). -/
def decodeMemory (op : Nat) (p : OPfx) (w : Word) (o : Ord) : Except Reject Instr :=
  let d := dOf w; let a := aOf w
  match op with
  | 0x60 => zero (fld w 1 7) (.ldg p d a (bit w 0) o)
  | 0x61 => zero (fld w 1 7) (.stg p d a (bit w 0) o)
  | 0x62 => zero (fld w 1 7) (.lds p d a (bit w 0) o)
  | 0x63 => zero (fld w 1 7) (.sts p d a (bit w 0) o)
  | 0x64 => zero (fld w 1 7) (.ldp p d a (bit w 0) o)
  | 0x65 => zero (fld w 1 7) (.stp p d a (bit w 0) o)
  | 0x66 => if d = 0 ∧ fld w 1 7 = 0#7 then .ok (.pfg p a (bit w 0) o) else .error .reservedField
  | 0x67 => zero (fld w 2 2) (.atom p d a (fld w 4 4) (fld w 0 2) o)
  | 0x68 => zero (fld w 2 6) (.cas p d a (fld w 0 2) o)
  | 0x69 => zero (fld w 2 6) (.cas128 p d a (fld w 0 2) o)
  | 0x6a => zero (fld w 2 2) (.red p d a (fld w 4 4) (fld w 0 2) o)
  | _ => .error .unassigned

/-- Lane majors 70h to 77h (R317, R338, R356, R237), selected by the engine word's OP (R50, R51). -/
def decodeEngine (op : Nat) (p : OPfx) (w : Word) (o : Ord) (e : Word) : Except Reject Instr :=
  let d := dOf w; let a := aOf w; let b := bOf w
  match op with
  | 0x70 => if fld e 28 4 ≠ 1#4 then .error .engineCode else 
      if fld e 24 4 = 0#4 then (if d = 0 ∧ fld e 0 5 = 0#5 then .ok (.mma p a b o ⟨fld e 21 3, fld e 17 4, bit e 16, bit e 15, bit e 14, bit e 13, bit e 12, fld e 6 6, bit e 5⟩) else .error .reservedField) else .error .engineOp
  | 0x71 => if fld e 28 4 ≠ 1#4 then .error .engineCode else 
      if fld e 24 4 = 0#4 then (if d = 0 ∧ a = 0 ∧ b = 0 ∧ fld e 0 21 = 0#21 then .ok (.accz p o (fld e 21 3)) else .error .reservedField) else
      if fld e 24 4 = 1#4 then (if a = 0 ∧ b = 0 ∧ fld e 0 18 = 0#18 then .ok (.accrd p d o (fld e 21 3) (fld e 19 2) (bit e 18)) else .error .reservedField) else
      if fld e 24 4 = 2#4 then (if d = 0 ∧ b = 0 ∧ fld e 0 19 = 0#19 then .ok (.accwr p a o (fld e 21 3) (fld e 19 2)) else .error .reservedField) else .error .engineOp
  | 0x72 => if fld e 28 4 ≠ 1#4 then .error .engineCode else 
      if fld e 24 4 = 0#4 then (if b = 0 ∧ fld e 21 3 = 0#3 ∧ fld e 0 15 = 0#15 then .ok (.qnt p d a o ⟨fld e 17 4, bit e 16, bit e 15⟩) else .error .reservedField) else
      if fld e 24 4 = 1#4 then (if b = 0 ∧ fld e 21 3 = 0#3 ∧ fld e 0 15 = 0#15 then .ok (.dqnt p d a o ⟨fld e 17 4, bit e 16, bit e 15⟩) else .error .reservedField) else
      if fld e 24 4 = 2#4 then (if d = 0 ∧ b = 0 ∧ fld e 0 24 = 0#24 then .ok (.ctbl p a o) else .error .reservedField) else .error .engineOp
  | 0x73 => if fld e 28 4 ≠ 2#4 then .error .engineCode else 
      if fld e 24 4 = 0#4 then (if d = 0 ∧ b = 0 ∧ fld e 0 24 = 0#24 then .ok (.wcfg p a o) else .error .reservedField) else
      if fld e 24 4 = 1#4 then (if b = 0 ∧ fld e 1 23 = 0#23 then .ok (.wsig p d a o (bit e 0)) else .error .reservedField) else
      if fld e 24 4 = 2#4 then (if fld e 0 12 = 0#12 then .ok (.wtest p d a b o (fld e 16 8) (fld e 12 4)) else .error .reservedField) else
      if fld e 24 4 = 3#4 then (if b = 0 ∧ fld e 2 22 = 0#22 then .ok (.wskip p d a o (fld e 0 2)) else .error .reservedField) else
      if fld e 24 4 = 4#4 then (if d = 0 ∧ b = 0 ∧ fld e 0 24 = 0#24 ∧ a = 0 then .ok (.wstep p o) else if d = 0 ∧ b = 0 ∧ fld e 0 24 = 1#24 then .ok (.wstepSet p a o) else .error .reservedField) else .error .engineOp
  | 0x74 => if fld e 28 4 ≠ 3#4 then .error .engineCode else 
      if fld e 24 4 = 0#4 then (if d = 0 ∧ b = 0 ∧ fld e 12 12 = 0#12 ∧ fld e 0 5 = 0#5 then .ok (.nbrk p a o ⟨fld e 6 6, bit e 5⟩) else .error .reservedField) else
      if fld e 24 4 = 1#4 then (if d = 0 ∧ b = 0 ∧ fld e 12 12 = 0#12 ∧ fld e 0 5 = 0#5 then .ok (.nbrr p a o ⟨fld e 6 6, bit e 5⟩) else .error .reservedField) else .error .engineOp
  | 0x75 => if fld e 28 4 ≠ 3#4 then .error .engineCode else 
      if fld e 24 4 = 0#4 then (if d = 0 ∧ b = 0 ∧ fld e 12 12 = 0#12 ∧ fld e 0 5 = 0#5 then .ok (.siteh p a o ⟨fld e 6 6, bit e 5⟩) else .error .reservedField) else
      if fld e 24 4 = 1#4 then (if d = 0 ∧ b = 0 ∧ fld e 12 12 = 0#12 ∧ fld e 0 5 = 0#5 then .ok (.rule p a o ⟨fld e 6 6, bit e 5⟩) else if d = 0 ∧ b = 0 ∧ fld e 12 12 = 1#12 ∧ fld e 0 5 = 0#5 then .ok (.ruleSub p a o ⟨fld e 6 6, bit e 5⟩) else .error .reservedField) else .error .engineOp
  | 0x76 => if fld e 28 4 ≠ 3#4 then .error .engineCode else 
      if fld e 24 4 = 0#4 then (if d = 0 ∧ b = 0 ∧ fld e 13 11 = 0#11 ∧ fld e 0 5 = 0#5 then .ok (.pgat p a o (bit e 12) ⟨fld e 6 6, bit e 5⟩) else .error .reservedField) else
      if fld e 24 4 = 1#4 then (if d = 0 ∧ b = 0 ∧ fld e 12 12 = 0#12 ∧ fld e 0 5 = 0#5 then .ok (.psca p a o ⟨fld e 6 6, bit e 5⟩) else .error .reservedField) else .error .engineOp
  | 0x77 => if fld e 28 4 ≠ 4#4 then .error .engineCode else 
      if fld e 24 4 = 0#4 then (if d = 0 ∧ b = 0 ∧ fld e 0 24 = 0#24 then .ok (.ioreq p a o) else .error .reservedField) else .error .engineOp
  | _ => .error .unassigned

/-- Uniform majors 00h to 0Ch (R87). -/
def decodeUniform0 (op : Nat) (w : Word) : Except Reject Instr :=
  let d := dOf w; let a := aOf w; let b := bOf w; let sel : BitVec 4 := fld w 20 4; let off : BitVec 20 := fld w 0 20
  match op with
  | 0x80 => if sel = 15 then .ok (.bru off) else .ok (.bruMask sel off)
  | 0x81 => if a = 0 ∧ b = 0 then .ok (.join d) else .error .reservedField
  | 0x82 => if a = 0 ∧ b = 0 then .ok (.leave d) else .error .reservedField
  | 0x83 => if a = 0 ∧ b = 0 then .ok (.waitm d) else .error .reservedField
  | 0x84 => .ok (.mand d a b)
  | 0x85 => .ok (.mor d a b)
  | 0x86 => .ok (.mxor d a b)
  | 0x87 => .ok (.mandn d a b)
  | 0x88 => if b = 0 then .ok (.mmovMM d a) else if b = 1 then .ok (.mmovMG d a) else if b = 2 then .ok (.mmovGM d a) else .error .reservedField
  | 0x89 => if d = 0 ∧ a = 0 ∧ b = 0 then .ok (.yieldGang) else .error .reservedField
  | 0x8a => if d = 0 ∧ b = 0 then .ok (.sleep a) else .error .reservedField
  | 0x8b => if a = 0 ∧ b = 0 then .ok (.roleGet d) else if d = 0 ∧ b = 1 then .ok (.roleSet a) else .error .reservedField
  | 0x8c => if fld w 2 6 = 0#6 then .ok (.mpop d a (fld w 0 2)) else .error .reservedField
  | _ => .error .unassigned

/-- Uniform majors 10h to 19h (R122). -/
def decodeUniform1 (op : Nat) (w : Word) : Except Reject Instr :=
  let d := dOf w; let a := aOf w; let b := bOf w
  match op with
  | 0x90 => .ok (.uadd d a b)
  | 0x91 => .ok (.usub d a b)
  | 0x92 => .ok (.umul d a b)
  | 0x93 => .ok (.uand d a b)
  | 0x94 => .ok (.uor d a b)
  | 0x95 => .ok (.uxor d a b)
  | 0x96 => .ok (.ushl d a b)
  | 0x97 => .ok (.ushr d a b)
  | 0x98 => .ok (.umovi d (fld w 0 16))
  | 0x99 => .ok (.umovh d (fld w 0 16))
  | _ => .error .unassigned

/-- Uniform majors 30h to 3Eh (R222, R226, R237, R163). -/
def decodeUniform3 (op : Nat) (w : Word) (o : Ord) (e : Word) : Except Reject Instr :=
  let d := dOf w; let a := aOf w; let b := bOf w
  match op with
  | 0xb0 => if d = 0 ∧ a = 0 ∧ fld w 5 3 = 0#3 then .ok (.barr (fld w 0 5) o) else if a = 0 ∧ fld w 5 3 = 1#3 then .ok (.barrPhase d (fld w 0 5) o) else .error .reservedField
  | 0xb1 => if d = 0 ∧ fld w 5 3 = 0#3 then .ok (.barw a (fld w 0 5) o) else .error .reservedField
  | 0xb2 => if d = 0 ∧ fld w 5 3 = 0#3 then .ok (.bars a (fld w 0 5) o) else .error .reservedField
  | 0xb3 => if b = 0 then .ok (.tkt d a o) else .error .reservedField
  | 0xb4 => if d = 0 then .ok (.tktw a b) else .error .reservedField
  | 0xb5 => if d = 0 ∧ b = 0 then .ok (.tktsNext a o) else if b = 1 then .ok (.tktsSet a d o) else .error .reservedField
  | 0xb6 => if d = 0 ∧ b = 0 ∧ e = 0x50000000#32 then .ok (.barge a o) else .error .reservedField
  | 0xb7 => if d = 0 ∧ fld w 1 7 = 0#7 then .ok (.tagw a (bit w 0)) else .error .reservedField
  | 0xb8 => if fld w 1 7 = 0#7 then .ok (.tagf d a (bit w 0)) else .error .reservedField
  | 0xb9 => if d = 0 ∧ b = 0 then .ok (.tagclr a) else .error .reservedField
  | 0xba => if fld w 1 7 = 0#7 then .ok (.rawait d a (bit w 0) o) else .error .reservedField
  | 0xbb => if d = 0 ∧ b = 0 then .ok (.rarel a o) else .error .reservedField
  | 0xbc => if d = 0 ∧ b = 0 then .ok (.rapub a o) else .error .reservedField
  | 0xbd => if d = 0 ∧ fld w 2 6 = 0#6 then .ok (.waity a (fld w 0 2)) else .error .reservedField
  | 0xbe => if d = 0 then .ok (.swait a b) else .error .reservedField
  | _ => .error .unassigned

/-- Uniform majors 40h to 46h (R372). -/
def decodeUniform4 (op : Nat) (w : Word) (o : Ord) : Except Reject Instr :=
  let d := dOf w; let a := aOf w; let b := bOf w
  match op with
  | 0xc0 => .ok (.spawn d a b o)
  | 0xc1 => if d = 0 ∧ a = 0 ∧ fld w 4 4 = 0#4 then .ok (.claim (fld w 0 4)) else if a = 0 ∧ fld w 4 4 = 8#4 then .ok (.claimTry d (fld w 0 4)) else .error .reservedField
  | 0xc2 => if d = 0 ∧ a = 0 ∧ fld w 4 4 = 0#4 then .ok (.give (fld w 0 4)) else if d = 0 ∧ a = 0 ∧ bit w 7 = true ∧ bit w 4 = false then .ok (.giveRole (fld w 5 2) (fld w 0 4)) else .error .reservedField
  | 0xc3 => if d = 0 ∧ a = 0 ∧ b = 0 then .ok (.cyield) else .error .reservedField
  | 0xc4 => if d = 0 ∧ fld w 2 6 = 0#6 then .ok (.tdone a (fld w 0 2)) else .error .reservedField
  | 0xc5 => if fld w 1 7 = 0#7 then .ok (.qlen d a (bit w 0)) else .error .reservedField
  | 0xc6 => if d = 0 ∧ b = 0 then .ok (.bflush a) else if d = 0 ∧ a = 0 ∧ b = 1 then .ok (.bflushAll) else .error .reservedField
  | _ => .error .unassigned

/-- Uniform majors 50h to 56h (R407). -/
def decodeUniform5 (op : Nat) (w : Word) (o : Ord) : Except Reject Instr :=
  let d := dOf w; let a := aOf w; let b := bOf w
  match op with
  | 0xd0 => if fld w 2 6 = 0#6 then .ok (.mcst d a (fld w 0 2) o) else .error .reservedField
  | 0xd1 => if b = 0 then .ok (.rchk d a o) else .error .reservedField
  | 0xd2 => if d = 0 ∧ b = 0 then .ok (.resync a o) else .error .reservedField
  | 0xd3 => if a = 0 ∧ fld w 2 6 = 0#6 then .ok (.slotq d (fld w 0 2)) else .error .reservedField
  | 0xd4 => if a = 0 ∧ b = 0 then .ok (.slotr d) else .error .reservedField
  | 0xd5 => if d = 0 ∧ b = 0 then .ok (.slotw a) else .error .reservedField
  | 0xd6 => if b = 0 then .ok (.rstat d a) else .error .reservedField
  | _ => .error .unassigned

/-- Uniform majors 60h to 65h (R195, R219). -/
def decodeUniform6 (op : Nat) (w : Word) (o : Ord) : Except Reject Instr :=
  let d := dOf w; let a := aOf w
  match op with
  | 0xe0 => if fld w 2 6 = 0#6 then .ok (.uldg d a (fld w 0 2) o) else .error .reservedField
  | 0xe1 => if fld w 2 6 = 0#6 then .ok (.ustg d a (fld w 0 2) o) else .error .reservedField
  | 0xe2 => if fld w 2 6 = 0#6 then .ok (.ulds d a (fld w 0 2) o) else .error .reservedField
  | 0xe3 => if fld w 2 6 = 0#6 then .ok (.usts d a (fld w 0 2) o) else .error .reservedField
  | 0xe4 => .ok (.uatom d a (fld w 4 4) (bit w 3) (bit w 2) (fld w 0 2) o)
  | 0xe5 => if fld w 4 4 = 0#4 ∧ bit w 2 = false then .ok (.ucas d a (bit w 3) (fld w 0 2) o) else .error .reservedField
  | _ => .error .unassigned

/-- Uniform majors 70h to 7Dh (R425, R229). -/
def decodeUniform7 (op : Nat) (w : Word) (o : Ord) : Except Reject Instr :=
  let d := dOf w; let a := aOf w; let b := bOf w
  match op with
  | 0xf0 => if d = 0 ∧ a = 0 then .ok (.trap b) else .error .reservedField
  | 0xf1 => if d = 0 ∧ a = 0 ∧ b = 0 then .ok (.eret) else if d = 0 ∧ a = 0 ∧ b = 1 then .ok (.eretKill) else .error .reservedField
  | 0xf2 => .ok (.csrr d (fld w 0 16))
  | 0xf3 => .ok (.csrw d (fld w 0 16))
  | 0xf4 => if d = 0 ∧ a = 0 ∧ b = 0 then .ok (.tlbiAll o) else if d = 0 ∧ b = 1 then .ok (.tlbiVa a o) else .error .reservedField
  | 0xf5 => .ok (.iclock d a b)
  | 0xf6 => if d = 0 then .ok (.icunlk a b) else .error .reservedField
  | 0xf7 => if b = 0 then .ok (.keyld d a o) else .error .reservedField
  | 0xf8 => if d = 0 ∧ b = 0 then .ok (.ctxsv a o) else .error .reservedField
  | 0xf9 => if d = 0 ∧ b = 0 then .ok (.ctxld a o) else .error .reservedField
  | 0xfa => if b = 0 then .ok (.qlk d a o) else .error .reservedField
  | 0xfb => if d = 0 ∧ b = 0 then .ok (.qul a o) else .error .reservedField
  | 0xfc => if d = 0 ∧ a = 0 then .ok (.brk b) else .error .reservedField
  | 0xfd => if d = 0 ∧ fld w 2 6 = 0#6 then .ok (.dbgh a (fld w 0 2)) else .error .reservedField
  | _ => .error .unassigned

/-- The words that follow a base word whose first byte (set and major) is op: 1 for format L, 2 for format E (R32). -/
def extWords (op : Nat) : Nat :=
  if 0x60 ≤ op ∧ op ≤ 0x6A then 1
  else if (0x70 ≤ op ∧ op ≤ 0x77) ∨ op = 0xB6 then 2
  else if op ∈ [0xB0, 0xB1, 0xB2, 0xB3, 0xB5, 0xBA, 0xBB, 0xBC, 0xC0, 0xD0, 0xD1, 0xD2, 0xE0, 0xE1, 0xE2, 0xE3, 0xE4, 0xE5, 0xF4, 0xF7, 0xF8, 0xF9, 0xFA, 0xFB] then 1
  else 0

/-- A base word with its extension words, and the prefix before it. -/
def decodeBase (p : OPfx) (w ow ew : Word) : Except Reject Instr :=
  let op := w.toNat / 2 ^ 24
  let o := ordOf ow
  if p.isSome && !(decide (0x10 ≤ op) && decide (op ≤ 0x77)) then .error .badPrefix
  else match op / 16 with
  | 0x0 => decodeControl op w
  | 0x1 => decodeInteger1 op p w
  | 0x2 => decodeInteger2 op p w
  | 0x3 => decodeFloat op p w
  | 0x4 => decodeCross op p w
  | 0x5 => decodeInterval op p w
  | 0x6 => decodeMemory op p w o
  | 0x7 => decodeEngine op p w o ew
  | 0x8 => decodeUniform0 op w
  | 0x9 => decodeUniform1 op w
  | 0xB => decodeUniform3 op w o ew
  | 0xC => decodeUniform4 op w o
  | 0xD => decodeUniform5 op w o
  | 0xE => decodeUniform6 op w o
  | 0xF => decodeUniform7 op w o
  | _ => .error .unassigned

/-- The instruction that stands first in a list of words. -/
def decodeWords : List Word → Except Reject Instr
  | [] => .error .truncated
  | w :: rest =>
    if w.toNat / 2 ^ 24 = 0x7F then
      match rest with
      | [] => .error .truncated
      | b :: ext => decodeAt (some (pfxOf w)) b ext
    else decodeAt none w rest
where
  /-- A base word and the words after it. -/
  decodeAt (p : OPfx) (b : Word) (ext : List Word) : Except Reject Instr :=
    match extWords (b.toNat / 2 ^ 24), ext with
    | 0, _ => decodeBase p b 0 0
    | 1, o :: _ => decodeBase p b o 0
    | 2, o :: e :: _ => decodeBase p b o e
    | _, _ => if p.isSome && decide (0x77 < b.toNat / 2 ^ 24) then .error .badPrefix else .error .truncated

/-- The words of a list of bytes, each word little-endian (R31); bytes short of a word are dropped. -/
def wordsOf : List Byte → List Word
  | b0 :: b1 :: b2 :: b3 :: rest => (b3 ++ b2 ++ b1 ++ b0 : Word) :: wordsOf rest
  | _ => []

/-- The decoder on bytes. -/
def decode (bs : List Byte) : Except Reject Instr := decodeWords (wordsOf bs)

/-- The bytes of a word, lowest address first (R31). -/
def wordBytes (w : Word) : List Byte := [fld w 0 8, fld w 8 8, fld w 16 8, fld w 24 8]

/-- The words of an instruction (R31); a row that is no word has none. -/
def Instr.encode : Instr → List Word
  | .nop => [wA 0x00 0 0 0]
  | .bra off => [wB 0x01 0 off]
  | .brc k off => [wB 0x02 k off]
  | .call off => [wB 0x03 0 off]
  | .ret => [wA 0x04 0 0 0]
  | .retPair q => [wA 0x04 0 q 1]
  | .jmpi q => [wA 0x05 0 q 0]
  | .calli q => [wA 0x06 0 q 0]
  | .calliLink d q => [wA 0x06 d q 1]
  | .exit => [wA 0x07 0 0 0]
  | .vote k x v => [wA 0x08 k x (0#6 ++ v)]
  | .bru off => [wB 0x80 15 off]
  | .bruMask k off => [wB 0x80 k off]
  | .join k => [wA 0x81 k 0 0]
  | .leave k => [wA 0x82 k 0 0]
  | .waitm k => [wA 0x83 k 0 0]
  | .mand k a b => [wA 0x84 k a b]
  | .mor k a b => [wA 0x85 k a b]
  | .mxor k a b => [wA 0x86 k a b]
  | .mandn k a b => [wA 0x87 k a b]
  | .mmovMM k a => [wA 0x88 k a 0]
  | .mmovMG k a => [wA 0x88 k a 1]
  | .mmovGM d a => [wA 0x88 d a 2]
  | .yieldGang => [wA 0x89 0 0 0]
  | .sleep x => [wA 0x8a 0 x 0]
  | .roleGet d => [wA 0x8b d 0 0]
  | .roleSet x => [wA 0x8b 0 x 1]
  | .mpop d a v => [wA 0x8c d a (0#6 ++ v)]
  | .uadd d a b => [wA 0x90 d a b]
  | .usub d a b => [wA 0x91 d a b]
  | .umul d a b => [wA 0x92 d a b]
  | .uand d a b => [wA 0x93 d a b]
  | .uor d a b => [wA 0x94 d a b]
  | .uxor d a b => [wA 0x95 d a b]
  | .ushl d a b => [wA 0x96 d a b]
  | .ushr d a b => [wA 0x97 d a b]
  | .umovi d imm => [wI 0x98 d imm]
  | .umovh d imm => [wI 0x99 d imm]
  | .barr bar o => [wA 0xb0 0 0 (0#3 ++ bar), o.word]
  | .barrPhase d bar o => [wA 0xb0 d 0 (1#3 ++ bar), o.word]
  | .barw x bar o => [wA 0xb1 0 x (0#3 ++ bar), o.word]
  | .bars x bar o => [wA 0xb2 0 x (0#3 ++ bar), o.word]
  | .tkt d x o => [wA 0xb3 d x 0, o.word]
  | .tktw x y => [wA 0xb4 0 x y]
  | .tktsNext x o => [wA 0xb5 0 x 0, o.word]
  | .tktsSet x y o => [wA 0xb5 y x 1, o.word]
  | .barge a o => [wA 0xb6 0 a 0, o.word, 0x50000000#32]
  | .tagw a any => [wA 0xb7 0 a (0#7 ++ b1 any)]
  | .tagf d a c => [wA 0xb8 d a (0#7 ++ b1 c)]
  | .tagclr a => [wA 0xb9 0 a 0]
  | .rawait d a f o => [wA 0xba d a (0#7 ++ b1 f), o.word]
  | .rarel a o => [wA 0xbb 0 a 0, o.word]
  | .rapub a o => [wA 0xbc 0 a 0, o.word]
  | .waity a m => [wA 0xbd 0 a (0#6 ++ m)]
  | .swait sm n => [wA 0xbe 0 sm n]
  | .spawn x a b o => [wA 0xc0 x a b, o.word]
  | .claim n => [wA 0xc1 0 0 (0#4 ++ n)]
  | .claimTry d n => [wA 0xc1 d 0 (8#4 ++ n)]
  | .give n => [wA 0xc2 0 0 (0#4 ++ n)]
  | .giveRole r n => [wA 0xc2 0 0 (1#1 ++ r ++ 0#1 ++ n)]
  | .cyield => [wA 0xc3 0 0 0]
  | .tdone k act => [wA 0xc4 0 k (0#6 ++ act)]
  | .qlen d q room => [wA 0xc5 d q (0#7 ++ b1 room)]
  | .bflush x => [wA 0xc6 0 x 0]
  | .bflushAll => [wA 0xc6 0 0 1]
  | .mcst x a sz o => [wA 0xd0 x a (0#6 ++ sz), o.word]
  | .rchk d a o => [wA 0xd1 d a 0, o.word]
  | .resync a o => [wA 0xd2 0 a 0, o.word]
  | .slotq d v => [wA 0xd3 d 0 (0#6 ++ v)]
  | .slotr d => [wA 0xd4 d 0 0]
  | .slotw x => [wA 0xd5 0 x 0]
  | .rstat d a => [wA 0xd6 d a 0]
  | .uldg d a sz o => [wA 0xe0 d a (0#6 ++ sz), o.word]
  | .ustg d a sz o => [wA 0xe1 d a (0#6 ++ sz), o.word]
  | .ulds d a sz o => [wA 0xe2 d a (0#6 ++ sz), o.word]
  | .usts d a sz o => [wA 0xe3 d a (0#6 ++ sz), o.word]
  | .uatom d a op wd sg sp o => [wA 0xe4 d a (op ++ b1 wd ++ b1 sg ++ sp), o.word]
  | .ucas d a wd sp o => [wA 0xe5 d a (0#4 ++ b1 wd ++ 0#1 ++ sp), o.word]
  | .trap n => [wA 0xf0 0 0 n]
  | .eret => [wA 0xf1 0 0 0]
  | .eretKill => [wA 0xf1 0 0 1]
  | .csrr d n => [wI 0xf2 d n]
  | .csrw x n => [wI 0xf3 x n]
  | .tlbiAll o => [wA 0xf4 0 0 0, o.word]
  | .tlbiVa a o => [wA 0xf4 0 a 1, o.word]
  | .iclock d a b => [wA 0xf5 d a b]
  | .icunlk a b => [wA 0xf6 0 a b]
  | .keyld x a o => [wA 0xf7 x a 0, o.word]
  | .ctxsv a o => [wA 0xf8 0 a 0, o.word]
  | .ctxld a o => [wA 0xf9 0 a 0, o.word]
  | .qlk d x o => [wA 0xfa d x 0, o.word]
  | .qul x o => [wA 0xfb 0 x 0, o.word]
  | .brk n => [wA 0xfc 0 0 n]
  | .dbgh a v => [wA 0xfd 0 a (0#6 ++ v)]
  | .add p d a b => pw p ++ [wA 0x10 d a b]
  | .sub p d a b => pw p ++ [wA 0x11 d a b]
  | .addc p d a b => pw p ++ [wA 0x12 d a b]
  | .mul p d a b => pw p ++ [wA 0x13 d a b]
  | .mulh p d a b => pw p ++ [wA 0x14 d a b]
  | .mad p d a b => pw p ++ [wA 0x15 d a b]
  | .div p d a b => pw p ++ [wA 0x16 d a b]
  | .rem p d a b => pw p ++ [wA 0x17 d a b]
  | .min p d a b => pw p ++ [wA 0x18 d a b]
  | .max p d a b => pw p ++ [wA 0x19 d a b]
  | .abs p d a => pw p ++ [wA 0x1a d a 0]
  | .and p d a b => pw p ++ [wA 0x1b d a b]
  | .or p d a b => pw p ++ [wA 0x1c d a b]
  | .xor p d a b => pw p ++ [wA 0x1d d a b]
  | .andn p d a b => pw p ++ [wA 0x1e d a b]
  | .shl p d a b => pw p ++ [wA 0x1f d a b]
  | .shr p d a b => pw p ++ [wA 0x20 d a b]
  | .fsh p d a b => pw p ++ [wA 0x21 d a b]
  | .bfx p d a b => pw p ++ [wA 0x22 d a b]
  | .bfi p d a b => pw p ++ [wA 0x23 d a b]
  | .popc p d a => pw p ++ [wA 0x24 d a 0]
  | .clz p d a => pw p ++ [wA 0x25 d a 0]
  | .ctz p d a => pw p ++ [wA 0x26 d a 0]
  | .brev p d a => pw p ++ [wA 0x27 d a 0]
  | .sel p d a b => pw p ++ [wA 0x28 d a b]
  | .cmpm p cc k a b => pw p ++ [wA 0x29 (cc ++ k) a b]
  | .movi p d imm => pw p ++ [wI 0x2a d imm]
  | .movh p d imm => pw p ++ [wI 0x2b d imm]
  | .addi p d imm => pw p ++ [wI 0x2c d imm]
  | .mov p d a => pw p ++ [wA 0x2d d a 0]
  | .lea p d a b => pw p ++ [wA 0x2e d a b]
  | .fadd p d a b => pw p ++ [wA 0x30 d a b]
  | .fsub p d a b => pw p ++ [wA 0x31 d a b]
  | .fmul p d a b => pw p ++ [wA 0x32 d a b]
  | .ffma p d a b => pw p ++ [wA 0x33 d a b]
  | .fmin p d a b => pw p ++ [wA 0x34 d a b]
  | .fmax p d a b => pw p ++ [wA 0x35 d a b]
  | .fabs p d a => pw p ++ [wA 0x36 d a 0]
  | .fneg p d a => pw p ++ [wA 0x37 d a 0]
  | .fcmp p cc k a b => pw p ++ [wA 0x38 (cc ++ k) a b]
  | .fcvt p d a b => pw p ++ [wA 0x39 d a b]
  | .fcvti p d a b => pw p ++ [wA 0x3a d a b]
  | .icvtf p d a b => pw p ++ [wA 0x3b d a b]
  | .fadd2 p d a b => pw p ++ [wA 0x3c d a b]
  | .fmul2 p d a b => pw p ++ [wA 0x3d d a b]
  | .ffma2 p d a b => pw p ++ [wA 0x3e d a b]
  | .fclass p d a => pw p ++ [wA 0x3f d a 0]
  | .sfq p d a t fn => pw p ++ [wA 0x40 d a (t ++ fn)]
  | .sfwait p m => pw p ++ [wI 0x41 0 m]
  | .frnd p d a => pw p ++ [wA 0x42 d a 0]
  | .fscl p d a b => pw p ++ [wA 0x43 d a b]
  | .fdiv p d a b => pw p ++ [wA 0x44 d a b]
  | .fsqrt p d a => pw p ++ [wA 0x45 d a 0]
  | .shfi p d a wid f => pw p ++ [wA 0x48 d a (wid ++ 0#1 ++ f)]
  | .shfu p d a wid f => pw p ++ [wA 0x49 d a (wid ++ 0#1 ++ f)]
  | .shfd p d a wid f => pw p ++ [wA 0x4a d a (wid ++ 0#1 ++ f)]
  | .shfx p d a wid f => pw p ++ [wA 0x4b d a (wid ++ 0#1 ++ f)]
  | .cxs p d a rev lk lj => pw p ++ [wA 0x4c d a (0#1 ++ b1 rev ++ lk ++ lj)]
  | .perm p d a b => pw p ++ [wA 0x4d d a b]
  | .scan p d a wid ex op => pw p ++ [wA 0x4e d a (0#1 ++ wid ++ 0#1 ++ b1 ex ++ op)]
  | .eadd p d a b => pw p ++ [wA 0x50 d a b]
  | .esub p d a b => pw p ++ [wA 0x51 d a b]
  | .emul p d a b => pw p ++ [wA 0x52 d a b]
  | .ediv p d a b => pw p ++ [wA 0x53 d a b]
  | .esqrt p d a => pw p ++ [wA 0x54 d a 0]
  | .eneg p d a => pw p ++ [wA 0x55 d a 0]
  | .esq p d a => pw p ++ [wA 0x56 d a 0]
  | .efma p d a b => pw p ++ [wA 0x57 d a b]
  | .eleaf p d a => pw p ++ [wA 0x58 d a 0]
  | .eleafi p d a => pw p ++ [wA 0x59 d a 0]
  | .emov p d a v => pw p ++ [wA 0x5a d a (0#7 ++ b1 v)]
  | .ebnd p d a v => pw p ++ [wA 0x5b d a (0#6 ++ v)]
  | .esever p d a v => pw p ++ [wA 0x5c d a (0#7 ++ b1 v)]
  | .ecmp p cc k a u => pw p ++ [wA 0x5d (cc ++ k) a (u ++ 0#4)]
  | .esgn p d a u => pw p ++ [wA 0x5e d a (u ++ 0#4)]
  | .ewid p d a v => pw p ++ [wA 0x5f d a (0#7 ++ b1 v)]
  | .ldg p d a x o => pw p ++ [wA 0x60 d a (0#7 ++ b1 x), o.word]
  | .stg p d a x o => pw p ++ [wA 0x61 d a (0#7 ++ b1 x), o.word]
  | .lds p d a x o => pw p ++ [wA 0x62 d a (0#7 ++ b1 x), o.word]
  | .sts p d a x o => pw p ++ [wA 0x63 d a (0#7 ++ b1 x), o.word]
  | .ldp p d a x o => pw p ++ [wA 0x64 d a (0#7 ++ b1 x), o.word]
  | .stp p d a x o => pw p ++ [wA 0x65 d a (0#7 ++ b1 x), o.word]
  | .pfg p a l o => pw p ++ [wA 0x66 0 a (0#7 ++ b1 l), o.word]
  | .atom p d a op sp o => pw p ++ [wA 0x67 d a (op ++ 0#2 ++ sp), o.word]
  | .cas p d a sp o => pw p ++ [wA 0x68 d a (0#6 ++ sp), o.word]
  | .cas128 p d a sp o => pw p ++ [wA 0x69 d a (0#6 ++ sp), o.word]
  | .red p d a op sp o => pw p ++ [wA 0x6a d a (op ++ 0#2 ++ sp), o.word]
  | .mma p a b o e => pw p ++ [wA 0x70 0 a b, o.word, 0x10#8 ++ e.acc ++ e.fmt ++ b1 e.ca ++ b1 e.cb ++ b1 e.pa ++ b1 e.pb ++ b1 e.za ++ e.ctag ++ b1 e.nt ++ 0#5]
  | .accz p o acc => pw p ++ [wA 0x71 0 0 0, o.word, 0x10#8 ++ acc ++ 0#21]
  | .accrd p d o acc f fin => pw p ++ [wA 0x71 d 0 0, o.word, 0x11#8 ++ acc ++ f ++ b1 fin ++ 0#18]
  | .accwr p a o acc f => pw p ++ [wA 0x71 0 a 0, o.word, 0x12#8 ++ acc ++ f ++ 0#19]
  | .qnt p d a o e => pw p ++ [wA 0x72 d a 0, o.word, 0x10#8 ++ 0#3 ++ e.fmt ++ b1 e.cmp ++ b1 e.ori ++ 0#15]
  | .dqnt p d a o e => pw p ++ [wA 0x72 d a 0, o.word, 0x11#8 ++ 0#3 ++ e.fmt ++ b1 e.cmp ++ b1 e.ori ++ 0#15]
  | .ctbl p a o => pw p ++ [wA 0x72 0 a 0, o.word, 0x12000000#32]
  | .wcfg p a o => pw p ++ [wA 0x73 0 a 0, o.word, 0x20000000#32]
  | .wsig p d a o f => pw p ++ [wA 0x73 d a 0, o.word, 0x21#8 ++ 0#23 ++ b1 f]
  | .wtest p d x c o n k => pw p ++ [wA 0x73 d x c, o.word, 0x22#8 ++ n ++ k ++ 0#12]
  | .wskip p d x o v => pw p ++ [wA 0x73 d x 0, o.word, 0x23#8 ++ 0#22 ++ v]
  | .wstep p o => pw p ++ [wA 0x73 0 0 0, o.word, 0x24000000#32]
  | .wstepSet p x o => pw p ++ [wA 0x73 0 x 0, o.word, 0x24000001#32]
  | .nbrk p a o t => pw p ++ [wA 0x74 0 a 0, o.word, 0x30#8 ++ 0#12 ++ t.tag ++ b1 t.nt ++ 0#5]
  | .nbrr p a o t => pw p ++ [wA 0x74 0 a 0, o.word, 0x31#8 ++ 0#12 ++ t.tag ++ b1 t.nt ++ 0#5]
  | .siteh p a o t => pw p ++ [wA 0x75 0 a 0, o.word, 0x30#8 ++ 0#12 ++ t.tag ++ b1 t.nt ++ 0#5]
  | .rule p a o t => pw p ++ [wA 0x75 0 a 0, o.word, 0x31#8 ++ 0#12 ++ t.tag ++ b1 t.nt ++ 0#5]
  | .ruleSub p a o t => pw p ++ [wA 0x75 0 a 0, o.word, 0x31#8 ++ 1#12 ++ t.tag ++ b1 t.nt ++ 0#5]
  | .pgat p a o v t => pw p ++ [wA 0x76 0 a 0, o.word, 0x30#8 ++ 0#11 ++ b1 v ++ t.tag ++ b1 t.nt ++ 0#5]
  | .psca p a o t => pw p ++ [wA 0x76 0 a 0, o.word, 0x31#8 ++ 0#12 ++ t.tag ++ b1 t.nt ++ 0#5]
  | .ioreq p a o => pw p ++ [wA 0x77 0 a 0, o.word, 0x40000000#32]
  | _ => []

/-- The bytes of an instruction. -/
def Instr.bytes (i : Instr) : List Byte := i.encode.flatMap wordBytes

/-- The instruction the decoder reads from words whose bits are w, numbered as spec/opcode_table.json numbers them. -/
def decodeTableWord (_nbits w : Nat) : Option Instr :=
  match decodeWords [BitVec.ofNat 32 w, BitVec.ofNat 32 (w / 2 ^ 32), BitVec.ofNat 32 (w / 2 ^ 64), BitVec.ofNat 32 (w / 2 ^ 96)] with
  | .ok i => some i
  | .error _ => none

end Sys2Proof
end

