-- ==== Sys2Proof/Machine/Bits.lean ====
section
/-! DEFINITION. The pseudocode helpers of the manual (spec/00_scope.md R6) on naturals and integers, lane sets, and the
sorted lists in which the state keeps sparse data. -/

namespace Sys2Proof.Machine

/-- Bits [h:l] of x (R6). -/
def bits (x h l : Nat) : Nat := x / 2 ^ l % 2 ^ (h + 1 - l)

/-- Bit i of x. -/
def tbit (x i : Nat) : Bool := x / 2 ^ i % 2 == 1

/-- The w-bit value x, sign-extended (R6). -/
def sext (x w : Nat) : Int := let y := x % 2 ^ w; if 2 * y < 2 ^ w then (y : Int) else (y : Int) - (2 ^ w : Nat)

/-- The low w bits of the integer x (R6). -/
def trunc (x : Int) (w : Nat) : Nat := (x % ((2 ^ w : Nat) : Int)).toNat

def clampI (x lo hi : Int) : Int := if x < lo then lo else if hi < x then hi else x

/-- x clamped to the signed w-bit range (R6). -/
def satI (x : Int) (w : Nat) : Int := clampI x (-((2 ^ (w - 1) : Nat) : Int)) ((2 ^ (w - 1) : Nat) - 1)

/-- x clamped to the unsigned w-bit range (R6). -/
def satN (x : Int) (w : Nat) : Int := clampI x 0 ((2 ^ w : Nat) - 1)

/-- Words of a value, the low word first. -/
def wordsFrom (x : Nat) : Nat → List Nat
  | 0 => []
  | n + 1 => x % 2 ^ 32 :: wordsFrom (x / 2 ^ 32) n

/-- The value of words, the low word first. -/
def ofWords : List Nat → Nat
  | [] => 0
  | w :: ws => w % 2 ^ 32 + 2 ^ 32 * ofWords ws

/-- The n bytes of a value, little-endian (R2). -/
def toBytes (x : Nat) : Nat → List Byte
  | 0 => []
  | n + 1 => BitVec.ofNat 8 x :: toBytes (x / 256) n

/-- The value of little-endian bytes (R2). -/
def ofBytes : List Byte → Nat
  | [] => 0
  | b :: bs => b.toNat + 256 * ofBytes bs

/-! Lane sets are 32-bit masks, bit l for lane l. -/

def hasLane (m : BitVec 32) (l : Nat) : Bool := m.getLsbD l

/-- The lanes of a set, ascending. -/
def lanes (m : BitVec 32) : List Nat := (List.range 32).filter (hasLane m ·)

def laneBit (l : Nat) : BitVec 32 := BitVec.ofNat 32 (2 ^ l)

/-- The set of lanes that satisfy p. -/
def laneSet (p : Nat → Bool) : BitVec 32 :=
  BitVec.ofNat 32 ((List.range 32).foldl (fun a l => if p l then a + 2 ^ l else a) 0)

/-- The lowest lane of a set; 0 for the empty set. -/
def lowest (m : BitVec 32) : Nat := (lanes m).headD 0

def popcount (m : BitVec 32) : Nat := (lanes m).length

/-- How many lanes of the set lie below l. -/
def rank (m : BitVec 32) (l : Nat) : Nat := ((lanes m).filter (· < l)).length

def setBit (m : BitVec 32) (l : Nat) (b : Bool) : BitVec 32 :=
  if b then m ||| laneBit l else m &&& ~~~ laneBit l

/-! Lists of (key, value) with strictly rising keys. -/

variable {α β : Type}

/-- The value at a key; `d` where the key is not listed. -/
def look (m : List (Nat × α)) (k : Nat) (d : α) : α :=
  match m with
  | [] => d
  | (a, x) :: r => if a = k then x else look r k d

def find (m : List (Nat × α)) (k : Nat) : Option α :=
  match m with
  | [] => none
  | (a, x) :: r => if a = k then some x else find r k

/-- Without the key. -/
def erase (m : List (Nat × α)) (k : Nat) : List (Nat × α) :=
  match m with
  | [] => []
  | (a, x) :: r => if a = k then erase r k else (a, x) :: erase r k

/-- With the key at the value. -/
def insert (m : List (Nat × α)) (k : Nat) (v : α) : List (Nat × α) :=
  match m with
  | [] => [(k, v)]
  | (a, x) :: r => if a < k then (a, x) :: insert r k v else if a = k then (k, v) :: r else (k, v) :: (a, x) :: r

/-- With the key at the value, a key at `d` not listed. -/
def put [DecidableEq α] (m : List (Nat × α)) (k : Nat) (v d : α) : List (Nat × α) :=
  if v = d then erase m k else insert m k v

/-- The value at a listed key, changed. -/
def alter (m : List (Nat × α)) (k : Nat) (f : α → α) : List (Nat × α) :=
  match m with
  | [] => []
  | (a, x) :: r => if a = k then (a, f x) :: r else (a, x) :: alter r k f

/-- Keys strictly rising from above `lo`, and no value `d`. -/
def canonFrom [DecidableEq α] (lo : Nat) (d : α) : List (Nat × α) → Bool
  | [] => true
  | (a, x) :: r => decide (lo ≤ a) && decide (x ≠ d) && canonFrom (a + 1) d r

/-- The canonical form of a sparse list: keys strictly rising, no entry at the default. -/
def canon [DecidableEq α] (m : List (Nat × α)) (d : α) : Bool := canonFrom 0 d m

/-- The first answer over a list. -/
def firstSome (f : α → Option β) : List α → Option β
  | [] => none
  | a :: r => match f a with | some b => some b | none => firstSome f r

end Sys2Proof.Machine
end

