-- ==== Sys2Proof/Config.lean ====
section
/-! DEFINITION. What an implementation fixes, and the free values: values the spec leaves open. A free value has
no body, so nothing can be proved of it. -/

namespace Sys2Proof.Config

/-- A value the spec calls undefined, or states none for, at the use numbered n (notes/assumptions/4.md). -/
opaque freeWord : Nat → BitVec 64

/-- The result of a special function whose rounding the enclosures of `Sf` do not decide (notes/assumptions/9.md);
the arguments are the function code and the operand. -/
opaque freeSf : Nat → BitVec 32 → BitVec 32

/-- The text the Wiral-V translator emits for an object is its own choice and not fixed (R495). -/
opaque translateWiral : List (BitVec 8) → List (BitVec 8)

/-- What 16 bytes of home memory written under one key record read as under another (R10, R450, notes/assumptions/41.md):
the record written under, the record read under (0 for plaintext), the number of the 16-byte block, the bytes written. -/
opaque underKey : Nat → Nat → Nat → BitVec 128 → BitVec 128

/-- The number of layers, clusters of a layer, cores of a cluster and gang slots of a core (R10, R11). -/
def layers : Nat := 8
def clusters : Nat := 16
def cores : Nat := 8
def slots : Nat := 32

end Sys2Proof.Config
end

