-- ==== Sys2Proof/Machine/State.lean ====
section
/-! DEFINITION. The state of the whole part as plain data, and the state after reset. Sparse tables are lists of
(key, value) with strictly rising keys; a key that is not listed stands at its default. -/

namespace Sys2Proof.Machine

/-- The reasons a step could stop the machine: none. Every outcome the spec gives is a next state. -/
inductive Fault where
  deriving DecidableEq, Repr

/-- Why there is no meaning. -/
inductive Refusal where
  /-- Raised by the dispatcher for an instruction without a meaning; safe: nothing can be proved of it. -/
  | notModelled (mnemonic : String)
  deriving DecidableEq, Repr

/-! ## Threads and gangs -/

/-- How a live thread waits (R77, 17 Table 8). -/
inductive Wait where
  | none
  | waitm (k : Nat)
  /-- Until the clk. -/
  | sleep (wake : Nat)
  | claim
  /-- The dispenser and the ticket, and whether a test has found it reached (R227). -/
  | tktw (x y : Nat) (met : Bool)
  | slotw (x : Nat)
  | cyield
  /-- The queue lock (R230). -/
  | qlk (x : Nat)
  /-- For the refinement engine (R290). -/
  | parked
  deriving DecidableEq, Repr

/-- How a thread stands at a WAITY (R252): since when, its mode (0 all, 1 any, 2 full, 3 free), and the register and the lane its
operand is read from. -/
structure AtWaity where
  since : Nat
  mode : Nat
  reg : Nat
  lane : Nat
  deriving DecidableEq, Repr

/-- One lane of a gang; live while its bit of m0 is set. -/
structure Thread where
  pc : Nat := 0
  /-- The wait count (R80). -/
  count : Nat := 0
  /-- The return stack, the top first (R89). -/
  stack : List Nat := []
  wait : Wait := .none
  /-- The stream fault vector (R178). -/
  sfv : BitVec 8 := 0
  /-- It stands at a WAITY (R253). -/
  waity : Option AtWaity := none
  deriving DecidableEq, Repr, Inhabited

/-- A trap taken or about to be taken: what the frame tells of it (R433, R509). -/
structure Trap where
  cause : Nat
  faddr : Nat
  /-- 255 where no lane is named. -/
  flane : Nat
  lanes : BitVec 32
  pfx : Nat
  insn : Nat
  /-- The program counter of a failed operation. -/
  fpc : Option Nat
  /-- The barge or point report. -/
  rpt : Option Nat
  dcause : Nat
  dlane : Nat
  dfaddr : Nat
  /-- The eight counters of each lane as they stood at the trap, lane by lane; none until its entry begins. -/
  counters : List Nat
  /-- The address and the length of the faulting instruction (R383). -/
  at_ : Nat
  len : Nat
  /-- It was raised at issue, not by a failed operation. -/
  issue : Bool
  /-- For a trap of refinement: where each of its lanes' instruction ends. -/
  past : List (Nat × Nat) := []
  deriving DecidableEq, Repr, Inhabited

/-- The handler a gang runs (R432, R383). -/
structure Handler where
  frame : Nat
  task : Bool
  trap : Trap
  /-- Lanes a TDONE has resolved, with its action (R383). -/
  resolved : List (Nat × Nat)
  /-- How each lane waited at entry; the frame's STATE names it (R434). -/
  waits : List Wait
  deriving DecidableEq, Repr

/-- A special-function request (R147). -/
structure SfReq where
  tok : Nat
  fn : Nat
  d : Nat
  lanes : BitVec 32
  vals : List (Nat × Nat)
  /-- The clk of its acceptance (R148). -/
  born : Nat := 0
  deriving DecidableEq, Repr

/-- A gang formed from tasks (R377, R378). -/
structure TaskGang where
  entry : Nat
  v0 : List Nat
  v1 : List Nat
  filled : Bool
  deriving DecidableEq, Repr

structure Gang where
  crew : Nat
  /-- GANGIX. -/
  ix : Nat
  /-- The gang slot of its core (R508). -/
  slot : Nat
  /-- The role register (R102). -/
  role : BitVec 2
  /-- The privilege level (R420). -/
  level : Nat := 0
  /-- The allotment in chunks (R53). -/
  allot : Nat
  /-- Register vn of lane l at 32 n + l. -/
  v : List (Nat × BitVec 32) := []
  g : List (Nat × BitVec 32) := []
  /-- The e registers whose HV is 1: en of lane l at 32 n + l (R59). -/
  hv : List (Nat × Bool) := []
  /-- m0 to m11 (R84). -/
  m : List (Nat × BitVec 32)
  threads : List Thread
  /-- The chains of the accumulator tiles: chain c of element (r, j) of tile t at ((32 t + r) 32 + j) 2 + c (R312). -/
  acc : List (Nat × BitVec 56) := []
  /-- Rows of tiles, row r of tile t at 32 t + r, that matrix commands have written since the crew yielded: their saved image is out of
  date (R253, R312). -/
  late : List Nat := []
  /-- The compand table, Y[1] to Y[16] (R314). -/
  compand : Option (List Nat) := none
  /-- R413. -/
  stamp : BitVec 64 := 0
  sf : List SfReq := []
  q24 : List (BitVec 32) := []
  task : Option TaskGang := none
  pend : Option Trap := none
  handler : Option Handler := none
  /-- Lanes whose request ended undecided under UNDEC = 0: the subcode, the next instruction's address and the prefix word (R39, R300). -/
  undecided : List (Nat × Nat × Nat × Nat) := []
  /-- Lanes whose request raised spill-fault: the entry's address, the next instruction's and the prefix word (R39, R299). -/
  spillFault : List (Nat × Nat × Nat × Nat) := []
  /-- Outcomes of either kind held until a handler entered for another trap ends (R509). -/
  heldUndecided : List (Nat × Nat × Nat × Nat) := []
  heldSpill : List (Nat × Nat × Nat × Nat) := []
  /-- The run a starvation turn was found to offer at the next issue cycle, by its program counter (R80). -/
  offer : Option Nat := none
  /-- YIELD: the gangs of the quadrant that have been offered a slot since (R100). -/
  yielded : Option (List Nat) := none
  /-- The clk of its latest turn, or of its coming to its core: since then it may have waited for a fetch (R206). -/
  turned : Nat := 0
  /-- Packets of that fetch that have moved to the Escape class. -/
  moved : Nat := 0
  /-- A debugger lets it issue one instruction (R453). -/
  stepOnce : Bool := false
  /-- Runs whose fetch, or whose caddy access, waits on a replayable fault: their program counter and its address (R448). -/
  fetchWait : List (Nat × Nat) := []
  /-- It has left its slot (R93). -/
  retired : Bool := false
  deriving DecidableEq, Repr, Inhabited

/-! ## Crews, convoys, launches -/

/-- A named barrier (R221). EXP 0 stands for 4096. -/
structure Barrier where
  open_ : Nat := 0
  done : Nat := 0
  exp : Nat
  iss : Nat := 0
  /-- The phases not complete: number, EXP (none until the phase's count is fixed), arrivals counted. -/
  phases : List (Nat × Option Nat × Nat) := []
  deriving DecidableEq, Repr

/-- The state of a copy tag (R239); CLEAR is not listed. -/
inductive Tag where
  | clear | pending | ready | held
  deriving DecidableEq, Repr

/-- An advance of a ring in flight (R250). -/
structure Advance where
  ring : Nat
  seq : Nat
  ready : Bool
  /-- It is a failed barge's: what its restart is known by, its tag, or 64 and its record's offset where it has none. -/
  held : Option Nat
  /-- The operation that makes it. -/
  op : Nat
  deriving DecidableEq, Repr

/-- The weir context (R335), less the skip map. -/
structure Weir where
  cfg : Bool := false
  tbase : Nat := 0
  ntile : Nat := 0
  thr : Nat := 0
  maxskip : Nat := 0
  step : Nat := 0
  /-- The tiles whose bit of MAP is 1. -/
  map : List (Nat × Bool) := []
  deriving DecidableEq, Repr

/-- A caddy node (R264). -/
structure Node where
  opc : Nat
  rc : Nat
  a : Nat := 0
  b : Nat := 0
  c : Nat := 0
  /-- VAL, or OLO and OHI. -/
  val : Nat := 0
  deriving DecidableEq, Repr

/-- A crew's caddy (R262 to R268). -/
structure Caddy where
  nodes : List (Nat × Node) := []
  gens : List (Nat × Nat) := []
  last : Nat := 0
  /-- The live node each caddy slot holds. -/
  slots : List (Nat × Nat) := []
  /-- The spill entries that have been written, with the children of the node last written there. -/
  spilled : List (Nat × List Nat) := []
  /-- The spill entries whose last write met a fault and is still to be made (R268). -/
  unwritten : List Nat := []
  /-- The entries written since the network's traffic was last noted (R204). -/
  sent : List Nat := []
  deriving DecidableEq, Repr, Inhabited

/-- A waiting CLAIM (R385). -/
structure Claim where
  gang : Nat
  /-- It was made in a handler. -/
  inner : Bool
  pc : Nat
  next : Nat
  lanes : BitVec 32
  n : Nat
  deriving DecidableEq, Repr

inductive CrewStatus where
  | resident
  /-- Saved by pre-emption (17 Table 5). -/
  | saved
  | yielded
  /-- Every gang has retired. -/
  | retired
  deriving DecidableEq, Repr, Inhabited

structure Crew where
  convoy : Nat
  launch : Nat
  layer : Nat
  cluster : Nat
  core : Nat
  /-- CREWIX. -/
  ix : Nat
  cvx : Nat
  cvy : Nat
  cvz : Nat
  stage : Nat
  /-- The context area (R429). -/
  ctx : Nat
  gangs : List Nat
  /-- The caddy's nodes of scratchpad C, spill nodes S (R262). -/
  caddyC : Nat
  spillS : Nat
  caddy : Caddy := {}
  /-- q0 to q15 and q25. -/
  queues : List (Nat × List (BitVec 32)) := []
  barriers : List (Nat × Barrier) := []
  tags : List (Nat × Tag) := []
  advances : List Advance := []
  weir : Weir := {}
  pool : Nat := 0
  claims : List Claim := []
  /-- The halt mask HM (R453). -/
  hm : BitVec 4 := 0
  /-- Locked instruction lines, by virtual address (R445), with the line's content when it was locked; none where it was
  poisoned. -/
  locked : List (Nat × Option (List Byte)) := []
  lost : Bool := false
  status : CrewStatus := .resident
  /-- The clk it was placed, restored or returned at (R30). -/
  since : Nat
  /-- The clk its watchdog counts from (R455). -/
  wdog : Nat
  /-- Core-cycles of its retired gangs since `since` (R30). -/
  charged : Nat := 0
  /-- Yielded by CYIELD: what waited for the core, by kind (0 a yielded crew and 3 a crew of a pre-empted convoy, each with the clk it left
  its core at, 1 a bin with its opening clk, 2 a convoy of a launch by its number), and is placed before it (R388). -/
  cyielded : Option (List (Nat × Nat × Nat)) := none
  task : Bool := false
  deriving DecidableEq, Repr, Inhabited

inductive ConvoyStatus where
  | resident | preempting | saved | restoring | retired
  deriving DecidableEq, Repr, Inhabited

structure Convoy where
  launch : Nat
  /-- The position in the grid (R462). -/
  n : Nat
  crews : List Nat
  queues : List (Nat × List (BitVec 32)) := []
  barriers : List (Nat × Barrier) := []
  status : ConvoyStatus := .resident
  /-- CTXLD asks for its restore ahead of other work (R444). -/
  wanted : Bool := false
  /-- The operations and requests its pre-emption captured. -/
  ops : List Nat := []
  reqs : List Nat := []
  deriving DecidableEq, Repr, Inhabited

/-- The launch descriptor held with a launch (R21). -/
structure Descriptor where
  entry : Nat
  args : Nat
  gridx : Nat
  gridy : Nat
  gridz : Nat
  crews : Nat
  gangs : Nat
  regs : Nat
  scratch : Nat
  caddy : Nat
  accs : Nat
  tags : Nat
  stages : Nat
  ftz : Bool
  undec : Bool
  rolemap : Nat
  ctx : Nat
  spill : Nat
  spillsz : Nat
  bintime : Nat
  yieldt : Nat
  deriving DecidableEq, Repr, Inhabited

structure Launch where
  layer : Nat
  queue : Nat
  /-- The free-running count of its LAUNCH command. -/
  cmd : Nat
  desc : Descriptor
  /-- Convoys placed so far. -/
  placed : Nat := 0
  deriving DecidableEq, Repr, Inhabited

/-! ## Operations in flight -/

/-- Where an access is performed (R25, R209). -/
inductive Place where
  /-- The partition of a crew. -/
  | scratch (crew off : Nat)
  /-- The home memory of a layer, with the key index. -/
  | home (layer off kix : Nat)
  | host (port bus : Nat)
  /-- The line of a replicated region: region index, offset in it, and the layer. -/
  | replica (layer region off : Nat)
  deriving DecidableEq, Repr

/-- The registers a completing operation writes: `n` words of the lanes, or of a g register. -/
structure Dest where
  reg : Nat
  n : Nat
  lanes : BitVec 32
  deriving DecidableEq, Repr

/-- A barge record (R242). -/
structure BargeRec where
  reca : Nat
  saddr : Nat
  ssp : Nat
  daddr : Nat
  dsp : Nat
  esz : Nat
  levels : Nat
  tr : Nat
  tag : Option Nat
  tagField : Nat
  ring : Option Nat
  counts : List Nat
  starts : List Nat
  sstr : List Int
  dstr : List Int
  /-- The vector it goes on from, once it has moved some (R247). -/
  at_ : Option Nat := none
  deriving DecidableEq, Repr

/-- One lane's IOREQ record (R255). -/
structure IoRec where
  lane : Nat
  rkey : Nat
  remote : Nat
  cookie : Nat
  tgt : Nat
  kind : Nat
  len : Nat
  daddr : Nat
  /-- The status it ended with. -/
  ended : Option Nat := none
  deriving DecidableEq, Repr

inductive MatKind where
  | mma | accz | accrd | accwr | qnt | dqnt | ctbl
  deriving DecidableEq, Repr

/-- A matrix command (12). -/
structure MatCmd where
  kind : MatKind
  acc : Nat := 0
  fmt : Nat := 0
  ca : Bool := false
  cb : Bool := false
  za : Bool := false
  form : Nat := 0
  fin : Bool := false
  cmp : Bool := false
  ori : Bool := false
  rnd : Nat := 0
  tag : Option Nat := none
  /-- The tiles: crew and offset. -/
  a : Nat × Nat := (0, 0)
  b : Nat × Nat := (0, 0)
  d : Nat × Nat := (0, 0)
  /-- The gang's compand table at issue (R321). -/
  table : Option (List Nat) := none
  started : Bool := false
  /-- The elements read before the others (R170): element n of tile t (0 A, 1 B) at 4096 t + n, with its bits. -/
  early : List (Nat × Nat) := []
  /-- The operand bytes as read (A, then B). -/
  consumed : Option (List Byte × List Byte) := none
  deriving DecidableEq, Repr

inductive WeirKind where
  | wcfg (w : Weir)
  | wsig (bf : Bool)
  | wtest (dest : Nat) (skm : Nat)
  | wskip (v : Nat) (x : Nat) (dest : Nat)
  | wstep (x : Option Nat)
  deriving DecidableEq, Repr

/-- A lane of a weir command: its operands, and for a WTEST lane what it received (pair, no-compute bit). -/
structure WeirLane where
  lane : Nat
  a : Nat := 0
  c : Nat := 0
  n : Nat := 0
  got : Option (Nat × Bool) := none
  deriving DecidableEq, Repr

/-- A list descriptor (R354). -/
structure PtList where
  addr : Nat
  sp : Nat
  count : Nat
  stride : Nat
  deriving DecidableEq, Repr

inductive PtKind where
  | nbrk | nbrr | siteh | rule (sub : Bool) | pgat (f32 : Bool) | psca
  deriving DecidableEq, Repr

structure PtCmd where
  kind : PtKind
  reca : Nat
  lists : List PtList
  params : List Nat
  i1 : Nat
  i0 : Nat
  tag : Option Nat
  tagField : Nat
  /-- Once it has begun: RULE's outputs and drops (R363), and the rule count PGAT and PSCA have read (R365). -/
  kept : Option (Nat × Nat × Nat) := none
  /-- Words of the rulebook read before their vectors (R370): of row r, and under 32 the count. -/
  early : List (Nat × Nat) := []
  deriving DecidableEq, Repr

inductive OpKind where
  | load (ea size ty : Nat) (d : Option Dest)
  | store (ea : Nat) (data : List Byte)
  | prefetch (ea : Nat) (l1 : Bool)
  /-- op as R212 numbers it, 16 for a compare and swap of `x` by `y`; `got` is the old value once performed. -/
  | atomic (ea size op ty rnd x y : Nat) (d : Option Dest) (got : Option Nat)
  | barr (bar phase : Nat) (d : Option Dest)
  | barw (bar phase : Nat)
  | bars (bar x : Nat)
  | tkt (x : Nat) (d : Dest)
  | tkts (x : Nat) (y : Option Nat)
  | qlk (x : Nat) (d : Dest) (granted : Option Nat)
  | qul (x : Nat)
  | barge (r : BargeRec) (taken : Bool)
  | rawait (ring n : Nat) (free : Bool) (d : Dest)
  | rarel (ring : Nat)
  | rapub (ring seq : Nat)
  | ioreq (lanes : List IoRec) (posted : Bool)
  | matrix (c : MatCmd)
  | weir (k : WeirKind) (lanes : List WeirLane)
  | point (c : PtCmd)
  | spawn (entry base n : Nat)
  | mcst (ea : Nat) (data : List Byte)
  /-- With its result, once it has read (R410). -/
  | rchk (ea : Nat) (d : Dest) (got : Option Nat)
  | resync (ea : Nat)
  | tlbi (va : Option Nat)
  | keyld (ix off : Nat)
  | ctxsv (a : Nat)
  | ctxld (a : Nat)
  deriving DecidableEq, Repr

/-- A counted operation in flight (R154): one lane's access, or one uniform or engine operation. -/
structure Op where
  gang : Nat
  crew : Nat
  layer : Nat
  pc : Nat
  /-- The number of the issue it belongs to: lanes of one instruction share it (R161). -/
  inst : Nat
  lane : Nat
  threads : BitVec 32
  strm : Nat
  scope : Nat
  vol : Bool
  /-- The operations its stream edges name (R157). -/
  after : List Nat
  kind : OpKind
  /-- Where it is performed, once translated. -/
  place : Option Place := none
  /-- It waits on a replayable fault (R178). -/
  waiting : Bool := false
  failed : Option (Nat × Nat) := none
  /-- The write stands in memory (stores, aqueduct writes). -/
  visible : Bool := false
  /-- The key of its aqueduct slot (R406). -/
  key : Option Nat := none
  /-- The members of its region asleep, and those stale, when its slot passed (R410); of a write, without those whose RESYNC's slot had
  passed and that it reaches after the copy (R411). -/
  slotAsleep : Nat := 0
  slotStale : Nat := 0
  /-- Captured in a frame or a context: not counted, inert (R178). -/
  captured : Bool := false
  /-- The store stands in the store buffer, where the instance of scope `shown` sees it; at scope gang it is complete (R158, R200). -/
  buffered : Bool := false
  shown : Nat := 0
  /-- The store stands where agents outside its instance see it, before the edges that bind its instance are met (R165). -/
  leaked : Bool := false
  /-- A lower lane of its volatile instruction has written, or has its slot for, bytes of its own: no other write comes between
  (R161). -/
  adjacent : Bool := false
  /-- A load's bytes as memory held them before its edges were met, which only agents outside its instance may have changed since
  (R165, R166). -/
  early : Option (List Byte) := none
  /-- Its place in the order of entering the store buffer. -/
  rank : Nat := 0
  /-- The prefix word of its instruction, 0 for none (R39, R433). -/
  pfx : Nat := 0
  /-- The clk of its issue, or of its posting (IOREQ). -/
  born : Nat
  /-- The clk its packets or its PCIe request entered the network (R197, R206). -/
  sent : Option Nat := none
  /-- How many of its packets have been moved to the Escape class in each layer's network (R206). -/
  escaped : List (Nat × Nat) := []
  deriving DecidableEq, Repr

/-- An operand of a comparison: a node of the graph, or bare bounds (R286). -/
inductive IvOp where
  | node (ix : Nat)
  | bare (lo hi : Nat)
  deriving DecidableEq, Repr

/-- A refinement request (R290 to R299). -/
structure RefReq where
  gang : Nat
  crew : Nat
  lane : Nat
  next : Nat
  /-- The prefix word of its instruction, 0 for none (R39). -/
  pfx : Nat := 0
  /-- ECMP: the condition and the result mask. -/
  cmp : Option (Nat × Nat)
  /-- ESGN's destination. -/
  d : Nat
  u : Nat
  operands : List IvOp
  /-- The e registers the operands stand in. -/
  eregs : List Nat
  /-- In a service slot. -/
  served : Bool := false
  /-- To be posted again, it waits for room in the engine's queue (R294, R303). -/
  due : Bool := false
  /-- It has left its slot for the whole store, at its place in the order of leaving (R299). -/
  alone : Option Nat := none
  captured : Bool := false
  deriving DecidableEq, Repr

/-! ## Clusters, cores, layers -/

/-- A task bin (R375). -/
structure Bin where
  closed : Bool
  entry : Nat
  launch : Nat
  /-- Record offset and task number, lane 0 first. -/
  tasks : List (Nat × Nat)
  opened : Nat
  deriving DecidableEq, Repr

structure Cluster where
  bins : List (Nat × Bin) := []
  /-- Closed bins, in the order they closed. -/
  ready : List Nat := []
  /-- The SPAWN whose next task waits in the bin unit, a bin having closed for it (R375). -/
  waits : Option Nat := none
  passes : Nat := 0
  reserved : Option Nat := none
  /-- Tasks of each launch that have entered bins here. -/
  counts : List (Nat × Nat) := []
  /-- NEXT and SERV of each dispenser (R226). -/
  tickets : List (Nat × Nat × Nat) := []
  /-- Crews whose weir context is resident, most recently used first (R336). -/
  weirs : List Nat := []
  deriving DecidableEq, Repr, Inhabited

structure Core where
  /-- The gang slot, modulo 8, each quadrant offered last (R78). -/
  turns : List (Nat × Nat) := []
  /-- MXIDLE (R332). -/
  mxidle : Nat := 1024
  /-- Gated sub-arrays. -/
  gated : List Nat := []
  /-- The clk each sub-array's idle time counts from. -/
  idle : List (Nat × Nat) := []
  deriving DecidableEq, Repr, Inhabited

/-- A code segment (R421). -/
structure Segment where
  base : Nat
  size : Nat
  sys : Bool
  deriving DecidableEq, Repr

/-- A translation a TLB holds (R207, R448): which TLB (core k of cluster c: 8 c + k; the second level of cluster c: 128 + c),
the page and its entry. -/
structure TlbEntry where
  unit : Nat
  base : Nat
  log : Nat
  pte : Nat
  deriving DecidableEq, Repr

/-- An export-table entry (R393, R394). -/
structure Export where
  gen : Nat
  current : Bool
  base : Nat
  size : Nat
  r : Bool
  w : Bool
  a : Bool
  importers : Nat
  kix : Nat
  deriving DecidableEq, Repr

/-- A window (R395). -/
structure Window where
  layer : Nat
  eix : Nat
  gen : Nat
  base : Nat
  size : Nat
  revoked : Bool
  deriving DecidableEq, Repr

/-- An I/O target entry (R256, call 06h). -/
structure IoTarget where
  kind : Nat
  arg1 : Nat
  arg2 : Nat
  arg3 : Nat
  timeout : Nat
  /-- The LBA size, or the local queue pair. -/
  res : Nat
  deriving DecidableEq, Repr

/-- A queue lock (R229, R231). -/
structure Lock where
  holder : Option Nat := none
  /-- The waiting gangs, first come first. -/
  fifo : List Nat := []
  abn : Bool := false
  deriving DecidableEq, Repr

/-- A command begun and not completed (R461). -/
inductive CmdKind where
  | launch (launch : Nat)
  /-- With QRD and the indirect buffer as they stood when it was begun. -/
  | depwait (cond addr v qrd : Nat) (ind : Option (Nat × Nat × Nat))
  /-- With QRD as it stood when it was begun, the clk it was begun at, and its packets moved to the Escape class (R206). -/
  | copy (src dst len qrd begun moved : Nat)
  deriving DecidableEq, Repr

structure Queue where
  qbase : Nat := 0
  en : Bool := false
  log2n : Nat := 0
  qrd : Nat := 0
  qwr : Nat := 0
  err : Nat := 0
  /-- 0 idle, 1 running, 2 held, 3 stopped. -/
  state : Nat := 0
  quant : Nat := 0
  deficit : Int := 0
  /-- The indirect buffer in progress: address, entries, the next (R467). -/
  indirect : Option (Nat × Nat × Nat) := none
  cmds : List (Nat × CmdKind) := []
  deriving DecidableEq, Repr, Inhabited

structure Layer where
  segments : List (Nat × Segment) := []
  netidle : Nat := 256
  netdlt : Nat := 4096
  netesc : Nat := 0
  taskage : Nat := 16
  kvec : Nat := 0
  wdt : Nat := 0
  dbgctl : Nat := 0
  rasce : Nat := 0
  raslat : Nat := 0
  /-- The physical address of the level-4 table (PTBLO, PTBHI). -/
  ptb : Nat := 0
  tlb : List TlbEntry := []
  exports : List (Nat × Export) := []
  windows : List (Nat × Window) := []
  /-- Region-table entries as 256-bit numbers (R399). -/
  regions : List (Nat × Nat) := []
  /-- Blocks of writes of its command processor, its aperture and the FE die that its aqueduct port has received and that have no
  channel yet (R405). -/
  aqOwed : Nat := 0
  /-- The stale bits of the layer's replicas (R404). -/
  stale : List (Nat × Bool) := []
  asleep : Bool := false
  iotgts : List (Nat × IoTarget) := []
  locks : List (Nat × Lock) := []
  queues : List (Nat × Queue) := []
  /-- LCFG (R470). -/
  draint : Nat := 1024
  cvage : Nat := 16
  kcall : Nat := 0
  apbase : Nat := 0
  gatedRouters : List Nat := []
  /-- The clk of the last traffic of each router of the layer's network, 0 where none is noted (R204). -/
  traffic : List (Nat × Nat) := []
  /-- The clk at which a packet that has gone its way at once may last have climbed by a router, or passed it on its way to or from a
  vertical port (R202, R204). -/
  climbs : List (Nat × Nat) := []
  /-- The distributor's pointer (R469). -/
  pointer : Nat := 0
  /-- Launches whose next convoy has been passed, the earliest first; the first is the head's (R470). -/
  passed : List Nat := []
  /-- The head's pass count, and since when the layer drains. -/
  passes : Nat := 0
  drain : Option Nat := none
  /-- Convoys a drain or a sleep pre-empted, in the order of their pre-emption. -/
  preempted : List Nat := []
  /-- Those of them the drain in force has pre-empted: its head comes before them (R470). -/
  drained : List Nat := []
  /-- The addresses on which the command processor, the distributor and context accesses wait (R448). -/
  waits : List Nat := []
  /-- The clk of the kernel's doorbell, where its call is pending (R474). -/
  rung : Option Nat := none
  deriving DecidableEq, Repr, Inhabited

/-! ## Ports and the part -/

structure Port where
  evbase : Nat := 0
  evcfg : Nat := 0
  evwr : Nat := 0
  evrd : Nat := 0
  evlost : Nat := 0
  cto : Nat := 50000
  /-- The mailbox (R474). -/
  mailbox : List Host.Cell := []
  /-- MSI-X vectors sent, the latest first. -/
  msix : List Nat := []
  /-- The completion of the host's latest read through an aperture: its data, or, with none, Unsupported Request (R478). -/
  completion : Option (Option (List Byte)) := none
  /-- The PCIe link is up. -/
  link : Bool := true
  /-- Its proposal for the next start: layer map, Ethernet map (R477). -/
  proposal : Option Nat := none
  /-- Its request for a start: 1 warm, 2 cold, and the clk (R480). -/
  request : Option (Nat × Nat) := none
  /-- Its write to FREEZE, by clk (R482). -/
  freeze : Option Nat := none
  /-- Fault events that wait for room in the ring (R473). -/
  owed : List (List Byte) := []
  /-- The clk of the mailbox's doorbell, where its call is pending (R474). -/
  rung : Option Nat := none
  deriving DecidableEq, Repr, Inhabited

/-- Who acts next: a gang at an issue cycle, or another agent. -/
inductive Turn where
  /-- The quadrant of gang g offers its next slot. `err` is the storage code of an uncorrectable error the instruction meets in a register (1), the scratchpad (2) or
  an accumulator (3), 0 where it meets none (R451). -/
  | gang (g err : Nat)
  /-- The second instruction of a pair, in the clk of the first (R78). -/
  | second (err : Nat)
  | act (i : Instr) (c : Choice)
  deriving DecidableEq, Repr

/-- The instruction at issue: the gang, the issuing run, and the program counter (R41). -/
structure Issue where
  gang : Nat
  run : BitVec 32
  pc : Nat
  /-- The prefix word and the base word. -/
  pfx : Nat := 0
  insn : Nat := 0
  /-- As in `Turn.gang`. -/
  err : Nat := 0
  /-- A starvation turn offers it: one instruction only (R80). -/
  starved : Bool := false
  deriving DecidableEq, Repr

/-- The whole part. -/
structure State where
  clk : Nat
  /-- Aqueduct slots since the last start, and the part of the next (R405, R412). -/
  slots : Nat
  slotPart : Nat
  /-- Above every key the aqueduct has given since the last start (R406). -/
  aqKey : Nat
  /-- The model's own: the free values used (notes/assumptions/4.md). -/
  free : Nat
  /-- The model's own: the next number for a gang, crew, convoy, launch, operation or request. -/
  next : Nat
  /-- The model's own: who acts next (notes/assumptions/2.md). -/
  agenda : List Turn
  choice : Choice
  issue : Option Issue
  /-- The gang that issued last. -/
  lastGang : Nat
  mem : List Host.Cell
  /-- Poisoned 64-byte lines (R451), by memory key. -/
  poison : List Nat
  gangs : List (Nat × Gang)
  crews : List (Nat × Crew)
  convoys : List (Nat × Convoy)
  launches : List (Nat × Launch)
  ops : List (Nat × Op)
  reqs : List (Nat × RefReq)
  /-- Cluster c of layer L at 16 L + c. -/
  clusters : List (Nat × Cluster)
  /-- Core k of cluster c of layer L at 8 (16 L + c) + k. -/
  cores : List (Nat × Core)
  layers : List (Nat × Layer)
  ports : List (Nat × Port)
  /-- The layer each key index is assigned to (R450, call 07h). -/
  keyOwner : List (Nat × Nat)
  /-- Key records installed, by key index (R450). -/
  keys : List (Nat × List Byte)
  /-- The key record each 64-byte line of home memory was last written under, by memory line (R10, R450); plaintext is not
  listed. -/
  lineKeys : List (Nat × Nat)
  /-- READY (R480). -/
  ready : BitVec 64
  /-- The assignment in force: layers in [7:0], Ethernet ports in [15:8] (R477). -/
  hostmap : BitVec 16
  /-- Ethernet links up. -/
  ethernet : BitVec 8
  frozen : Bool
  /-- The start that is due: 1 warm, 2 cold (R480). -/
  startDue : Nat
  temps : List (Nat × Nat)
  power : Nat
  clkMhz : Nat
  throt : Nat
  /-- The public keys the security processor holds, by KEYID (R496). -/
  pubKeys : List (Nat × List Byte)
  deriving DecidableEq, Repr

/-- The part after a cold start, before any function has set its ready bit (R29, R423, R424, R477, R480). -/
def State.reset : State where
  clk := 0
  slots := 0
  slotPart := 0
  aqKey := 0
  free := 0
  next := 1
  agenda := []
  choice := {}
  issue := none
  lastGang := 0
  mem := []
  poison := []
  gangs := []
  crews := []
  convoys := []
  launches := []
  ops := []
  reqs := []
  clusters := []
  cores := []
  layers := []
  ports := []
  keyOwner := []
  keys := []
  lineKeys := []
  ready := 0
  hostmap := 0
  ethernet := 0
  frozen := false
  startDue := 0
  temps := []
  power := 0
  clkMhz := 1500
  throt := 0
  pubKeys := []

end Sys2Proof.Machine
end

