-- ==== Sys2Proof/Machine/Memory.lean ====
section
/-! DEFINITION. The bytes of every memory of the part, and translation (spec/01_machine.md R25, spec/17_system.md R447,
spec/16_stack.md R395 to R404). One list holds all memories: the key of a byte says which memory it lies in. -/

namespace Sys2Proof.Machine

/-- What a byte that nothing has written reads as (notes/assumptions/1.md). -/
def blank : Byte := 0

/-- Memory is in its canonical form. -/
def Memory.wf (m : List Host.Cell) : Bool := canon m blank

def Memory.get (m : List Host.Cell) (k : Nat) : Byte := look m k blank
def Memory.set (m : List Host.Cell) (k : Nat) (b : Byte) : List Host.Cell := put m k b blank

/-- Bytes written at rising addresses. -/
def Memory.write (m : List Host.Cell) (k : Nat) : List Byte → List Host.Cell
  | [] => m
  | b :: bs => Memory.write (Memory.set m k b) (k + 1) bs

/-- Bytes read at rising addresses. -/
def Memory.read (m : List Host.Cell) (k : Nat) : Nat → List Byte
  | 0 => []
  | n + 1 => Memory.get m k :: Memory.read m (k + 1) n

def State.layer (s : State) (l : Nat) : Layer := look s.layers l {}
def State.setLayer (s : State) (l : Nat) (x : Layer) : State := { s with layers := insert s.layers l x }
def State.port (s : State) (p : Nat) : Port := look s.ports p {}
def State.setPort (s : State) (p : Nat) (x : Port) : State := { s with ports := insert s.ports p x }

/-- The port of a layer's host (R26, R480). -/
def State.hostPort (s : State) (l : Nat) : Nat := if s.hostmap.getLsbD l then 1 else 0

/-! ### Regions -/

/-- A field of a region-table entry (R399). -/
def regionField (e hi lo : Nat) : Nat := bits e hi lo
def regionKind (e : Nat) : Nat := bits e 161 160
def regionSet (e : Nat) : Nat := bits e 159 152
def regionSize (e : Nat) : Nat := bits e 151 136 * 2 ^ 21
def regionVbase (e : Nat) : Nat := bits e 105 70 * 2 ^ 21
def regionPbase (e : Nat) : Nat := bits e 120 106 * 2 ^ 21
def regionRbase (e : Nat) : Nat := bits e 135 121 * 2 ^ 21

/-- The member layers, ascending. -/
def regionMembers (e : Nat) : List Nat := (List.range 8).filter fun k => tbit (regionSet e) k

/-- Home layer and share offset of a striped region (R400). -/
def stripedHome (e o : Nat) : Nat × Nat :=
  let m := regionMembers e
  let n := m.length
  let sz := 2 ^ (bits e 175 172 + 12)
  let c := o / sz
  (m.getD (c % n) 0, c / n * sz + o % sz)

/-- The layers of a tiled region's cells in use, by n = 2 gy + gx (R399). -/
def tiledCell (e gy gx : Nat) : Nat := bits e (3 * (2 * gy + gx) + 186) (3 * (2 * gy + gx) + 184)

/-- Bytes each cell of a tiled region backs (R401). -/
def tiledShare (e : Nat) : Nat := regionSize e / ((bits e 196 196 + 1) * (bits e 197 197 + 1))

/-- The cells in use, in the order gy, gx. -/
def tiledCells (e : Nat) : List (Nat × Nat) :=
  (List.range (bits e 197 197 + 1)).flatMap fun gy => (List.range (bits e 196 196 + 1)).map fun gx => (gy, gx)

/-- Home layer and share offset of a tiled region; a layer named by two cells backs both shares, one after the other (R401). -/
def tiledHome (e o : Nat) : Nat × Nat :=
  let gx := bits e 196 196; let gy := bits e 197 197
  let p := bits e 223 208 * 64
  let w := bits e 207 200 * 64
  let th := if bits e 235 224 = 0 then 4096 else bits e 235 224
  let r := o / p; let b := o % p; let tc := b / w; let tr := r / th
  let cell := (tr % (gy + 1), tc % (gx + 1))
  let home := tiledCell e cell.1 cell.2
  let r2 := tr / (gy + 1) * th + r % th
  let share := r2 * (p / (gx + 1)) + tc / (gx + 1) * w + b % w
  let before := (tiledCells e).takeWhile (· != cell)
  (home, share + tiledShare e * (before.filter fun c => tiledCell e c.1 c.2 == home).length)

/-! ### Places -/

/-- The layer whose network serves a place. -/
def Place.homeLayer : Place → Option Nat
  | .home l _ _ => some l
  | .replica l _ _ => some l
  | _ => none

/-- The memory key of a place (notes/assumptions/1.md): home memory of layer L from L 2^52, host h from (h + 1) 2^70, the
partition of crew c from 2^80 + c 2^20. -/
def State.key (s : State) : Place → Nat
  | .scratch c o => 2 ^ 80 + c * 2 ^ 20 + o
  | .home l o _ => l * 2 ^ 52 + o
  | .host p b => (p + 1) * 2 ^ 70 + b
  | .replica l r o => l * 2 ^ 52 + regionPbase (look (s.layer l).regions r 0) + o

/-- The home slice of a place in its layer, from bits [10:6], [15:11] and [20:16] of its physical address, and the stage-one router
over it (R201). -/
def State.sliceRouter (s : State) (p : Place) : Nat :=
  let a := s.key p
  (a / 2 ^ 6 % 32 ^^^ a / 2 ^ 11 % 32 ^^^ a / 2 ^ 16 % 32) / 2

/-- The routers that a packet from under stage-one router k to one under router j certainly passes: those two, and between two groups
the stage-two router that its descent is fixed to (R202). -/
def pathRouters (k j : Nat) : List Nat := [k, j] ++ if k / 4 = j / 4 then [] else [16 + (2 * (j / 4) + j % 2)]

/-- The routers it may pass: it climbs by either stage-two router of its group, and between two groups, or in the Escape class, by any
router of stage three (R202, R206). -/
def climbRouters (escape : Bool) (k j : Nat) : List Nat :=
  let up := [16 + 2 * (k / 4), 17 + 2 * (k / 4)]
  [k, j] ++ if escape || k / 4 != j / 4 then up ++ [24, 25, 26, 27, 16 + (2 * (j / 4) + j % 2)] else if k = j then [] else up

/-- The routers of a request's way and of its answer's. -/
def bothWays (f : Nat → Nat → List Nat) (k j : Nat) : List Nat := f k j ++ f j k

/-- The stage-one routers over a layer's vertical ports (R201). -/
def portRouters : List Nat := [0, 4, 8, 12]

/-- The routers that packets between a stage-one router and any of the vertical ports may pass. -/
def portWays (escape : Bool) (k : Nat) : List Nat := portRouters.flatMap (bothWays (climbRouters escape) k)

/-- Packets have passed routers of a layer, which are awake, and may have passed others (R204). -/
def State.noteRouters (s : State) (l : Nat) (rs : List Nat) (may : List Nat := []) : State :=
  let note (m : List (Nat × Nat)) (l : List Nat) := l.foldl (fun m r => put m r s.clk 0) m
  let y := s.layer l
  s.setLayer l { y with traffic := note y.traffic rs, climbs := note y.climbs may, gatedRouters := y.gatedRouters.filter fun r => !rs.contains r }

/-- An access has passed between the slice of a place and stage-one router `k` of layer l or, with none, the FE die (R201 to R203). -/
def State.notePlace (s : State) (l : Nat) (k : Option Nat) (p : Place) : State :=
  let j := s.sliceRouter p
  match k, p.homeLayer with
  | none, none => s
  | none, some h => s.noteRouters h [j] (portWays false j)
  | some k, none => s.noteRouters l [k] (portWays false k)
  | some k, some h =>
    if h = l then s.noteRouters l (bothWays pathRouters k j) (bothWays (climbRouters false) k j)
    else (s.noteRouters l [k] (portWays false k)).noteRouters h [j] (portWays false j)

/-- The record of a key index, as a number: 0 for plaintext (R450). -/
def State.keyRecord (s : State) (kix : Nat) : Nat := if kix = 0 then 0 else match find s.keys kix with | some b => ofBytes b | none => 0

/-- The key record an access to a place works under (R10, R207, R399). -/
def State.recordOf (s : State) : Place → Nat
  | .home _ _ kix => s.keyRecord kix
  | .replica l r _ => s.keyRecord (bits (look (s.layer l).regions r 0) 171 162)
  | _ => 0

/-- What the 64 bytes of a memory line read as under a key record other than the one they were written under (R10). -/
def State.lineUnder (s : State) (line rec : Nat) : List Byte :=
  (List.range 4).flatMap fun j =>
    toBytes (Config.underKey (look s.lineKeys line 0) rec (4 * line + j)
      (BitVec.ofNat 128 (ofBytes (Memory.read s.mem (64 * line + 16 * j) 16)))).toNat 16

/-- The memory lines that n bytes from key k lie in. -/
def linesOf (k n : Nat) : List Nat := if n = 0 then [] else (List.range ((k + n - 1) / 64 - k / 64 + 1)).map (k / 64 + ·)

/-- Memory as an access to n bytes at key k under a record finds it. -/
def State.memUnder (s : State) (rec k n : Nat) : List Host.Cell :=
  (linesOf k n).foldl (fun m line => if look s.lineKeys line 0 = rec then m else Memory.write m (64 * line) (s.lineUnder line rec)) s.mem

def State.readAt (s : State) (p : Place) (n : Nat) : List Byte := Memory.read (s.memUnder (s.recordOf p) (s.key p) n) (s.key p) n

/-- A write, under the key record of the place; one that covers a whole line clears its poison (R451). -/
def State.writeAt (s : State) (p : Place) (b : List Byte) : State :=
  let k := s.key p
  { s with
    mem := Memory.write (s.memUnder (s.recordOf p) k b.length) k b
    lineKeys := (linesOf k b.length).foldl (fun m line => put m line (s.recordOf p) 0) s.lineKeys
    poison := s.poison.filter fun line => !(decide (k ≤ line * 64) && decide (line * 64 + 64 ≤ k + b.length)) }

/-- A poisoned line among n bytes at a place (R451). -/
def State.poisoned (s : State) (p : Place) (n : Nat) : Bool :=
  let k := s.key p
  s.poison.any fun line => decide (k < line * 64 + 64) && decide (line * 64 < k + n)

/-! ### Translation -/

inductive Access where
  | read | write | atomic | fetch
  deriving DecidableEq, Repr

/-- What a walk finds: a leaf with its page, or a fault (R447). -/
inductive Walk where
  | leaf (base log pte : Nat)
  | absent (replay : Bool)
  | format
  deriving DecidableEq, Repr

def pteKind (e : Nat) : Nat := bits e 61 60
def pteAddr (e : Nat) : Nat := bits e 39 0

/-- The rules of an entry with V = 1 at a level (R447 Table 11). -/
def pteFormatOk (e level : Nat) : Bool :=
  let leaf := tbit e 41
  let k := pteKind e
  let adr := pteAddr e
  if leaf then
    (level ≤ 2) && (!tbit e 40 || level == 0) && (tbit e 44 || bits e 49 45 == 0) && (k != 1 || bits e 59 50 == 0)
      && (match k with
          | 2 => decide (adr < 2 ^ 6)
          | 3 => decide (adr < 2 ^ 8)
          | _ => if level = 2 then adr % 2 ^ 18 == 0 else if level = 1 then adr % 2 ^ 9 == 0
                 else if tbit e 40 then adr % 2 ^ 4 == 0 else true)
  else decide (0 < level) && k == 0 && !tbit e 40 && (tbit e 44 || bits e 49 45 == 0)

/-- The size of a layer's home memory (R10). -/
def homeSize : Nat := 2 ^ 36

/-- The walk from the table at physical address `tbl` (R447); a root or a pointer past the end of home memory is badly formed:
DESIGN CHOICE (notes/assumptions/6.md). -/
def State.walkFrom (s : State) (l va : Nat) : Nat → Nat → Walk
  | level, tbl =>
    if homeSize ≤ tbl then .format else
    let e := ofBytes (s.readAt (.home l (tbl + 8 * (va / 2 ^ (12 + 9 * level) % 512)) 0) 8)
    if !tbit e 63 then .absent (tbit e 62)
    else if !pteFormatOk e level then .format
    else if tbit e 41 then
      let log := if level = 0 then (if tbit e 40 then 16 else 12) else 12 + 9 * level
      .leaf (va / 2 ^ log * 2 ^ log) log e
    else match level with
      | 0 => .format
      | k + 1 => s.walkFrom l va k (pteAddr e * 2 ^ 12)

/-- A walk; with no page table every translation fails as page-absent, fatal (R424). -/
def State.walk (s : State) (l va : Nat) : Walk :=
  if (s.layer l).ptb = 0 then .absent false else s.walkFrom l va 4 (s.layer l).ptb

/-- Entries of a core's first-level TLB and of a cluster's second-level TLB (R11, R207). -/
def tlbSize (unit : Nat) : Nat := if unit < 128 then 256 else 8192

/-- The TLBs an access through core `via` − 1 of the layer looks in, in order (R207); 0: the part's own walkers alone. -/
def tlbsOf (via : Nat) : List Nat := if via = 0 then [] else [via - 1, 128 + (via - 1) / 8]

/-- The translation one TLB of the layer holds (R448). -/
def State.tlbAt (s : State) (l unit va : Nat) : Option TlbEntry :=
  (s.layer l).tlb.find? fun t => t.unit == unit && decide (t.base ≤ va) && decide (va < t.base + 2 ^ t.log)

/-- The translation an access finds in its core's TLB, or in its cluster's (R207, R448). -/
def State.tlbHit (s : State) (l via va : Nat) : Option TlbEntry := firstSome (fun u => s.tlbAt l u va) (tlbsOf via)

/-- The answer of a translation: a place, or the cause of the fault and whether it is replayable. -/
inductive Tr where
  | ok (p : Place)
  | fault (cause : Nat) (replay : Bool)
  deriving DecidableEq, Repr

/-- A key index the layer may use: 0, or assigned to it and installed (R450). -/
def State.keyOk (s : State) (l kix : Nat) : Bool :=
  kix == 0 || ((find s.keyOwner kix == some l) && (find s.keys kix).isSome)

/-- A key index whose key is installed: what a region's or a window's lines need. -/
def State.keyHeld (s : State) (kix : Nat) : Bool := kix == 0 || (find s.keys kix).isSome

/-- A place in home memory; past its end an entry is badly formed, and so is an address whose replica or reference copy lies there
(notes/assumptions/6.md). -/
def homePlace (l off kix : Nat) (key : Bool) : Tr :=
  if homeSize ≤ off then .fault 0x15 false
  else if !key then .fault 0x16 false
  else .ok (.home l off kix)

/-- The place an entry gives an address (R447, R398 to R403, R395 to R397). `aq`: a stack-scope write, which a stale
replica does not fault (R404, R409). An address whose replica or reference copy would lie past the end of home memory is badly formed:
DESIGN CHOICE (notes/assumptions/6.md). -/
def State.placeOf (s : State) (l : Nat) (acc : Access) (aq : Bool) (va base log pte : Nat) : Tr :=
  let rd := tbit pte 42; let w := tbit pte 43; let x := tbit pte 44
  let okp := match acc with | .read => rd | .write => w | .atomic => rd && w | .fetch => x
  let off := va - base
  if !okp then .fault 0x14 false
  else match pteKind pte with
  | 0 => homePlace l (pteAddr pte * 2 ^ 12 + off % 2 ^ log) (bits pte 59 50) (s.keyOk l (bits pte 59 50))
  | 1 => .ok (.host (s.hostPort l) (pteAddr pte * 2 ^ 12 + off % 2 ^ log))
  | 2 =>
    let r := bits pte 5 0
    let e := look (s.layer l).regions r 0
    let o : Int := (va : Int) - regionVbase e
    if regionKind e = 0 ∨ o < 0 ∨ (regionSize e : Int) ≤ o then .fault 0x15 false
    else
      let o := o.toNat
      let kix := bits e 171 162
      match regionKind e with
      | 1 => let h := stripedHome e o; homePlace h.1 (regionPbase e + h.2) kix (s.keyHeld kix)
      | 2 => let h := tiledHome e o; homePlace h.1 (regionPbase e + h.2) kix (s.keyHeld kix)
      | _ => if homeSize ≤ regionPbase e + o ∨ homeSize ≤ regionRbase e + o then .fault 0x15 false
             else if look (s.layer l).stale r false && !aq then .fault 0x19 false
             else if !s.keyHeld kix then .fault 0x16 false
             else .ok (.replica l r o)
  | _ =>
    match find (s.layer l).windows (bits pte 7 0) with
    | none => .fault 0x1B false
    | some win =>
      let ex := find (s.layer win.layer).exports win.eix
      match ex with
      | some e =>
        if win.revoked || !e.current || e.gen != win.gen then .fault 0x1B false
        else if va < win.base ∨ win.base + win.size ≤ va then .fault 0x15 false
        else if !(match acc with | .read => e.r | .write => e.w | .atomic => e.a | .fetch => e.r) then .fault 0x14 false
        else homePlace win.layer (e.base + (va - win.base)) e.kix (s.keyHeld e.kix)
      | none => .fault 0x1B false

/-- The entry that maps an address: from a TLB, else by a walk. -/
def State.leafOf (s : State) (l via va : Nat) : Walk :=
  match s.tlbHit l via va with
  | some t => .leaf t.base t.log t.pte
  | none => s.walk l va

/-- A translation (R207, R447) for core `via` − 1 of the layer, or for an agent without a TLB. -/
def State.translate (s : State) (l via : Nat) (acc : Access) (aq : Bool) (va : Nat) : Tr :=
  match s.leafOf l via va with
  | .leaf base log pte => s.placeOf l acc aq va base log pte
  | .absent r => .fault 0x13 r
  | .format => .fault 0x15 false

/-- A TLB takes a translation, which a walk through the network has found (R203, R207); a full one drops an entry, which one the manual leaves open (notes/assumptions/7.md). -/
def State.tlbTake (s : State) (l : Nat) (e : TlbEntry) : State :=
  let mine := (s.layer l).tlb.filter (·.unit == e.unit)
  let s := s.noteRouters l [(if e.unit < 128 then e.unit / 8 else e.unit - 128) % 16]
  let y := s.layer l
  if mine.length < tlbSize e.unit then s.setLayer l { y with tlb := e :: y.tlb }
  else
    let gone := mine.getD ((Config.freeWord s.free).toNat % mine.length) e
    { s.setLayer l { y with tlb := e :: y.tlb.erase gone } with free := s.free + 1 }

/-- The TLBs on an access's way hold what it found (R207, R448). -/
def State.fillTlb (s : State) (l via va : Nat) : State :=
  match s.leafOf l via va with
  | .leaf base log pte => (tlbsOf via).foldl (fun t u => if (t.tlbAt l u va).isSome then t else t.tlbTake l ⟨u, base, log, pte⟩) s
  | _ => s

/-! ### Ranges of virtual addresses -/

/-- The pieces of [va, va + n) that lie in one 64-byte line each. -/
def pieces : Nat → Nat → Nat → List (Nat × Nat)
  | 0, _, _ => []
  | fuel + 1, va, n =>
    if n = 0 then []
    else
      let k := min n (64 - va % 64)
      (va, k) :: pieces fuel (va + k) (n - k)

def piecesOf (va n : Nat) : List (Nat × Nat) := pieces (n / 64 + 2) va n

/-- A fault of a range access: the cause, the address, and whether it is replayable. -/
structure VaFault where
  cause : Nat
  addr : Nat
  replay : Bool
  deriving DecidableEq, Repr

/-- The places of a range, or its first fault; an address past 2^57 is address-range. -/
def State.placesOf (s : State) (l : Nat) (acc : Access) (va n : Nat) : Except VaFault (List (Place × Nat)) :=
  (piecesOf va n).foldr (init := .ok []) fun p rest =>
    if 2 ^ 57 < p.1 + p.2 then .error ⟨0x10, p.1, false⟩
    else match s.translate l 0 acc false p.1 with
    | .fault c r => .error ⟨c, p.1, r⟩
    | .ok pl => rest.map ((pl, p.2) :: ·)

/-- The part has read or written a range for itself, from stage-one router `k` or the FE die (R203, R204). -/
def State.noteAccess (s : State) (l : Nat) (k : Option Nat) (acc : Access) (va n : Nat) : State :=
  match s.placesOf l acc va n with
  | .ok ps => ps.foldl (fun t p => t.notePlace l k p.1) s
  | .error _ => s

/-- Bytes of virtual memory; a poisoned line fails (R451). -/
def State.readVa (s : State) (l va n : Nat) : Except VaFault (List Byte) :=
  match s.placesOf l .read va n with
  | .error f => .error f
  | .ok ps =>
    match (ps.zip (piecesOf va n)).find? fun p => s.poisoned p.1.1 p.1.2 with
    | some p => .error ⟨0x1C, p.2.1 / 64 * 64, false⟩
    | none => .ok (ps.flatMap fun p => s.readAt p.1 p.2)

/-- Bytes written over places in order. -/
def State.writePlaces (s : State) : List (Place × Nat) → List Byte → State
  | [], _ => s
  | (p, n) :: ps, b => (s.writeAt p (b.take n)).writePlaces ps (b.drop n)

/-- Bytes of virtual memory written, wholly or not at all. -/
def State.writeVa (s : State) (l va : Nat) (b : List Byte) : Except VaFault State :=
  match s.placesOf l .write va b.length with
  | .error f => .error f
  | .ok ps => .ok (s.writePlaces ps b)

end Sys2Proof.Machine
end

