-- ==== Sys2Proof/Machine/Caddy.lean ====
section
/-! DEFINITION. The caddy unit (spec/10_intervals.md R262 to R271): nodes, references, allocation, reclamation, spilling. -/

namespace Sys2Proof.Machine

def State.gang (s : State) (g : Nat) : Gang := look s.gangs g default
def State.crew (s : State) (c : Nat) : Crew := look s.crews c default
def State.convoy (s : State) (v : Nat) : Convoy := look s.convoys v default
def State.launch (s : State) (n : Nat) : Launch := look s.launches n default
def State.modGang (s : State) (g : Nat) (f : Gang → Gang) : State := { s with gangs := alter s.gangs g f }
def State.modCrew (s : State) (c : Nat) (f : Crew → Crew) : State := { s with crews := alter s.crews c f }
def State.modConvoy (s : State) (v : Nat) (f : Convoy → Convoy) : State := { s with convoys := alter s.convoys v f }
def State.modOp (s : State) (i : Nat) (f : Op → Op) : State := { s with ops := alter s.ops i f }

/-- T, the number of indices (R262). -/
def Crew.nodeSpace (c : Crew) : Nat := if c.caddyC < c.spillS then c.spillS else c.caddyC

/-- The spill entry of node i (R268). -/
def State.spillAddr (s : State) (c i : Nat) : Nat := (s.launch (s.crew c).launch).desc.spill + 16 * i

/-- The 16 bytes of a node (R264). -/
def nodeBytes (n : Node) (gen : Nat) : List Byte :=
  let lowPart := n.opc + gen * 2 ^ 8 + n.rc * 2 ^ 18
  toBytes (if 0x10 ≤ n.opc then lowPart + n.val * 2 ^ 64
           else lowPart + n.a * 2 ^ 34 + n.b * 2 ^ 56 + n.c * 2 ^ 78) 16

/-- A node stands in its caddy slot, not in its spill entry. -/
def Crew.inSlot (c : Crew) (i : Nat) : Bool :=
  c.caddyC == 0 || !(decide (c.caddyC < c.spillS)) || look c.caddy.slots (i % c.caddyC) 0 == i

def State.modCaddy (s : State) (c : Nat) (f : Caddy → Caddy) : State :=
  s.modCrew c fun cr => { cr with caddy := f cr.caddy }

/-- What the spill entry of index i is to hold: its node, or a free one of its generation (R264, R268). -/
def Crew.entryBytes (c : Crew) (i : Nat) : List Byte :=
  nodeBytes ((find c.caddy.nodes i).getD ⟨0, 0, 0, 0, 0, 0⟩) (look c.caddy.gens i 0)

def Node.children (n : Node) : List Nat :=
  if 0x10 ≤ n.opc then [] else if n.opc = 8 then [n.a, n.b, n.c]
  else if n.opc ≤ 4 then [n.a, n.b] else [n.a]

/-- The children of node i; none where it is not live. -/
def Caddy.childrenOf (d : Caddy) (i : Nat) : List Nat := ((find d.nodes i).map Node.children).getD []

/-- Notes that an entry has been written. -/
def Caddy.wrote (d : Caddy) (i : Nat) : Caddy :=
  { d with spilled := insert d.spilled i (d.childrenOf i), unwritten := d.unwritten.filter (· != i), sent := i :: d.sent }

/-- Entry i is written as it is to stand; a fault there leaves the write to be made (R268). The nodes themselves stay in
`Caddy.nodes`, whatever a program writes over its spill area (notes/assumptions/42.md). -/
def State.spillWrite (s : State) (c i : Nat) : State :=
  let cr := s.crew c
  match s.writeVa cr.layer (s.spillAddr c i) (cr.entryBytes i) with
  | .ok t => t.modCaddy c (·.wrote i)
  | .error _ => s.modCaddy c fun d => { d with unwritten := if d.unwritten.contains i then d.unwritten else i :: d.unwritten }

/-- A change of a node that lies in its spill entry rewrites the entry (R268). A node of undefined content may name a child that is no
index of the crew: nothing outside its entries is written (R4). -/
def State.spillTouch (s : State) (c i : Nat) : State :=
  if (s.crew c).inSlot i || i == 0 || decide ((s.crew c).spillS ≤ i) then s else s.spillWrite c i

/-- The fault that a read of node i meets where it lies in its spill entry (R268). -/
def State.spillMeets (s : State) (c i : Nat) : Option VaFault :=
  let cr := s.crew c
  if cr.inSlot i || (find cr.caddy.spilled i).isNone then none
  else match s.placesOf cr.layer .read (s.spillAddr c i) 16 with
    | .error f => some { f with addr := s.spillAddr c i }
    | .ok _ => none

/-- An access of the part to a range that waits on a replayable fault. -/
def State.stillWaits (s : State) (l va n : Nat) : Bool := (s.layer l).waits.any fun a => decide (va ≤ a) && decide (a < va + n)

/-- The fault of a read of node i from its spill entry; a replayable one holds until REPLAY (R268, R448). -/
def State.entryFault (s : State) (c i : Nat) : Option VaFault :=
  if !(s.crew c).inSlot i && s.stillWaits (s.crew c).layer (s.spillAddr c i) 16 then some ⟨0x13, s.spillAddr c i, true⟩
  else s.spillMeets c i

/-- The fault that delays a read of node i (R268). -/
def State.entryDelay (s : State) (c i : Nat) : Option VaFault := (s.entryFault c i).filter (·.replay)

def State.modNode (s : State) (c i : Nat) (f : Node → Node) : State :=
  (s.modCaddy c fun d => { d with nodes := alter d.nodes i f }).spillTouch c i

/-- One reference more; 65,535 stays (R269, R270). -/
def State.retain (s : State) (c i : Nat) : State :=
  s.modNode c i fun n => { n with rc := if n.rc = 65535 then n.rc else n.rc + 1 }

/-- One reference less (R269, R270). -/
def State.release (s : State) (c i : Nat) : State :=
  s.modNode c i fun n => { n with rc := if n.rc = 65535 then n.rc else n.rc - 1 }

/-- Node i and the nodes below it: by its children, and by those its entry was last written with; a graph is at most as deep as it has
nodes. -/
def Caddy.below (d : Caddy) : Nat → Nat → List Nat
  | 0, i => [i]
  | fuel + 1, i => i :: ((d.childrenOf i ++ look d.spilled i []).filter (· != i)).flatMap (d.below fuel)

/-- A node of undefined content (R264, R268): every field is free, its count of references and its generation too; under operator 0
the index is free. -/
def State.freeNode (s : State) (c i : Nat) : State :=
  let w (k : Nat) : Nat := (Config.freeWord (s.free + k)).toNat
  let n : Node := { opc := w 0 % 2 ^ 8, rc := w 5 % 2 ^ 16, a := w 1 % 2 ^ 22, b := w 2 % 2 ^ 22, c := w 3 % 2 ^ 22, val := w 4 }
  let t := s.modCaddy c fun d =>
    if i = 0 ∨ (s.crew c).nodeSpace ≤ i then d
    else { d with nodes := if n.opc = 0 then erase d.nodes i else insert d.nodes i n, gens := put d.gens i (w 6 % 2 ^ 10) 0 }
  { t with free := t.free + 7 }

/-- The children of node i lose its references (R269): those of a spilled node are read from its entry, and where that read meets a fatal
fault the nodes below it become undefined (R268, notes/assumptions/4.md). -/
def State.releaseChildren (s : State) (c i : Nat) (children : List Nat) (lost : Bool) : State :=
  if lost then ((s.crew c).caddy.below (s.crew c).caddy.nodes.length i).tail.foldl (fun t j => t.freeNode c j) s
  else children.foldl (fun t j => t.release c j) s

/-- Reclaims node i, whose RC is 0 (R271); a replayable fault of the read of its spilled entry delays that (R268). -/
def State.reclaim (s : State) (c i : Nat) : State :=
  match find (s.crew c).caddy.nodes i with
  | none => s
  | some n =>
    if n.rc ≠ 0 ∨ (s.entryDelay c i).isSome then s
    else
      let spilled := !(s.crew c).inSlot i
      let gen := (look (s.crew c).caddy.gens i 0 + 1) % 1024
      let t := s.modCaddy c fun d =>
        { d with nodes := erase d.nodes i, gens := put d.gens i gen 0
                 slots := if look d.slots (i % (s.crew c).caddyC) 0 = i then erase d.slots (i % (s.crew c).caddyC) else d.slots }
      let t := if spilled then t.spillWrite c i else t
      t.releaseChildren c i n.children (s.entryFault c i).isSome

/-- Free indices (R279). -/
def State.freeNodes (s : State) (c : Nat) : Nat := (s.crew c).nodeSpace - 1 - (s.crew c).caddy.nodes.length

/-- The first free index after `last`, in the cyclic order 1 .. T - 1 (R267). -/
def nextFree (nodes : List (Nat × Node)) (t : Nat) : Nat → Nat → Option Nat
  | 0, _ => none
  | fuel + 1, last =>
    let i := if last + 1 < t then last + 1 else 1
    if (find nodes i).isNone then some i else nextFree nodes t fuel i

/-- Allocates a node: its index, and the fault of the spill write it needs (R267, R268, R275). -/
def State.alloc (s : State) (c : Nat) (n : Node) : State × Nat × Option VaFault :=
  let cr := s.crew c
  match nextFree cr.caddy.nodes cr.nodeSpace (cr.caddy.nodes.length + 2) cr.caddy.last with
  | none => (s, 0, none)
  | some i =>
    let slot := i % cr.caddyC
    let j := look cr.caddy.slots slot 0
    let evict := decide (cr.caddyC < cr.spillS) && j != 0 && j != i
    let (s1, fault) : State × Option VaFault :=
      if evict then
        match find cr.caddy.nodes j with
        | some nj =>
          match s.writeVa cr.layer (s.spillAddr c j) (nodeBytes nj (look cr.caddy.gens j 0)) with
          | .ok t => (t.modCaddy c (·.wrote j), none)
          | .error f => (s, some { f with addr := s.spillAddr c j })
        | none => (s, none)
      else (s, none)
    let s2 := s1.modCaddy c fun d =>
      { d with nodes := insert d.nodes i { n with rc := 1 }, last := i, slots := insert d.slots slot i }
    (n.children.foldl (fun t j => t.retain c j) s2, i, fault)

/-- Whether en of lane l holds a reference (R59, HV). -/
def Gang.hvAt (g : Gang) (n l : Nat) : Bool := look g.hv (32 * n + l) false

/-- The index of the handle in en of lane l. -/
def Gang.handleIx (g : Gang) (n l : Nat) : Nat := (look g.v (32 * (4 * n + 2) + l) 0).toNat % 2 ^ 22

/-- Releases the reference of en of lane l, if it holds one; HV, bit 0 of v4n+3, becomes 0 (R59, R60). -/
def State.releaseE (s : State) (g n l : Nat) : State :=
  let G := s.gang g
  if G.hvAt n l then
    let k := 32 * (4 * n + 3) + l
    (s.modGang g fun x =>
      { x with hv := erase x.hv (32 * n + l), v := put x.v k (look x.v k 0 &&& ~~~1#32) 0 }).release G.crew (G.handleIx n l)
  else s

/-- The references that registers of exited threads of a crew still count for, released (R269). The registers keep their
words (R92, R307). -/
def State.releaseGone (s : State) (c : Nat) : State :=
  (s.crew c).gangs.foldl (init := s) fun t g =>
    ((t.gang g).hv.filter fun p => !hasLane (look (t.gang g).m 0 0) (p.1 % 32)).foldl (init := t) fun t p =>
      (t.modGang g fun x => { x with hv := erase x.hv p.1 }).release c ((t.gang g).handleIx (p.1 / 32) (p.1 % 32))

/-- The nodes whose reclamation is due and not delayed. -/
def State.dueNodes (s : State) (c : Nat) : List Nat :=
  ((s.crew c).caddy.nodes.filter fun p => p.2.rc == 0 && (s.entryDelay c p.1).isNone).map (·.1)

/-- The first fault that delays a reclamation of the crew (R268, R271). -/
def State.reclaimDelay (s : State) (c : Nat) : Option VaFault :=
  firstSome (fun (p : Nat × Node) => if p.2.rc = 0 then s.entryDelay c p.1 else none) (s.crew c).caddy.nodes

/-- Every reclamation run to completion (R271, R279), but those that a fault delays. -/
def State.reclaimAll (s : State) (c : Nat) : State :=
  let rec go : Nat → State → State
    | 0, t => t
    | k + 1, t => match t.dueNodes c with
      | [] => t
      | i :: _ => go k (t.reclaim c i)
  let s := s.releaseGone c
  go ((s.crew c).caddy.nodes.length + 1) s

end Sys2Proof.Machine
end

