-- ==== Sys2Proof/Machine/Ops.lean ====
section
/-! DEFINITION. The named operations over threads, registers, masks and queues (spec/02_formats.md R52 to R60,
spec/03_control.md R77 to R96, spec/15_tasks.md R389 to R391). -/

namespace Sys2Proof.Machine

/-! ### Threads and masks -/

def Gang.thread (g : Gang) (l : Nat) : Thread := g.threads.getD l {}

/-- The threads of a set of lanes, changed. -/
def Gang.modLanes (g : Gang) (m : BitVec 32) (f : Thread → Thread) : Gang :=
  { g with threads := g.threads.mapIdx fun l t => if hasLane m l then f t else t }

def Gang.mask (g : Gang) (k : Nat) : BitVec 32 := look g.m k 0
def Gang.setMask (g : Gang) (k : Nat) (v : BitVec 32) : Gang := { g with m := put g.m k v 0 }

/-- m0 (R84). -/
def Gang.live (g : Gang) : BitVec 32 := g.mask 0

/-- The halt mask stops the gang's role (R453). -/
def Gang.halted (g : Gang) (hm : BitVec 4) : Bool := hm.getLsbD g.role.toNat && !g.stepOnce

/-- Live threads that do not wait (R77), less the debugger's halt. -/
def Gang.ready (g : Gang) : BitVec 32 := laneSet fun l => hasLane g.live l && (g.thread l).wait == .none

/-- A captured request of the gang is yet to be posted again: no instruction issues before (R303). -/
def State.awaitsPost (s : State) (gid : Nat) : Bool := s.reqs.any fun p => p.2.gang == gid && p.2.due

/-- The stage-one router over a crew's cluster (R201). -/
def State.clusterRouter (s : State) (crew : Nat) : Nat := (s.crew crew).cluster % 16

/-- A layer is awake: its device is not asleep and its aqueduct receiver is ready (R404, R29). -/
def State.awake (s : State) (l : Nat) : Bool := !(s.layer l).asleep && s.ready.getLsbD (28 + l)

/-- The gang is on its core, its crew issues, its task queue is filled (R378), its requests are posted (R303), and its layer is awake
(R404). -/
def State.gangUp (s : State) (gid : Nat) : Bool :=
  let g := s.gang gid
  let c := s.crew g.crew
  (find s.gangs gid).isSome && !g.retired && c.status == .resident && g.pend.isNone
    && (s.convoy c.convoy).status != .preempting && !g.halted c.hm
    && (match g.task with | some k => k.filled | none => true) && s.awake c.layer && !s.awaitsPost gid

/-- The runnable threads (R77). -/
def State.runnable (s : State) (gid : Nat) : BitVec 32 := if s.gangUp gid then (s.gang gid).ready else 0

/-- The threads of a set at a program counter. -/
def Gang.at_ (g : Gang) (m : BitVec 32) (pc : Nat) : BitVec 32 := laneSet fun l => hasLane m l && (g.thread l).pc == pc

/-- Every live member waits on mk (R95). -/
def Gang.groupMet (g : Gang) (k : Nat) : Bool :=
  (lanes (g.mask k &&& g.live)).all fun l => (g.thread l).wait == .waitm k

/-- The release rule for mk (R95). A waiter stands at its WAITM, one word long. From the last word of the address space it goes on at
2^57, which no fetch reaches: DESIGN CHOICE (notes/assumptions/48.md). -/
def Gang.release (g : Gang) (k : Nat) : Gang :=
  if g.groupMet k then
    { g with threads := g.threads.map fun t => if t.wait = .waitm k then { t with wait := .none, pc := t.pc + 4 } else t }
  else g

/-- The release rule for every mask, after a change of m0. -/
def Gang.releaseAll (g : Gang) : Gang := (List.range 12).foldl Gang.release g

/-- A write of mk and its release (R85, R95). -/
def Gang.writeMask (g : Gang) (k : Nat) (v : BitVec 32) : Gang := (g.setMask k v).release k

/-- EXIT for a set of threads (R92). -/
def Gang.exit (g : Gang) (m : BitVec 32) : Gang :=
  ((g.modLanes m fun _ => {}).setMask 0 (g.live &&& ~~~ m)).releaseAll

/-! ### Registers -/

def Gang.vreg (g : Gang) (n l : Nat) : Nat := (look g.v (32 * n + l) 0).toNat
def Gang.greg (g : Gang) (n : Nat) : Nat := (look g.g n 0).toNat

/-- A word of register r of lane l, where r is a v or g register. -/
def Gang.reg (g : Gang) (r l : Nat) : Nat := if r < 192 then g.vreg r l else g.greg (r - 192)

/-- n consecutive registers as one value, the low word first (R56). -/
def Gang.regs (g : Gang) (r n l : Nat) : Nat := ofWords ((List.range n).map fun i => g.reg (r + i) l)

def Gang.setV (g : Gang) (n l x : Nat) : Gang := { g with v := put g.v (32 * n + l) (BitVec.ofNat 32 x) 0 }
def Gang.setG (g : Gang) (n x : Nat) : Gang := { g with g := put g.g n (BitVec.ofNat 32 x) 0 }

/-- A write of register vr of lane l outside the interval destinations: where its e register holds a reference, the
reference is released first and bit 0 of its fourth word is stored as 0 (R60). -/
def State.writeV (s : State) (gid r l x : Nat) (held : Bool) : State :=
  let s := s.releaseE gid (r / 4) l
  s.modGang gid fun g => g.setV r l (if held && r % 4 == 3 then x / 2 * 2 else x)

/-- The n registers from vr of lane l. -/
def State.writeVs (s : State) (gid r n l x : Nat) : State :=
  let held := (List.range n).map fun i => (s.gang gid).hvAt ((r + i) / 4) l
  (List.range n).foldl (fun t i => t.writeV gid (r + i) l (x / 2 ^ (32 * i) % 2 ^ 32) (held.getD i false)) s

/-! ### Queues -/

/-- The depth of queue q (R389). -/
def qDepth (q : Nat) : Nat := if q < 16 then 32 else if q < 24 then 64 else if q = 24 then 128 else 64

def State.queue (s : State) (gid q : Nat) : List (BitVec 32) :=
  let g := s.gang gid
  if q = 24 then g.q24
  else if 16 ≤ q ∧ q < 24 then look (s.convoy (s.crew g.crew).convoy).queues q []
  else look (s.crew g.crew).queues q []

def State.setQueue (s : State) (gid q : Nat) (x : List (BitVec 32)) : State :=
  let g := s.gang gid
  if q = 24 then s.modGang gid fun g => { g with q24 := x }
  else if 16 ≤ q ∧ q < 24 then s.modConvoy (s.crew g.crew).convoy fun v => { v with queues := put v.queues q x [] }
  else s.modCrew g.crew fun c => { c with queues := put c.queues q x [] }

/-- Entries pushed in order (R390). -/
def State.push (s : State) (gid q : Nat) (x : List Nat) : State :=
  s.setQueue gid q (s.queue gid q ++ x.map (BitVec.ofNat 32 ·))

/-- The first n entries removed. -/
def State.pop (s : State) (gid q n : Nat) : State := s.setQueue gid q ((s.queue gid q).drop n)

/-- Free room; q25 keeps room for every lane of the IOREQs outstanding, whose entries come with their completion (R392,
R257). -/
def State.qRoom (s : State) (gid q : Nat) : Nat :=
  let used := (s.queue gid q).length
  if q = 24 then 0
  else if q = 25 then
    qDepth q - used - ((s.ops.map fun p =>
      if p.2.crew = (s.gang gid).crew then
        match p.2.kind with | .ioreq ls _ => ls.length | _ => 0
      else 0).sum)
  else qDepth q - used

/-! ### Clusters and tickets -/

/-- A cluster of a layer. -/
def State.cluster (s : State) (l c : Nat) : Cluster := look s.clusters (16 * l + c) {}
def State.setCluster (s : State) (l c : Nat) (x : Cluster) : State := { s with clusters := insert s.clusters (16 * l + c) x }

/-- NEXT and SERV of dispenser x of a layer (R226). -/
def State.ticket (s : State) (l x : Nat) : Nat × Nat := look (s.cluster l (bits x 11 8)).tickets (x % 256) (0, 0)

def State.setTicket (s : State) (l x : Nat) (v : Nat × Nat) : State :=
  let c := bits x 11 8
  s.setCluster l c { s.cluster l c with tickets := put (s.cluster l c).tickets (x % 256) v (0, 0) }

/-- A ticket is reached (R227). -/
def State.reached (s : State) (l x y : Nat) : Bool := decide (((s.ticket l x).2 + 2 ^ 32 - y) % 2 ^ 32 < 2 ^ 31)

/-- A thread asleep at a TKTW of the dispenser tests SERV; `x` none: of any (R227). -/
def State.testTicket (s : State) (l : Nat) (x : Option Nat) (w : Wait) : Wait :=
  match w with
  | .tktw y z met => .tktw y z (met || ((x.isNone || x == some y) && s.reached l y z))
  | w => w

/-- The sleepers of a gang test SERV (R227, R232). -/
def State.testTickets (s : State) (gid : Nat) (x : Option Nat) : State :=
  let l := (s.crew (s.gang gid).crew).layer
  s.modGang gid fun g => { g with threads := g.threads.map fun t => { t with wait := s.testTicket l x t.wait } }

/-! ### The refinement engine's queue -/

/-- The requests of a cluster's engine. -/
def State.engineReqs (s : State) (crew : Nat) : List (Nat × RefReq) :=
  s.reqs.filter fun p =>
    !p.2.captured && !p.2.due && (s.crew p.2.crew).layer == (s.crew crew).layer && (s.crew p.2.crew).cluster == (s.crew crew).cluster

/-- Free entries of the engine's queue (R294). A request leaves its entry as it is admitted to a service slot: DESIGN CHOICE
(notes/assumptions/53.md). -/
def State.engineRoom (s : State) (crew : Nat) : Nat := 512 - ((s.engineReqs crew).filter fun p => !p.2.served).length

/-- A captured request is posted again, behind those posted since, as soon as the queue has room (R294, R303). -/
def State.repost (s : State) (i : Nat) : State :=
  match find s.reqs i with
  | none => s
  | some r =>
    let wait := s.engineRoom r.crew == 0
    { s with reqs := insert (erase s.reqs i) s.next { r with captured := false, due := wait }, next := s.next + 1 }

/-- Requests that have waited for room are posted, in their order. -/
def State.postDue (s : State) : State :=
  ((s.reqs.filter (·.2.due)).map (·.1)).foldl (fun t i =>
    match find t.reqs i with
    | some r => if t.engineRoom r.crew == 0 then t else t.repost i
    | none => t) s

/-! ### Who acts -/

/-- The crew's own layer. -/
def State.layerOf (s : State) (gid : Nat) : Nat := (s.crew (s.gang gid).crew).layer

/-- The TLBs a crew's accesses go through: those of its core (R207). -/
def State.viaOf (s : State) (crew : Nat) : Nat := 8 * (s.crew crew).cluster + (s.crew crew).core + 1

/-- The gang's crew is on its core. -/
def State.seated (s : State) (gid : Nat) : Bool :=
  let c := s.crew (s.gang gid).crew
  c.status == .resident && (s.convoy c.convoy).status != .saved

/-- The quadrant of a gang: its layer, cluster, core, and its slot's quarter (R11, R508). -/
def State.quadOf (s : State) (gid : Nat) : Nat × Nat × Nat × Nat :=
  let c := s.crew (s.gang gid).crew
  (c.layer, c.cluster, c.core, (s.gang gid).slot / 8)

/-- FTZ of the gang's launch (R21, R133). -/
def State.ftz (s : State) (gid : Nat) : Bool := (s.launch (s.crew (s.gang gid).crew).launch).desc.ftz

/-- A value the spec leaves open (notes/assumptions/4.md), and the counter past it. -/
def State.freeNat (s : State) (w : Nat) : Nat × State :=
  ((Config.freeWord s.free).toNat % 2 ^ w, { s with free := s.free + 1 })

/-- The next number of the model for a gang, crew, convoy, launch, operation or request. -/
def State.fresh (s : State) : Nat × State := (s.next, { s with next := s.next + 1 })

/-- The gangs of a convoy, crew by crew. -/
def State.convoyGangs (s : State) (v : Nat) : List Nat := (s.convoy v).crews.flatMap fun c => (s.crew c).gangs

end Sys2Proof.Machine
end

