-- ==== Sys2Proof/Machine/Operands.lean ====
section
/-! DEFINITION. Operand forms: what an instruction reads from v, g and q registers and how it writes its destination
(spec/02_formats.md R41, R54 to R60). -/

namespace Sys2Proof.Machine

/-- The operands an instruction reads, in pop order: A, B, F4 (R57), then a source in the D field, of which R57 says nothing: DESIGN CHOICE
(notes/assumptions/58.md). -/
def Info.srcs (i : Info) : List (Nat × Nat) := (i.opnds.filter (·.src)).map fun o => (o.reg.toNat, o.n)

/-- The operands an instruction writes. -/
def Info.dsts (i : Info) : List (Nat × Nat) := (i.opnds.filter (·.dst)).map fun o => (o.reg.toNat, o.n)

/-- Entries of the same queue that operands before operand k pop, for cnt lanes. -/
def popsBefore (srcs : List (Nat × Nat)) (k cnt : Nat) : Nat :=
  let r := (srcs.getD k (0, 0)).1
  (((srcs.take k).filter (·.1 == r)).map (·.2 * cnt)).sum

/-- Entries of register r's queue an instruction pops, or pushes, for cnt lanes. -/
def qNeed (ops : List (Nat × Nat)) (r cnt : Nat) : Nat := ((ops.filter (·.1 == r)).map (·.2 * cnt)).sum

/-- The value of operand k for lane l of the lanes `act` that pop (R54, R56, R57). -/
def State.operand (s : State) (gid : Nat) (act : BitVec 32) (srcs : List (Nat × Nat)) (k l : Nat) : Nat :=
  let r := (srcs.getD k (0, 0)).1
  let n := (srcs.getD k (0, 0)).2
  if r < 224 then (s.gang gid).regs r n l
  else ofWords ((((s.queue gid (r - 224)).drop (popsBefore srcs k (popcount act) + rank act l * n)).take n).map (·.toNat))

/-- Every pop of an instruction for cnt lanes (R57). -/
def State.popSrcs (s : State) (gid cnt : Nat) (srcs : List (Nat × Nat)) : State :=
  srcs.foldl (fun t p => if 224 ≤ p.1 then t.pop gid (p.1 - 224) (p.2 * cnt) else t) s

/-- An instruction at issue, past its checks: who issues it and what its operands hold. -/
structure Ctx where
  gid : Nat
  run : BitVec 32
  act : BitVec 32
  pc : Nat
  next : Nat
  uniform : Bool
  zero : Bool
  /-- The lanes that pop and push: the active lanes, or one for a uniform instruction (R57). -/
  qlanes : BitVec 32
  /-- The state before the pops, from which operands are read. -/
  pre : State
  srcs : List (Nat × Nat)

/-- Operand k of lane l. -/
def Ctx.val (c : Ctx) (k l : Nat) : Nat := c.pre.operand c.gid c.qlanes c.srcs k l

/-- The lane a uniform instruction reads v registers from, and the lowest active lane (R54, R55). -/
def Ctx.lane0 (c : Ctx) : Nat := lowest c.act

/-- Operand k of a uniform instruction (R55). -/
def Ctx.u (c : Ctx) (k : Nat) : Nat := c.val k c.lane0

def Ctx.gang (c : Ctx) : Gang := c.pre.gang c.gid
def Ctx.crewId (c : Ctx) : Nat := c.gang.crew
def Ctx.crew (c : Ctx) : Crew := c.pre.crew c.crewId
def Ctx.launch (c : Ctx) : Launch := c.pre.launch c.crew.launch
def Ctx.layer (c : Ctx) : Nat := c.crew.layer
def Ctx.ftz (c : Ctx) : Bool := c.launch.desc.ftz

/-- ZERO: the lanes of the run that are not active, in a v destination, receive zero (R41). With a g or q destination it does nothing and is
no illegal-instruction, though R37 and R107 may be read otherwise: DESIGN CHOICE (notes/assumptions/39.md). -/
def Ctx.zeroRest (c : Ctx) (s : State) (d n : Nat) : State :=
  if c.zero && decide (d < 192) then (lanes (c.run &&& ~~~ c.act)).foldl (fun t l => t.writeVs c.gid d n l 0) s else s

/-- The result of an instruction in its destination of n words: each active lane of a v register (every lane of the run
for a uniform instruction), the lowest lane's in a g register, one entry a lane in a queue (R41, R54, R55, R57). -/
def Ctx.write (c : Ctx) (s : State) (d n : Nat) (f : Nat → Nat) : State :=
  if d < 192 then c.zeroRest ((lanes c.act).foldl (fun t l => t.writeVs c.gid d n l (f l)) s) d n
  else if d < 224 then
    (List.range n).foldl (fun t i => t.modGang c.gid fun g => g.setG (d - 192 + i) (f c.lane0 / 2 ^ (32 * i))) s
  else s.push c.gid (d - 224) ((lanes c.qlanes).flatMap fun l => wordsFrom (f l) n)

/-- One result of a uniform instruction (R55). -/
def Ctx.writeU (c : Ctx) (s : State) (d n x : Nat) : State := c.write s d n fun _ => x

/-- What the effect of an instruction comes to: a state, or a trap at issue with its cause, fault address and lane
(255 where none is named). -/
inductive Effect where
  | ok (s : State)
  | trap (cause faddr lane : Nat)
  /-- TRAP and BRK: the run stands past the instruction (R427). -/
  | soft (cause faddr : Nat)
  /-- A replayable fault at the address delays the instruction. -/
  | wait (cause faddr : Nat)

/-- The first active lane for which a check fails, as a trap. -/
def Ctx.check (c : Ctx) (f : Nat → Option (Nat × Nat)) : Option Effect :=
  firstSome (fun l => (f l).map fun p => Effect.trap p.1 p.2 l) (lanes c.act)

/-- `k` unless a lane's check fails. -/
def Ctx.checked (c : Ctx) (f : Nat → Option (Nat × Nat)) (k : Effect) : Effect := (c.check f).getD k

end Sys2Proof.Machine
end

