-- ==== Sys2Proof/Machine/Flags.lean ====
section
/-! DEFINITION. Flags of this machine are mask bits: how conditions are computed and masks written
(spec/03_control.md R95, R99, spec/04_integer.md R118, R126). -/

namespace Sys2Proof.Machine

/-- The integer conditions, on values compared as integers (R118). -/
def icond (cc : Nat) (a b : Int) : Bool :=
  match cc with
  | 0 => a == b
  | 1 => a != b
  | 2 => decide (a < b)
  | 3 => decide (a ≤ b)
  | 4 => decide (b < a)
  | _ => decide (b ≤ a)

/-- Bits of mk written in the lanes of a set; a counting write for the release rule (R85, R95). -/
def State.writeMaskLanes (s : State) (gid k : Nat) (ls : BitVec 32) (f : Nat → Bool) : State :=
  s.modGang gid fun g => g.writeMask k ((g.mask k &&& ~~~ ls) ||| (laneSet fun l => hasLane ls l && f l))

/-- A whole mask written (R98). -/
def State.writeMaskAll (s : State) (gid k : Nat) (v : BitVec 32) : State := s.modGang gid fun g => g.writeMask k v

/-- The votes (R99): 0 ballot, 1 any, 2 all, 3 uni, over the lanes of a run. -/
def voteBit (v : Nat) (run : BitVec 32) (x : Nat → Nat) (l : Nat) : Bool :=
  match v with
  | 0 => x l != 0
  | 1 => (lanes run).any fun j => x j != 0
  | 2 => (lanes run).all fun j => x j != 0
  | _ => (lanes run).all fun j => x j == x (lowest run)

end Sys2Proof.Machine
end

