-- ==== Sys2Proof/Machine/Fp.lean ====
section
/-! DEFINITION. Floating point (spec/05_float.md): formats, exact values, the one rounding function, and the operations
on bit patterns held as naturals. -/

namespace Sys2Proof.Machine

/-- A format: exponent and fraction widths (R130). -/
structure Fmt where
  eb : Nat
  fb : Nat
  deriving DecidableEq, Repr

def Fmt.f64 : Fmt := ⟨11, 52⟩
def Fmt.f32 : Fmt := ⟨8, 23⟩
def Fmt.f16 : Fmt := ⟨5, 10⟩
def Fmt.bf16 : Fmt := ⟨8, 7⟩

/-- The format of a type code (R45). -/
def Fmt.ofType (t : Nat) : Fmt := if t = 13 then .f64 else if t = 10 then .f16 else if t = 11 then .bf16 else .f32

def Fmt.bias (f : Fmt) : Nat := 2 ^ (f.eb - 1) - 1
def Fmt.width (f : Fmt) : Nat := f.eb + f.fb + 1
def Fmt.signBit (f : Fmt) (s : Bool) : Nat := if s then 2 ^ (f.eb + f.fb) else 0
def Fmt.inf (f : Fmt) (s : Bool) : Nat := f.signBit s + (2 ^ f.eb - 1) * 2 ^ f.fb
def Fmt.zero (f : Fmt) (s : Bool) : Nat := f.signBit s
/-- The largest finite value. -/
def Fmt.huge (f : Fmt) (s : Bool) : Nat := f.inf s - 1
/-- The canonical NaN (R131). -/
def Fmt.nan (f : Fmt) : Nat := f.inf false + 2 ^ (f.fb - 1)

/-- An exact value or special value. A finite value is (-1)^s m 2^e. -/
inductive Fv where
  | nan (s : Bool) (frac : Nat) (fb : Nat)
  | inf (s : Bool)
  | fin (s : Bool) (m : Nat) (e : Int)
  deriving DecidableEq, Repr

/-- The value of a bit pattern; `ftz` reads a subnormal as a zero of its sign (R130, R133). -/
def unpack (f : Fmt) (ftz : Bool) (x : Nat) : Fv :=
  let s := tbit x (f.eb + f.fb)
  let ex := bits x (f.eb + f.fb - 1) f.fb
  let fr := x % 2 ^ f.fb
  if ex = 2 ^ f.eb - 1 then (if fr = 0 then .inf s else .nan s fr f.fb)
  else if ex = 0 then .fin s (if ftz then 0 else fr) (1 - (f.bias : Int) - f.fb)
  else .fin s (2 ^ f.fb + fr) ((ex : Int) - f.bias - f.fb)

/-- The number of bits of m. -/
def bitLen (m : Nat) : Nat := if m = 0 then 0 else Nat.log2 m + 1

/-- Whether a magnitude n with remainder rem of 2^sh is rounded up (R132); mode 0 rn, 1 rz, 2 rp, 3 rm. -/
def roundsUp (mode : Nat) (s : Bool) (n rem sh : Nat) : Bool :=
  match mode with
  | 0 => decide (2 ^ sh < 2 * rem) || (decide (2 * rem = 2 ^ sh) && n % 2 == 1)
  | 1 => false
  | 2 => !s && rem != 0
  | _ => s && rem != 0

/-- m 2^e as a multiple of 2^q, rounded. -/
def quantize (mode : Nat) (s : Bool) (m : Nat) (e q : Int) : Nat :=
  if q ≤ e then m * 2 ^ (e - q).toNat
  else
    let sh := (q - e).toNat
    let n := m / 2 ^ sh
    if roundsUp mode s n (m % 2 ^ sh) sh then n + 1 else n

/-- round((-1)^s m 2^e, fmt, mode), flushed under FTZ (R132, R133). -/
def roundFin (f : Fmt) (mode : Nat) (ftz s : Bool) (m : Nat) (e : Int) : Nat :=
  if m = 0 then f.zero s
  else
    let top : Int := e + (Nat.log2 m : Int)
    let emin : Int := 1 - (f.bias : Int)
    let free := quantize mode s m e (top - f.fb)
    let freeTop : Int := if free = 2 ^ (f.fb + 1) then top + 1 else top
    if ftz && decide (freeTop < emin) then f.zero s
    else
      let q : Int := (if top < emin then emin else top) - f.fb
      let n := quantize mode s m e q
      let carry := decide (n = 2 ^ (f.fb + 1))
      let n := if carry then 2 ^ f.fb else n
      let q := if carry then q + 1 else q
      if n < 2 ^ f.fb then f.signBit s + n
      else
        let be := (q + f.fb + f.bias).toNat
        if 2 ^ f.eb - 1 ≤ be then
          (match mode with
           | 0 => f.inf s
           | 1 => f.huge s
           | 2 => if s then f.huge s else f.inf s
           | _ => if s then f.inf s else f.huge s)
        else f.signBit s + be * 2 ^ f.fb + (n - 2 ^ f.fb)

/-- A NaN carried into a format, quiet (R135). -/
def carryNan (f : Fmt) (s : Bool) (frac fb : Nat) : Nat :=
  let fr := if fb ≤ f.fb then frac * 2 ^ (f.fb - fb) else frac / 2 ^ (fb - f.fb)
  f.inf s + (if tbit fr (f.fb - 1) then fr else fr + 2 ^ (f.fb - 1))

/-- A value rounded into a format. -/
def pack (f : Fmt) (mode : Nat) (ftz : Bool) : Fv → Nat
  | .nan s fr fb => carryNan f s fr fb
  | .inf s => f.inf s
  | .fin s m e => roundFin f mode ftz s m e

/-- An exact integer multiple of a power of two; `zs` is the sign of an exact zero. -/
def roundInt (f : Fmt) (mode : Nat) (ftz zs : Bool) (n : Int) (e : Int) : Nat :=
  if n = 0 then f.zero zs else roundFin f mode ftz (decide (n < 0)) n.natAbs e

def signed (s : Bool) (m : Nat) : Int := if s then -(m : Int) else m

/-- The sum of two finite values, exact: mantissa and exponent. -/
def addExact (s1 : Bool) (m1 : Nat) (e1 : Int) (s2 : Bool) (m2 : Nat) (e2 : Int) : Int × Int :=
  let e := if e1 ≤ e2 then e1 else e2
  (signed s1 m1 * 2 ^ (e1 - e).toNat + signed s2 m2 * 2 ^ (e2 - e).toNat, e)

/-- The rounded sum of two values neither of which is a NaN (R132, R135). -/
def addFv (f : Fmt) (mode : Nat) (ftz : Bool) (a b : Fv) : Nat :=
  match a, b with
  | .inf s, .inf t => if s = t then f.inf s else f.nan
  | .inf s, _ => f.inf s
  | _, .inf t => f.inf t
  | .fin s m e, .fin t n k =>
    let r := addExact s m e t n k
    if r.1 = 0 then f.zero (if s = t then s else decide (mode = 3))
    else roundInt f mode ftz false r.1 r.2
  | _, _ => f.nan

/-- The exact product of two values neither of which is a NaN; none for 0 × ∞. -/
def mulFv (a b : Fv) : Option Fv :=
  match a, b with
  | .inf s, .inf t => some (.inf (s != t))
  | .inf s, .fin t m _ => if m = 0 then none else some (.inf (s != t))
  | .fin s m _, .inf t => if m = 0 then none else some (.inf (s != t))
  | .fin s m e, .fin t n k => some (.fin (s != t) (m * n) (e + k))
  | _, _ => none

def Fv.isNan : Fv → Bool
  | .nan .. => true
  | _ => false

/-- The first NaN of the operands, quiet (R135); else `r`. -/
def nanElse (f : Fmt) (l : List Fv) (r : Nat) : Nat :=
  match l.find? Fv.isNan with
  | some (.nan s fr fb) => carryNan f s fr fb
  | _ => r

def fneg (f : Fmt) (x : Nat) : Nat :=
  if tbit x (f.eb + f.fb) then x % 2 ^ f.width - 2 ^ (f.eb + f.fb) else x % 2 ^ f.width + 2 ^ (f.eb + f.fb)

def fabs (f : Fmt) (x : Nat) : Nat := x % 2 ^ (f.eb + f.fb)

def Fv.neg : Fv → Fv
  | .nan s fr fb => .nan s fr fb
  | .inf s => .inf !s
  | .fin s m e => .fin (!s) m e

/-- FADD (R139). -/
def fadd (f : Fmt) (mode : Nat) (ftz : Bool) (x y : Nat) : Nat :=
  let a := unpack f ftz x; let b := unpack f ftz y
  nanElse f [a, b] (addFv f mode ftz a b)

/-- FSUB (R139): a NaN operand keeps its sign. -/
def fsub (f : Fmt) (mode : Nat) (ftz : Bool) (x y : Nat) : Nat :=
  let a := unpack f ftz x; let b := unpack f ftz y
  nanElse f [a, b] (addFv f mode ftz a b.neg)

/-- FMUL (R139). -/
def fmul (f : Fmt) (mode : Nat) (ftz : Bool) (x y : Nat) : Nat :=
  let a := unpack f ftz x; let b := unpack f ftz y
  nanElse f [a, b] (match mulFv a b with | some r => pack f mode ftz r | none => f.nan)

/-- FFMA (R139, R135). -/
def ffma (f : Fmt) (mode : Nat) (ftz : Bool) (x y z : Nat) : Nat :=
  let a := unpack f ftz x; let b := unpack f ftz y; let c := unpack f ftz z
  nanElse f [a, b, c] (match mulFv a b with | some r => addFv f mode ftz r c | none => f.nan)

/-- floor(√n), by Newton steps from above. -/
def isqrtFrom (n : Nat) : Nat → Nat → Nat
  | 0, x => x
  | k + 1, x => let y := (x + n / x) / 2; if y < x then isqrtFrom n k y else x

def isqrt (n : Nat) : Nat := if n = 0 then 0 else isqrtFrom n (bitLen n + 2) (2 ^ ((bitLen n + 1) / 2))

/-- FDIV (R139, R135). -/
def fdiv (f : Fmt) (mode : Nat) (ftz : Bool) (x y : Nat) : Nat :=
  let a := unpack f ftz x; let b := unpack f ftz y
  nanElse f [a, b] (match a, b with
    | .inf _, .inf _ => f.nan
    | .inf s, .fin t _ _ => f.inf (s != t)
    | .fin s _ _, .inf t => f.zero (s != t)
    | .fin s m e, .fin t n k =>
      if n = 0 then (if m = 0 then f.nan else f.inf (s != t))
      else if m = 0 then f.zero (s != t)
      else
        let j := bitLen n + f.fb + 4
        let q := m * 2 ^ j / n
        let st := if m * 2 ^ j % n = 0 then 0 else 1
        roundFin f mode ftz (s != t) (2 * q + st) (e - k - j - 1)
    | _, _ => f.nan)

/-- FSQRT (R139, R135). -/
def fsqrt (f : Fmt) (mode : Nat) (ftz : Bool) (x : Nat) : Nat :=
  let a := unpack f ftz x
  nanElse f [a] (match a with
    | .inf s => if s then f.nan else f.inf false
    | .fin s m e =>
      if m = 0 then f.zero s
      else if s then f.nan
      else
        let odd := if e % 2 = 0 then 0 else 1
        let j := f.fb + 4
        let w := m * 2 ^ (2 * j + odd)
        let q := isqrt w
        let st := if q * q = w then 0 else 1
        roundFin f mode ftz false (2 * q + st) ((e - odd) / 2 - j - 1)
    | _ => f.nan)

/-- A finite magnitude rounded to an integer. -/
def roundToInt (mode : Nat) (s : Bool) (m : Nat) (e : Int) : Nat := quantize mode s m e 0

/-- FRND (R139). -/
def frnd (f : Fmt) (mode : Nat) (ftz : Bool) (x : Nat) : Nat :=
  let a := unpack f ftz x
  nanElse f [a] (match a with
    | .inf s => f.inf s
    | .fin s m e => roundFin f 1 ftz s (roundToInt mode s m e) 0
    | _ => f.nan)

/-- FSCL (R139): the shift is cut where it no longer matters. -/
def fscl (f : Fmt) (mode : Nat) (ftz : Bool) (x : Nat) (b : Int) : Nat :=
  let a := unpack f ftz x
  nanElse f [a] (match a with
    | .inf s => f.inf s
    | .fin s m e => roundFin f mode ftz s m (e + clampI b (-5000) 5000)
    | _ => f.nan)

/-- The order of two finite or infinite values: -1, 0, 1. -/
def cmpFv (a b : Fv) : Int :=
  match a, b with
  | .inf s, .inf t => if s = t then 0 else if s then -1 else 1
  | .inf s, _ => if s then -1 else 1
  | _, .inf t => if t then 1 else -1
  | .fin s m e, .fin t n k =>
    let r := addExact s m e (!t) n k
    if r.1 < 0 then -1 else if r.1 = 0 then 0 else 1
  | _, _ => 0

/-- FMIN and FMAX (R136). -/
def fminmax (f : Fmt) (ftz isMax : Bool) (x y : Nat) : Nat :=
  let a := unpack f ftz x; let b := unpack f ftz y
  let w (v : Fv) (bitsv : Nat) : Nat := match v with | .fin s 0 _ => f.zero s | _ => bitsv % 2 ^ f.width
  if a.isNan then (if b.isNan then f.nan else w b y)
  else if b.isNan then w a x
  else
    let c := cmpFv a b
    let aLess := c < 0 || (c == 0 && tbit x (f.eb + f.fb))
    if aLess != isMax then w a x else w b y

/-- FCMP conditions (R141). -/
def fcond (f : Fmt) (ftz : Bool) (cc : Nat) (x y : Nat) : Bool :=
  let a := unpack f ftz x; let b := unpack f ftz y
  let un := a.isNan || b.isNan
  let c := cmpFv a b
  match cc with
  | 0 => !un && c == 0
  | 1 => un || c != 0
  | 2 => !un && decide (c < 0)
  | 3 => !un && decide (c ≤ 0)
  | 4 => !un && decide (0 < c)
  | 5 => !un && decide (0 ≤ c)
  | 6 => un
  | _ => !un

/-- FCLASS (R142). -/
def fclass (f : Fmt) (x : Nat) : Nat :=
  let s := tbit x (f.eb + f.fb)
  let ex := bits x (f.eb + f.fb - 1) f.fb
  let fr := x % 2 ^ f.fb
  if ex = 2 ^ f.eb - 1 then
    (if fr = 0 then (if s then 2 ^ 2 else 2 ^ 9) else if tbit fr (f.fb - 1) then 2 ^ 1 else 2 ^ 0)
  else if ex = 0 then
    (if fr = 0 then (if s then 2 ^ 5 else 2 ^ 6) else if s then 2 ^ 4 else 2 ^ 7)
  else if s then 2 ^ 3 else 2 ^ 8

/-- FCVT (R143). -/
def fcvt (dt st : Fmt) (mode : Nat) (ftz : Bool) (x : Nat) : Nat := pack dt mode ftz (unpack st ftz x)

/-- FCVTI (R144): the integer, before it is written by its type; `w` and `sg` are the type's width and signedness. -/
def fcvti (st : Fmt) (mode : Nat) (ftz : Bool) (w : Nat) (sg : Bool) (x : Nat) : Int :=
  let lo : Int := if sg then -((2 ^ (w - 1) : Nat) : Int) else 0
  let hi : Int := if sg then (2 ^ (w - 1) : Nat) - 1 else (2 ^ w : Nat) - 1
  match unpack st ftz x with
  | .nan .. => 0
  | .inf s => if s then lo else hi
  | .fin s m e => clampI (signed s (roundToInt mode s m e)) lo hi

/-- ICVTF (R145). -/
def icvtf (ft : Fmt) (mode : Nat) (ftz : Bool) (n : Int) : Nat := roundInt ft mode ftz false n 0

/-- The key of totalOrder on binary32 patterns (R127). -/
def totalKey (x : Nat) : Int := if tbit x 31 then -((x % 2 ^ 31 : Nat) : Int) - 1 else (x % 2 ^ 31 : Nat)

end Sys2Proof.Machine
end

