-- ==== Sys2Proof/Machine/Refine.lean ====
section
/-! DEFINITION. What a refinement request comes to: the ladder, the exact stage, the separation stage and their resources
(spec/11_decisions.md R295 to R299). -/

namespace Sys2Proof.Machine

/-! ### Endpoints: dyadic numbers of unbounded exponent -/

/-- An endpoint: an infinity, or m 2^e. -/
inductive Ep where
  | inf (neg : Bool)
  | fin (m e : Int)
  deriving DecidableEq, Repr

/-- An interval; none is the empty result (R295). -/
abbrev Iv := Option (Ep × Ep)

def Ep.neg : Ep → Ep
  | .inf b => .inf (!b)
  | .fin m e => .fin (-m) e

/-- a ≤ b. -/
def Ep.le : Ep → Ep → Bool
  | .inf a, .inf b => a || !b
  | .inf a, .fin .. => a
  | .fin .., .inf b => !b
  | .fin m e, .fin n k =>
    let l := if e ≤ k then e else k
    decide (m * 2 ^ (e - l).toNat ≤ n * 2 ^ (k - l).toNat)

def Ep.min (a b : Ep) : Ep := if a.le b then a else b
def Ep.max (a b : Ep) : Ep := if a.le b then b else a

/-- The sign of a finite endpoint or of an infinity. -/
def Ep.sign : Ep → Int
  | .inf b => if b then -1 else 1
  | .fin m _ => m.sign

/-- m / 2^sh towards −∞, or towards +∞. -/
def shiftDown (up : Bool) (m : Int) (sh : Nat) : Int := if up then -((-m) / 2 ^ sh) else m / 2 ^ sh

/-- Outward to a significand of p bits (R295). -/
def Ep.round (p : Nat) (up : Bool) : Ep → Ep
  | .inf b => .inf b
  | .fin m e =>
    let n := bitLen m.natAbs
    if n ≤ p then .fin m e else .fin (shiftDown up m (n - p)) (e + (n - p : Nat))

/-- The exact sum; none for ∞ − ∞. -/
def Ep.add : Ep → Ep → Option Ep
  | .inf a, .inf b => if a = b then some (.inf a) else none
  | .inf a, _ => some (.inf a)
  | _, .inf b => some (.inf b)
  | .fin m e, .fin n k =>
    let l := if e ≤ k then e else k
    some (.fin (m * 2 ^ (e - l).toNat + n * 2 ^ (k - l).toNat) l)

/-- The exact product; 0 × ∞ is 0 (R276). -/
def Ep.mul (a b : Ep) : Ep :=
  match a, b with
  | .fin m e, .fin n k => .fin (m * n) (e + k)
  | _, _ => if a.sign = 0 ∨ b.sign = 0 then .fin 0 0 else .inf (decide (a.sign ≠ b.sign))

/-- a / b, b not 0, to p bits outward; none for ∞ ÷ ∞. -/
def Ep.div (p : Nat) (up : Bool) (a b : Ep) : Option Ep :=
  match a, b with
  | .inf _, .inf _ => none
  | .inf s, _ => some (.inf (s != decide (b.sign < 0)))
  | .fin .., .inf _ => some (.fin 0 0)
  | .fin m e, .fin n k =>
    let sh := p + bitLen n.natAbs + 2 - bitLen m.natAbs
    let num := (if n < 0 then -m else m) * 2 ^ sh
    let q := if up then -((-num) / n.natAbs) else num / n.natAbs
    some ((Ep.fin q (e - k - sh)).round p up)

/-- The root of a number not below 0, to p bits outward. -/
def Ep.sqrt (p : Nat) (up : Bool) : Ep → Ep
  | .inf b => .inf b
  | .fin m e =>
    let odd := e % 2
    let m0 := m.toNat * 2 ^ odd.toNat
    let sh := p + 2
    let x := m0 * 2 ^ (2 * sh)
    let r := isqrt x
    (Ep.fin (if up && r * r != x then r + 1 else r) ((e - odd) / 2 - sh)).round p up

def Iv.whole : Iv := some (.inf true, .inf false)

def Iv.hasZero (a : Ep × Ep) : Bool := decide (a.1.sign ≤ 0) && decide (0 ≤ a.2.sign)

/-- The hull of exact bounds, rounded outward; where a bound has no form, the whole line (R276). -/
def Iv.out (p : Nat) (lo hi : Option Ep) : Iv :=
  match lo, hi with
  | some l, some h => some (l.round p false, h.round p true)
  | _, _ => Iv.whole

/-- The least and the greatest product of bounds. -/
def Iv.products (a b : Ep × Ep) : Ep × Ep :=
  let w := a.1.mul b.1; let x := a.1.mul b.2; let y := a.2.mul b.1; let z := a.2.mul b.2
  (Ep.min (Ep.min w x) (Ep.min y z), Ep.max (Ep.max w x) (Ep.max y z))

def Iv.add (p : Nat) (a b : Ep × Ep) : Iv := Iv.out p (a.1.add b.1) (a.2.add b.2)
def Iv.sub (p : Nat) (a b : Ep × Ep) : Iv := Iv.out p (a.1.add b.2.neg) (a.2.add b.1.neg)

def Iv.div (p : Nat) (a b : Ep × Ep) : Iv :=
  if Iv.hasZero b then Iv.whole
  else
    match a.1.div p false b.1, a.1.div p false b.2, a.2.div p false b.1, a.2.div p false b.2,
        a.1.div p true b.1, a.1.div p true b.2, a.2.div p true b.1, a.2.div p true b.2 with
    | some w, some x, some y, some z, some w', some x', some y', some z' =>
      some (Ep.min (Ep.min w x) (Ep.min y z), Ep.max (Ep.max w' x') (Ep.max y' z'))
    | _, _, _, _, _, _, _, _ => Iv.whole

def Iv.sqrt (p : Nat) (a : Ep × Ep) : Iv :=
  if a.2.sign < 0 then none
  else some (if a.1.sign < 0 then .fin 0 0 else a.1.sqrt p false, a.2.sqrt p true)

def Iv.sq (p : Nat) (a : Ep × Ep) : Iv :=
  let x := a.1.mul a.1; let y := a.2.mul a.2
  some (if Iv.hasZero a then .fin 0 0 else (Ep.min x y).round p false, (Ep.max x y).round p true)

/-! ### The graph -/

def fvEp (x : Fv) : Ep :=
  match x with
  | .inf s => .inf s
  | .fin s m e => .fin (signed s m) e
  | .nan .. => .fin 0 0

/-- The exact value of a leaf (R265). -/
def Node.leaf (n : Node) : Ep := if n.opc = 0x11 then .fin (sext n.val 64) 0 else fvEp (unpack .f64 false n.val)

/-- A leaf's interval at p bits; an opaque leaf has its own bounds (R295). -/
def Node.leafIv (n : Node) (p : Nat) : Iv :=
  if n.opc = 0x13 then some (fvEp (unpack .f32 false (n.val % 2 ^ 32)), fvEp (unpack .f32 false (n.val / 2 ^ 32)))
  else some (n.leaf.round p false, n.leaf.round p true)

/-- The nodes below a list of indices, children first. -/
def topo (nodes : List (Nat × Node)) : Nat → List Nat → List Nat → List Nat
  | 0, _, acc => acc
  | fuel + 1, is, acc =>
    is.foldl (init := acc) fun acc i =>
      if acc.contains i then acc
      else match find nodes i with
        | none => acc
        | some n => let a := topo nodes fuel n.children acc; if a.contains i then a else a ++ [i]

/-- One node's interval from its children's (R265, R295); a sqrt in `zero` is an exact zero (R298). -/
def Node.eval (n : Node) (p : Nat) (exactZero : Bool) (a b c : Iv) : Iv :=
  match n.opc, a with
  | 1, some x => b.bind fun y => Iv.add p x y
  | 2, some x => b.bind fun y => Iv.sub p x y
  | 3, some x => b.bind fun y => let q := Iv.products x y; Iv.out p (some q.1) (some q.2)
  | 4, some x => b.bind fun y => Iv.div p x y
  | 5, some x => if exactZero then some (.fin 0 0, .fin 0 0) else Iv.sqrt p x
  | 6, some x => some (x.2.neg, x.1.neg)
  | 7, some x => Iv.sq p x
  | 8, some x => b.bind fun y => c.bind fun z => let q := Iv.products x y; Iv.out p (q.1.add z.1) (q.2.add z.2)
  | _, none => none
  | _, some _ => n.leafIv p

/-- The intervals of the nodes of an order, at p bits. -/
def evalAll (nodes : List (Nat × Node)) (p : Nat) (zero order : List Nat) : List (Nat × Iv) :=
  order.foldl (init := []) fun m i =>
    match find nodes i with
    | none => m
    | some n =>
      let v := if 0x10 ≤ n.opc then n.leafIv p
        else n.eval p (zero.contains i) (look m n.a none) (look m n.b none) (look m n.c none)
      insert m i v

/-- What a request evaluates: its graph in order, and its roots. -/
structure Graph where
  nodes : List (Nat × Node)
  order : List Nat
  roots : List IvOp
  /-- ECMP: D is the difference of its two roots. -/
  cmp : Bool

def IvOp.nodeIx : IvOp → List Nat
  | .node i => [i]
  | .bare .. => []

def RefReq.graph (r : RefReq) (c : Crew) : Graph :=
  let nodes := c.caddy.nodes
  { nodes := nodes, order := topo nodes (nodes.length + 1) (r.operands.flatMap IvOp.nodeIx) [], roots := r.operands, cmp := r.cmp.isSome }

def Graph.opcs (g : Graph) : List Nat := g.order.map fun i => (look g.nodes i ⟨0, 0, 0, 0, 0, 0⟩).opc

def Graph.opaque (g : Graph) : Bool := g.opcs.contains 0x13 || g.roots.any fun o => match o with | .bare .. => true | .node _ => false

def rootIv (m : List (Nat × Iv)) : IvOp → Iv
  | .node i => look m i none
  | .bare lo hi => some (fvEp (unpack .f32 false lo), fvEp (unpack .f32 false hi))

/-- D's interval (R295). -/
def Graph.value (g : Graph) (p : Nat) (m : List (Nat × Iv)) : Iv :=
  let a := rootIv m (g.roots.getD 0 (.node 0))
  if g.cmp then a.bind fun x => (rootIv m (g.roots.getD 1 (.node 0))).bind fun y => Iv.sub p x y else a

/-- The sign an interval settles: above 0, below 0, or [0, 0]. -/
def Iv.sign (a : Iv) : Option Int :=
  match a with
  | none => none
  | some x => if 0 < x.1.sign then some 1 else if x.2.sign < 0 then some (-1) else if x.1.sign = 0 ∧ x.2.sign = 0 then some 0 else none

/-! ### Outcomes -/

inductive Settled where
  | decided (sign : Int)
  | undecided (sub : Nat)
  deriving DecidableEq, Repr

/-- The whole store of an engine, and a slot's part of it (R294). -/
def engineStore : Nat := 2 ^ 21
def slotStore : Nat := 2 ^ 17

/-- The store of a rung or a separation precision (R299). -/
def stageStore (p n : Nat) : Nat := 16 * ((p + 63) / 64) * n

/-- An outcome, and the largest store a stage needed. -/
abbrev RefOut := Settled × Nat

/-- Two intervals are equal as sets. -/
def Iv.same (a b : Iv) : Bool :=
  match a, b with
  | none, none => true
  | some x, some y => x.1.le y.1 && y.1.le x.1 && x.2.le y.2 && y.2.le x.2
  | _, _ => false

/-- The ladder's rungs (R295); none where no rung ends the request. -/
def Graph.ladder (g : Graph) (need : Nat) (prev : Option Iv) : List Nat → Option Settled × Nat
  | [] => (none, need)
  | p :: ps =>
    let st := stageStore p g.order.length
    let need := Nat.max need st
    if engineStore < st then (some (.undecided 2), need)
    else
      let d := g.value p (evalAll g.nodes p [] g.order)
      match d.sign with
      | some x => (some (.decided x), need)
      | none =>
        if g.opaque && (match prev with | some q => d.same q | none => false) then (some (.undecided 0), need)
        else g.ladder need (some d) ps

/-! ### The exact stage -/

/-- A reduced fraction. -/
structure Frac where
  num : Int
  den : Nat
  deriving DecidableEq, Repr

def Frac.mk' (n : Int) (d : Int) : Frac :=
  let n := if d < 0 then -n else n
  let d := d.natAbs
  let k := Nat.gcd n.natAbs d
  ⟨n / (k : Int), d / k⟩

def Ep.frac : Ep → Frac
  | .inf _ => ⟨0, 1⟩
  | .fin m e => if 0 ≤ e then Frac.mk' (m * 2 ^ e.toNat) 1 else Frac.mk' m (2 ^ (-e).toNat)

def Frac.add (a b : Frac) : Frac := Frac.mk' (a.num * b.den + b.num * a.den) (a.den * b.den)
def Frac.neg (a : Frac) : Frac := ⟨-a.num, a.den⟩
def Frac.mul (a b : Frac) : Frac := Frac.mk' (a.num * b.num) (a.den * b.den)
def Frac.div (a b : Frac) : Frac := Frac.mk' (a.num * b.den) (a.den * b.num)

/-- Bytes a fraction is held in, in 8-byte words (R299). -/
def Frac.bytes (a : Frac) : Nat := 8 * ((bitLen a.num.natAbs + 63) / 64 + (bitLen a.den + 63) / 64)

/-- The exact values of the nodes in order, and whether a division by an exact zero ended it (R296). -/
def Graph.fracs (g : Graph) : List Nat → List (Nat × Frac) → Bool × List (Nat × Frac)
  | [], m => (false, m)
  | i :: is, m =>
    let n := look g.nodes i ⟨0, 0, 0, 0, 0, 0⟩
    let a := look m n.a ⟨0, 1⟩; let b := look m n.b ⟨0, 1⟩; let c := look m n.c ⟨0, 1⟩
    if n.opc = 4 ∧ b.num = 0 then (true, m)
    else
      let v := match n.opc with
        | 1 => a.add b
        | 2 => a.add b.neg
        | 3 => a.mul b
        | 4 => a.div b
        | 6 => a.neg
        | 7 => a.mul a
        | 8 => (a.mul b).add c
        | _ => n.leaf.frac
      g.fracs is (insert m i v)

/-- The exact stage (R296, R299). -/
def Graph.exact (g : Graph) (need : Nat) : RefOut :=
  let r := g.fracs g.order []
  let m := r.2
  let st := (m.map fun p => p.2.bytes).sum
  if engineStore < st then (.undecided 2, Nat.max need st)
  else if r.1 then (.undecided 1, Nat.max need st)
  else
    let root (k : Nat) : Frac := match g.roots.getD k (.node 0) with | .node i => look m i ⟨0, 1⟩ | .bare .. => ⟨0, 1⟩
    let d := if g.cmp then (root 0).add (root 1).neg else root 0
    (.decided d.num.sign, Nat.max need st)

/-! ### The separation stage -/

/-- A bound not below 0 with a significand of 64 bits, rounded up (R297). -/
structure Bound where
  m : Nat
  e : Int
  deriving DecidableEq, Repr

def Bound.of (m : Nat) (e : Int) : Bound :=
  let n := bitLen m
  if n ≤ 64 then ⟨m, e⟩ else let sh := n - 64; ⟨(m + 2 ^ sh - 1) / 2 ^ sh, e + sh⟩

def Bound.mul (a b : Bound) : Bound := .of (a.m * b.m) (a.e + b.e)

/-- a + b, rounded up; a zero is exact. -/
def Bound.add (a b : Bound) : Bound :=
  if a.m = 0 then b
  else if b.m = 0 then a
  else
    let l := if a.e ≤ b.e then a.e else b.e
    .of (a.m * 2 ^ (a.e - l).toNat + b.m * 2 ^ (b.e - l).toNat) l

/-- a b + c d, each of the three operations rounded up (R297). -/
def Bound.dot (a b c d : Bound) : Bound := (a.mul b).add (c.mul d)

def Bound.sqrt (a : Bound) : Bound :=
  match (Ep.fin a.m a.e).sqrt 64 true with
  | .fin m e => ⟨m.toNat, e⟩
  | .inf _ => a

/-- m 2^e with m odd, or 0. -/
def oddPart : Nat → Nat → Int → Nat × Int
  | 0, m, e => (m, e)
  | k + 1, m, e => if m ≠ 0 ∧ m % 2 = 0 then oddPart k (m / 2) (e + 1) else (m, e)

/-- u and l of a leaf (R297 Table 3). -/
def Node.leafBounds (n : Node) : Bound × Bound :=
  match n.leaf with
  | .inf _ => (⟨0, 0⟩, ⟨1, 0⟩)
  | .fin m e =>
    if n.opc = 0x11 then (.of m.natAbs 0, ⟨1, 0⟩)
    else
      let o := oddPart 64 m.natAbs e
      if o.1 = 0 then (⟨0, 0⟩, ⟨1, 0⟩)
      else if 0 ≤ o.2 then (.of o.1 o.2, ⟨1, 0⟩) else (.of o.1 0, ⟨1, -o.2⟩)

/-- u and l of the nodes in order (R297 Table 3). -/
def Graph.bounds (g : Graph) (order : List Nat) : List (Nat × Bound × Bound) :=
  order.foldl (init := []) fun m i =>
    let n := look g.nodes i ⟨0, 0, 0, 0, 0, 0⟩
    let z : Bound × Bound := (⟨0, 0⟩, ⟨1, 0⟩)
    let a := look m n.a z; let b := look m n.b z; let c := look m n.c z
    let sum (x y : Bound × Bound) : Bound × Bound := (x.1.dot y.2 y.1 x.2, x.2.mul y.2)
    let v := match n.opc with
      | 1 => sum a b
      | 2 => sum a b
      | 3 => (a.1.mul b.1, a.2.mul b.2)
      | 4 => (a.1.mul b.2, a.2.mul b.1)
      | 5 => (a.1.sqrt, a.2.sqrt)
      | 6 => a
      | 7 => (a.1.mul a.1, a.2.mul a.2)
      | 8 => sum (a.1.mul b.1, a.2.mul b.2) c
      | _ => n.leafBounds
    insert m i v

/-- u^(2^s − 1), each product rounded up (R297). -/
def Bound.power (u : Bound) : Nat → Bound
  | 0 => ⟨1, 0⟩
  | s + 1 => ((u.power s).mul (u.power s)).mul u

/-- sep, rounded down to 64 bits; none where u is 0 and the power too (R297). -/
def sepOf (u l : Bound) (s : Nat) : Option Ep :=
  let d := (u.power s).mul l
  if d.m = 0 then none else (Ep.fin 1 0).div 64 false (.fin d.m d.e)

/-- The width of an interval is below sep. -/
def Iv.widthBelow (a : Ep × Ep) (sep : Option Ep) : Bool :=
  match sep, a with
  | none, (.fin .., .fin ..) => true
  | some q, (.fin m e, .fin n k) =>
    match (Ep.fin n k).add (Ep.fin (-m) e) with
    | some w => !q.le w
    | none => false
  | _, _ => false

def Graph.sqrtCount (g : Graph) (order : List Nat) : Nat :=
  (order.filter fun i => (look g.nodes i ⟨0, 0, 0, 0, 0, 0⟩).opc == 5).length

/-- The nodes with a divisor or a sqrt operand, and which node that is (R298). -/
def Graph.domains (g : Graph) : List (Nat × Nat × Nat) :=
  g.order.filterMap fun i =>
    let n := look g.nodes i ⟨0, 0, 0, 0, 0, 0⟩
    if n.opc = 4 then some (i, n.b, 4) else if n.opc = 5 then some (i, n.a, 5) else none

/-- What a pass over the domain nodes finds at a precision (R298). -/
inductive DomainPass where
  | stop
  | zero (node : Nat)
  | settled (open_ : Bool)
  deriving DecidableEq, Repr

/-- One pass over the domain nodes; s of a domain node counts the sqrt nodes below it, not the node itself. -/
def Graph.domainPass (g : Graph) (bs : List (Nat × Bound × Bound)) (zero : List Nat) (m : List (Nat × Iv)) : DomainPass :=
  g.domains.foldl (init := .settled false) fun acc d =>
    match acc with
    | .settled op =>
      match look m d.2.1 none with
      | none => acc
      | some x =>
        if zero.contains d.1 then acc
        else if d.2.2 = 5 ∧ x.2.sign < 0 then .stop
        else if !Iv.hasZero x then acc
        else
          let b := look bs d.2.1 (⟨0, 0⟩, ⟨1, 0⟩)
          let below := (topo g.nodes (g.nodes.length + 1) [d.2.1] []).filter (· != d.2.1)
          if Iv.widthBelow x (sepOf b.1 b.2 (g.sqrtCount below)) then
            (if d.2.2 = 4 then .stop else .zero d.1)
          else .settled (op || true)
    | _ => acc

/-- The domain nodes settled at p, evaluating again above each exact zero: the zeros, the intervals, and how it ended. -/
def Graph.settle (g : Graph) (bs : List (Nat × Bound × Bound)) (p : Nat) : Nat → List Nat → List Nat × List (Nat × Iv) × DomainPass
  | 0, zero => let m := evalAll g.nodes p zero g.order; (zero, m, .settled true)
  | k + 1, zero =>
    let m := evalAll g.nodes p zero g.order
    match g.domainPass bs zero m with
    | .zero i => g.settle bs p k (i :: zero)
    | r => (zero, m, r)

/-- The precisions of the separation stage (R297, R298, R299). -/
def Graph.separate (g : Graph) (bs : List (Nat × Bound × Bound)) (sep : Option Ep) (need : Nat) (zero : List Nat) : List Nat → RefOut
  | [] => (.undecided 2, need)
  | p :: ps =>
    let st := stageStore p g.order.length
    let need := Nat.max need st
    if engineStore < st then (.undecided 2, need)
    else match g.settle bs p (g.order.length + 1) zero with
    | (_, _, .stop) => (.undecided 1, need)
    | (zero, _, .settled true) => g.separate bs sep need zero ps
    | (zero, m, _) =>
      match g.value p m with
      | none => g.separate bs sep need zero ps
      | some x =>
        if 0 < x.1.sign then (.decided 1, need)
        else if x.2.sign < 0 then (.decided (-1), need)
        else if Iv.widthBelow x sep then (.decided 0, need)
        else g.separate bs sep need zero ps

def ladderRungs : List Nat := [48, 96, 192, 384, 768, 1536, 3072]
def separationRungs : List Nat := [6144, 12288, 24576, 49152, 98304, 196608]

/-- A request's outcome, and the store it needed (R295 to R299). -/
def Graph.outcome (g : Graph) : RefOut :=
  match g.ladder 0 none ladderRungs with
  | (some r, need) => (r, need)
  | (none, need) =>
    if g.opaque then (.undecided 0, need)
    else if !g.opcs.contains 5 then g.exact need
    else
      let bs := g.bounds g.order
      let root (k : Nat) : Bound × Bound := match g.roots.getD k (.node 0) with | .node i => look bs i (⟨0, 0⟩, ⟨1, 0⟩) | .bare .. => (⟨0, 0⟩, ⟨1, 0⟩)
      let a := root 0; let b := root 1
      let d := if g.cmp then (a.1.dot b.2 b.1 a.2, a.2.mul b.2) else a
      g.separate bs (sepOf d.1 d.2 (g.sqrtCount g.order)) need [] separationRungs

end Sys2Proof.Machine
end

