-- ==== Sys2Proof/Machine/Bounds.lean ====
section
/-! DEFINITION. Interval operands, and what the bounds alone decide (spec/10_intervals.md R259 to R261,
spec/11_decisions.md R286, R290, R294). -/

namespace Sys2Proof.Machine

/-- An interval operand of a lane: its four words, and whether it holds a reference. -/
structure IvSrc where
  lo : Nat
  hi : Nat
  handle : Nat
  word : Nat
  hv : Bool
  deriving DecidableEq, Repr

/-- Operand k of lane l as an interval (R59). -/
def Ctx.iv (c : Ctx) (k l : Nat) : IvSrc :=
  let x := c.val k l
  { lo := bits x 31 0, hi := bits x 63 32, handle := bits x 95 64, word := bits x 127 96
    hv := c.gang.hvAt ((c.srcs.getD k (0, 0)).1 / 4) l }

def f32Ep (x : Nat) : Ep := fvEp (unpack .f32 false x)
def IvSrc.l (x : IvSrc) : Ep := f32Ep x.lo
def IvSrc.h (x : IvSrc) : Ep := f32Ep x.hi
def IvSrc.ix (x : IvSrc) : Nat := x.handle % 2 ^ 22

/-- A well-formed interval (R260). -/
def wellFormedIv (lo hi : Nat) : Bool :=
  !(unpack .f32 false lo).isNan && !(unpack .f32 false hi).isNan && (f32Ep lo).le (f32Ep hi)
    && f32Ep lo != .inf false && f32Ep hi != .inf true

/-- A bare operand that is not well-formed (R261). -/
def IvSrc.bad (x : IvSrc) : Bool := !x.hv && !wellFormedIv x.lo x.hi

/-- The sign the bounds decide (R286); none: open. -/
def signByBounds (a : IvSrc) : Option IvSrc → Option Int
  | some b =>
    if !a.l.le b.h then some 1
    else if !b.l.le a.h then some (-1)
    else if a.h.le a.l && b.h.le b.l && a.l.le b.l && b.l.le a.l then some 0
    else if a.hv && b.hv && a.handle == b.handle then some 0
    else none
  | none =>
    if 0 < a.l.sign then some 1 else if a.h.sign < 0 then some (-1) else if a.l.sign = 0 ∧ a.h.sign = 0 then some 0 else none

/-- The second operand of ECMP. -/
def Ctx.iv2 (c : Ctx) (cmp : Bool) (l : Nat) : Option IvSrc := if cmp then some (c.iv 1 l) else none

/-- The lanes whose sign is open (R290). -/
def Ctx.openLanes (c : Ctx) (cmp : Bool) : BitVec 32 :=
  laneSet fun l => hasLane c.act l && (signByBounds (c.iv 0 l) (c.iv2 cmp l)).isNone

/-- An operand of the instruction is bare and not well-formed: it traps rather than stalls (R290). -/
def Ctx.ivBad (c : Ctx) (cmp : Bool) (l : Nat) : Bool := (c.iv 0 l).bad || (match c.iv2 cmp l with | some b => b.bad | none => false)

def Ctx.engineStalls (c : Ctx) (s : State) (cmp : Bool) : Bool :=
  !(lanes c.act).any (c.ivBad cmp) && decide (s.engineRoom c.crewId < popcount (c.openLanes cmp))

end Sys2Proof.Machine
end

