-- ==== Sys2Proof/Machine/Events.lean ====
section
/-! DEFINITION. Event rings, queue errors and launch errors (spec/18_commands.md R462, R468, R473). -/

namespace Sys2Proof.Machine

/-- The event record of Table 9 less SEQ (R473). -/
structure Event where
  kind : Nat
  layer : Nat := 0xFF
  queue : Nat := 0xFF
  err : Nat := 0
  cause : Nat := 0
  qrdv : Nat := 0
  info : Nat := 0
  faddr : Nat := 0

def Event.bytes (e : Event) (seq : Nat) : List Byte :=
  toBytes e.kind 4 ++ toBytes e.layer 1 ++ toBytes e.queue 1 ++ toBytes e.err 1 ++ toBytes e.cause 1
    ++ toBytes e.qrdv 4 ++ toBytes seq 4 ++ toBytes e.info 8 ++ toBytes e.faddr 8

/-- Entries of a port's event ring; none outside the sizes R473 allows (notes/assumptions/13.md). -/
def Port.ringSize (p : Port) : Nat :=
  let n := bits p.evcfg 4 0
  if 6 ≤ n ∧ n ≤ 16 then 2 ^ n else 0

def Port.ringFull (p : Port) : Bool := decide (p.ringSize ≤ (p.evwr + 2 ^ 32 - p.evrd) % 2 ^ 32)

/-- Writes a record into the ring and sends its vector (R473). -/
def State.ringWrite (s : State) (port : Nat) (e : Event) : State :=
  let p := s.port port
  let s := s.writeAt (.host port (p.evbase + 32 * (p.evwr % p.ringSize))) (e.bytes p.evwr)
  s.setPort port { p with evwr := (p.evwr + 1) % 2 ^ 32, msix := bits p.evcfg 26 16 :: p.msix }

/-- EVENT_POST on one ring (R473): a full ring loses the event, but a fault event waits for room. -/
def State.postPort (s : State) (port : Nat) (e : Event) : State :=
  let p := s.port port
  if p.ringFull then
    s.setPort port (if e.kind = 3 then { p with owed := p.owed ++ [e.bytes 0] }
                    else { p with evlost := (p.evlost + 1) % 2 ^ 32 })
  else s.ringWrite port e

/-- An event of a layer, on its host's ring. -/
def State.postLayer (s : State) (l : Nat) (e : Event) : State := s.postPort (s.hostPort l) { e with layer := l }

/-- A part-wide event, on both rings. -/
def State.postAll (s : State) (e : Event) : State := (s.postPort 0 e).postPort 1 e

/-- The fault events that wait, posted as room frees (R473). -/
def State.postOwed (s : State) (port : Nat) : State :=
  (s.port port).owed.foldl (init := s) fun t b =>
    let p := t.port port
    if p.ringFull then t
    else
      let rec8 := b.take 12 ++ toBytes p.evwr 4 ++ b.drop 16
      let t := t.writeAt (.host port (p.evbase + 32 * (p.evwr % p.ringSize))) rec8
      t.setPort port { p with evwr := (p.evwr + 1) % 2 ^ 32, msix := bits p.evcfg 26 16 :: p.msix, owed := p.owed.drop 1 }

def Layer.queue (l : Layer) (q : Nat) : Queue := look l.queues q {}
def State.cq (s : State) (l q : Nat) : Queue := (s.layer l).queue q
def State.setCq (s : State) (l q : Nat) (x : Queue) : State :=
  s.setLayer l { s.layer l with queues := insert (s.layer l).queues q x }

/-- A queue error (R468): STATE 3, ERR, one event of KIND 01h with QRD of the command concerned. -/
def State.queueError (s : State) (l q err cause faddr qrd : Nat) : State :=
  let s := s.setCq l q { s.cq l q with state := 3, err := err }
  s.postLayer l { kind := 1, queue := q, err := err, cause := cause, qrdv := qrd, faddr := faddr }

/-- A launch error (R462, R468): ERR 05h and an event of KIND 02h with the crew's context area and QRD of its LAUNCH. -/
def State.launchError (s : State) (launch cause faddr ctx : Nat) : State :=
  let n := s.launch launch
  let s := s.setCq n.layer n.queue { s.cq n.layer n.queue with state := 3, err := 5 }
  s.postLayer n.layer
    { kind := 2, queue := n.queue, err := 5, cause := cause, qrdv := n.cmd, info := ctx, faddr := faddr }

end Sys2Proof.Machine
end

