-- ==== Sys2Proof/Machine/Counted.lean ====
section
/-! DEFINITION. Counted operations: counting, stream edges, overlaps, capture and completion (spec/06_streams.md R154 to
R164, R178). Operations are numbered in issue order, so that program order is the order of their numbers. -/

namespace Sys2Proof.Machine

def Place.isHost : Place → Bool
  | .host .. => true
  | _ => false

/-- A store to host memory at a scope narrower than system: it is complete once its request has left the port (R200). -/
def Op.posted (o : Op) : Bool := decide (o.scope ≤ 4) && o.place.any Place.isHost

/-- A store of scope gang is complete once it stands in the store buffer, one that is posted to a host once it has left the port
(R200). -/
def Op.done (o : Op) : Bool := o.buffered && (o.scope == 0 || o.posted)

/-- The operations of a gang that are counted. -/
def State.outstanding (s : State) (gid : Nat) : List (Nat × Op) :=
  s.ops.filter fun p => p.2.gang == gid && !p.2.captured && !p.2.done

/-- The counter of stream strm of lane l (R154). -/
def State.counter (s : State) (gid l strm : Nat) : Nat :=
  ((s.outstanding gid).filter fun p => hasLane p.2.threads l && p.2.strm == strm).length

/-- The operations an operation with predecessor mask `pred` has edges from (R157). -/
def State.edges (s : State) (gid : Nat) (threads : BitVec 32) (pred : BitVec 8) : List Nat :=
  (s.ops.filter fun p =>
    p.2.gang == gid && !p.2.captured && (p.2.threads &&& threads) != 0 && pred.getLsbD p.2.strm).map (·.1)

/-- An operation at issue. -/
def Ctx.op (c : Ctx) (o : Ord) (inst lane : Nat) (threads : BitVec 32) (kind : OpKind) (place : Option Place := none) : Op :=
  { gang := c.gid, crew := c.crewId, layer := c.layer, pc := c.pc, inst := inst, lane := lane, threads := threads
    strm := o.strm.toNat, scope := o.scope.toNat, vol := o.vol
    after := c.pre.edges c.gid threads o.pred, kind := kind, place := place, born := c.pre.clk
    pfx := match c.pre.issue with | some u => u.pfx | none => 0 }

def State.addOp (s : State) (o : Op) : State := { s with ops := insert s.ops s.next o, next := s.next + 1 }

/-- A uniform or engine operation, counted in every active thread (R49, R154). -/
def Ctx.addUni (c : Ctx) (s : State) (o : Ord) (kind : OpKind) (place : Option Place := none) : State :=
  s.addOp (c.op o s.next c.lane0 c.act kind place)

/-- One operation for each active lane (R154). -/
def Ctx.addLanes (c : Ctx) (s : State) (o : Ord) (kind : Nat → OpKind) (place : Nat → Option Place) : State :=
  (lanes c.act).foldl (fun t l => t.addOp (c.op o s.next l (laneBit l) (kind l) (place l))) s

def State.opAt (s : State) (i : Nat) : Option Op := find s.ops i
def State.removeOp (s : State) (i : Nat) : State := { s with ops := erase s.ops i }

/-- The commands of barges, engines and the I/O unit, which read memory itself (R199, R243). What any other operation is ordered by is
what its instance sees: it goes by the store buffers (R158, R171, R250, R379). -/
def OpKind.isEngine : OpKind → Bool
  | .barge .. => true
  | .ioreq .. => true
  | .weir .. => true
  | .point .. => true
  | _ => false

/-- The agent of operation o is in the instance of a scope, taken around p's agent (R28, R165). -/
def State.within (s : State) (scope : Nat) (p o : Op) : Bool :=
  match scope with
  | 0 => p.gang == o.gang
  | 1 => p.crew == o.crew
  | 2 => p.crew == o.crew || (!(s.crew p.crew).task && !(s.crew o.crew).task && (s.crew p.crew).convoy == (s.crew o.crew).convoy)
  | 3 => p.layer == o.layer
  | _ => true

/-- A store that stands in a store buffer and not in memory. -/
def Op.inBuffer (o : Op) : Bool := o.buffered && !o.visible

/-- Store p stands in a store buffer where operation o's agent sees it: p is visible there at the scope it is shown at (R158). -/
def State.shows (s : State) (p o : Op) : Bool := p.inBuffer && s.within p.shown p o

/-- Operation o's agent sees store p although p's edges may not be met: they bind the instance of p's scope alone (R165). -/
def State.leaks (s : State) (p o : Op) : Bool := p.leaked && !p.visible && !s.within p.scope p o

/-- An operation's edge from operation i is satisfied: i is no longer left (R157, R158), or it is a store that stands in the store
buffer, shown at the scope of the edge (R165, R200). -/
def State.edgeMet (s : State) (o : Op) (i : Nat) : Bool :=
  match find s.ops i with
  | none => true
  | some y => decide (o.scope ≤ y.shown) && !o.kind.isEngine && y.buffered

/-- Every edge of an operation is satisfied. An engine, which reads memory, waits while its instance sees a store that is not in
memory yet. -/
def State.edgesMet (s : State) (o : Op) : Bool :=
  o.after.all (s.edgeMet o) && (!o.kind.isEngine || s.ops.all fun p => !(decide (1 ≤ p.2.scope) && s.shows p.2 o))

/-! ### What an operation touches -/

/-- The address, size and access of an operation's own access. -/
def OpKind.access : OpKind → Option (Nat × Nat × Access)
  | .load ea size .. => some (ea, size, .read)
  | .store ea data => some (ea, data.length, .write)
  | .prefetch ea _ => some (ea, 1, .read)
  | .atomic ea size .. => some (ea, size, .atomic)
  | .mcst ea data => some (ea, data.length, .write)
  | .rchk ea _ _ => some (ea, 64, .read)
  | .resync ea => some (ea, 64, .read)
  | _ => none

/-- Where an operation's access lies as things stand: its place, or what its address translates to. -/
def State.whereOf (s : State) (o : Op) : Option Place :=
  match o.place, o.kind.access with
  | some p, _ => some p
  | none, some (ea, _, acc) => match s.translate o.layer (s.viaOf o.crew) acc true ea with | .ok p => some p | .fault .. => none
  | none, none => none

/-- Two operations touch a common byte (R160). -/
def State.overlap (s : State) (a b : Op) : Bool :=
  match a.kind.access, b.kind.access, s.whereOf a, s.whereOf b with
  | some (_, n, _), some (_, m, _), some p, some q =>
    decide (s.key p < s.key q + m) && decide (s.key q < s.key p + n)
  | _, _, _, _ => false

def OpKind.isStore : OpKind → Bool
  | .store .. => true
  | .mcst .. => true
  | _ => false

/-- The thread's own accesses that R160 orders. -/
def OpKind.isAccess : OpKind → Bool
  | .load .. => true
  | .store .. => true
  | .atomic .. => true
  | .mcst .. => true
  | .rchk .. => true
  | _ => false

/-- Bytes written over the ranges given: those loads `who` that have read there early read again. -/
def State.reread (s : State) (who : Op → Bool) (l : List (Nat × Nat)) : State :=
  { s with ops := s.ops.map fun (p : Nat × Op) =>
      match p.2.early, p.2.kind.access, p.2.place with
      | some _, some (_, n, _), some q =>
        if who p.2 && l.any (fun r => decide (r.1 < s.key q + n) && decide (s.key q < r.1 + r.2)) then (p.1, { p.2 with early := none }) else p
      | _, _, _ => p }

/-- Writes of operation w: the loads with w's agent in their instance read again (R165, R166). -/
def State.freshen (s : State) (w : Op) (l : List (Nat × Nat)) : State := s.reread (fun p => s.within p.scope p w) l

/-- Writes of an agent of layer l that is no operation's: the layer's loads read again. -/
def State.freshenLayer (s : State) (l : Nat) (ps : List (Place × Nat)) : State :=
  s.reread (fun p => p.layer == l) (ps.map fun p => (s.key p.1, p.2))

/-- The earlier overlapping accesses of the same thread, and its earlier volatile accesses where this one is volatile
(R160, R168), which must be performed first. -/
def State.blockers (s : State) (i : Nat) (o : Op) : List (Nat × Op) :=
  s.ops.filter fun p =>
    decide (p.1 < i) && p.2.gang == o.gang && !p.2.captured && p.2.kind.isAccess && o.kind.isAccess && !p.2.visible
      && (((p.2.threads &&& o.threads) != 0 && s.overlap p.2 o)
          || (p.2.vol && o.vol && ((p.2.threads &&& o.threads) != 0 || p.2.inst == o.inst)))

/-! ### Storage errors and replayable faults -/

/-- A line whose content an uncorrectable error has lost (R451). -/
def State.poisonLine (s : State) (k : Nat) : State :=
  if s.poison.contains (k / 64) then s else { s with poison := (insert (s.poison.map (·, ())) (k / 64) ()).map (·.1) }

/-- A corrected error counts in RASCE (R451). -/
def State.countCorrected (s : State) (l : Nat) : State :=
  s.setLayer l { s.layer l with rasce := ((s.layer l).rasce + 1) % 2 ^ 32 }

/-- What a read of a barge or an engine meets beside its faults (R451). -/
def State.noteCorrected (s : State) (l : Nat) : State := if s.choice.err = .corrected then s.countCorrected l else s

/-- Accesses of the layer that wait on replayable faults (R422, R448). -/
def State.faultCount (s : State) (l : Nat) : Nat :=
  (s.ops.filter fun p => p.2.layer == l && p.2.waiting).length
    + ((s.gangs.filter fun p => s.layerOf p.1 == l).map (·.2.fetchWait.length)).sum + (s.layer l).waits.length

/-- The event of a replayable fault (R473). -/
def State.postFault (s : State) (l cause faddr : Nat) : State :=
  s.postLayer l { kind := 3, cause := cause, info := s.faultCount l, faddr := faddr }

/-- A replayable fault delays the fetch or the issue of a gang's run; it is reported once (R448). -/
def State.waitFault (s : State) (gid pc cause faddr : Nat) : State :=
  if (s.gang gid).fetchWait.any (·.1 == pc) then s
  else (s.modGang gid fun g => { g with fetchWait := g.fetchWait ++ [(pc, faddr)] }).postFault (s.layerOf gid) cause faddr

/-- A replayable fault delays an access the part makes for itself; it is reported once, and holds until REPLAY (R448). -/
def State.layerWait (s : State) (l cause faddr : Nat) : State :=
  if (s.layer l).waits.contains faddr then s
  else (s.setLayer l { s.layer l with waits := (s.layer l).waits ++ [faddr] }).postFault l cause faddr

/-- What a fault of the part's own access does: a replayable one waits, a fatal one does `fatal`. -/
def State.onFault (s : State) (l : Nat) (f : VaFault) (fatal : State → State) : State :=
  if f.replay then s.layerWait l f.cause f.addr else fatal s

/-- Reads and writes of the part's own (R429, R458), a write from stage-one router `k` or the FE die (R204). -/
def State.partRead (s : State) (l va n : Nat) : Except VaFault (List Byte) :=
  if s.stillWaits l va n then .error ⟨0x13, va, true⟩ else s.readVa l va n

def State.partWrite (s : State) (l va : Nat) (b : List Byte) (k : Option Nat := none) : Except VaFault State :=
  if s.stillWaits l va b.length then .error ⟨0x13, va, true⟩
  else (s.writeVa l va b).map fun t => match s.placesOf l .write va b.length with
    | .ok ps => (t.freshenLayer l ps).noteAccess l k .write va b.length
    | .error _ => t

/-! ### Spill writes still to be made -/

/-- The spill write of entry i is tried again: a replayable fault delays it, a fatal one leaves the entry and the nodes below
it undefined (R268). -/
def State.spillAgain (s : State) (c i : Nat) : State :=
  let l := (s.crew c).layer
  match s.partWrite l (s.spillAddr c i) ((s.crew c).entryBytes i) with
  | .ok t => t.modCaddy c (·.wrote i)
  | .error f => s.onFault l f fun s =>
      (((s.crew c).caddy.below (s.crew c).caddy.nodes.length i).foldl (fun t j => t.freeNode c j) s).modCaddy c (·.wrote i)

/-- Every spill write still to be made is tried. -/
def State.settleSpills (s : State) : State :=
  s.crews.foldl (fun t p => (t.crew p.1).caddy.unwritten.foldl (fun t i => t.spillAgain p.1 i) t) s

/-! ### Capture -/

/-- An operation that a trap entry, or a pre-emption, captures as it waits (R232, R251, R247, R369). -/
def Op.capturable (o : Op) (preempt : Bool) : Bool :=
  match o.kind with
  | .barw .. => true
  | .rawait .. => true
  | .qlk _ _ granted => granted.isNone
  | .barge .. => preempt
  | .point .. => preempt
  | _ => false

/-- The accumulator tile a matrix command acts on. -/
def MatCmd.tile (m : MatCmd) : Option Nat :=
  match m.kind with
  | .mma => some m.acc
  | .accz => some m.acc
  | .accrd => some m.acc
  | .accwr => some m.acc
  | _ => none

def MatCmd.usesTable (m : MatCmd) : Bool := m.ca || m.cb || m.cmp || m.kind == .ctbl

/-- Two commands of a gang start in the order received (R313, R331). That a CTBL also stays behind the commands before it that use the
table it replaces: DESIGN CHOICE (notes/assumptions/53.md). -/
def MatCmd.tied (m n : MatCmd) : Bool :=
  (m.tile.isSome && m.tile == n.tile) || ((m.kind == .ctbl || n.kind == .ctbl) && m.usesTable && n.usesTable)

/-- Operation p cannot go on before q: an edge, the order of its thread's accesses (R160) or of its instruction's lanes (R161), of the
gang's matrix commands (R313), or of the crew's weir commands (R348). -/
def State.waitsFor (s : State) (p q : Nat × Op) : Bool :=
  p.2.after.contains q.1
    || (q.2.gang == p.2.gang && q.2.inst == p.2.inst && q.1 != p.1 && s.overlap q.2 p.2)
    || ((s.blockers p.1 p.2).any (·.1 == q.1) && (!q.2.kind.isStore || p.2.vol || (match p.2.kind with | .load .. => false | _ => true)))
    || (decide (q.1 < p.1)
        && match p.2.kind, q.2.kind with
          | .matrix m, .matrix n => q.2.gang == p.2.gang && m.tied n
          | .weir (.wsig _) _, _ => false
          | _, .weir (.wsig _) _ => false
          | .weir .., .weir .. => q.2.crew == p.2.crew
          | _, _ => false)

/-- What waits, through others or not, on captured operations. -/
def State.withWaiting (s : State) (ops : List (Nat × Op)) : Nat → List (Nat × Op) → List (Nat × Op)
  | 0, acc => acc
  | n + 1, acc =>
    let more := ops.filter fun p => !(acc.any (·.1 == p.1)) && acc.any (s.waitsFor p)
    if more.isEmpty then acc else s.withWaiting ops n (acc ++ more)

/-- The operations of the gang that a capture takes: those, and those that wait on a captured one by their edges (R178), or in
another order that keeps them from ending (notes/assumptions/44.md). A pre-emption captures in all gangs of the crew at once. -/
def State.captureSet (s : State) (gid : Nat) (preempt : Bool) : List Nat :=
  let crew := (s.gang gid).crew
  let ops := s.ops.filter fun p => !p.2.captured && !p.2.buffered && !p.2.leaked && (p.2.gang == gid || (preempt && p.2.crew == crew))
  let first := (s.ops.filter fun p => p.2.captured && p.2.crew == crew) ++ ops.filter (·.2.capturable preempt)
  ((s.withWaiting ops ops.length first).filter fun p => p.2.gang == gid && !p.2.captured).map (·.1)

/-- Captured operations stand outside the counters; a global one translates again when it is counted again (R178, R397). -/
def State.capture (s : State) (ids : List Nat) : State :=
  ids.foldl (init := s) fun t i => t.modOp i fun o =>
    { o with captured := true, sent := none, escaped := [], early := none, place := match o.place with | some (.scratch c a) => some (.scratch c a) | _ => none
             kind := match o.kind with | .barge r _ => .barge r false | k => k }

/-- The captured operations of a gang are counted again (R232, R437). -/
def State.recount (s : State) (gid : Nat) : State :=
  { s with ops := s.ops.map fun p => if p.2.gang = gid then (p.1, { p.2 with captured := false }) else p }

/-- Everything of the gang has drained but what a capture takes (R178, R151). -/
def State.drained (s : State) (gid : Nat) (preempt : Bool) : Bool :=
  let cap := s.captureSet gid preempt
  ((s.outstanding gid).all fun p => cap.contains p.1) && (s.gang gid).sf.isEmpty

/-! ### Completion -/

/-- The destination of an operation receives its words: a live lane of a v register, or a g register while a thread it is
counted in lives (R92, R162). -/
def State.writeDest (s : State) (gid : Nat) (d : Dest) (f : Nat → Nat) : State :=
  if d.reg < 192 then (lanes (d.lanes &&& (s.gang gid).live)).foldl (fun t l => t.writeVs gid d.reg d.n l (f l)) s
  else if d.lanes &&& (s.gang gid).live = 0 then s
  else (List.range d.n).foldl
    (fun t i => t.modGang gid fun g => g.setG (d.reg - 192 + i) (f (lowest d.lanes) / 2 ^ (32 * i))) s

/-- An operation completes: its destination is written and its counters fall (R154, R155). -/
def State.complete (s : State) (i : Nat) (d : Option Dest) (x : Nat) : State :=
  match s.opAt i with
  | none => s
  | some o =>
    match d with
    | none => s.removeOp i
    | some d => (s.writeDest o.gang d fun _ => x).removeOp i

/-- The destination registers of an operation. -/
def OpKind.dests : OpKind → List Dest
  | .load _ _ _ d => d.toList
  | .atomic _ _ _ _ _ _ _ d _ => d.toList
  | .barr _ _ d => d.toList
  | .tkt _ d => [d]
  | .qlk _ d _ => [d]
  | .rawait _ _ _ d => [d]
  | .rchk _ d _ => [d]
  | .weir (.wtest d _) ls => [⟨d, 2, laneSet fun l => ls.any (·.lane == l)⟩]
  | .weir (.wskip v _ d) ls => [⟨d, if v = 2 then 2 else 1, laneSet fun l => ls.any (·.lane == l)⟩]
  | _ => []

/-- The masks a pending operation writes (R345). -/
def OpKind.maskDests : OpKind → List Nat
  | .weir (.wtest _ skm) _ => if skm = 15 then [] else [skm]
  | _ => []

/-- The register numbers of a span. -/
def spanOf (reg n : Nat) : List Nat := (List.range n).map (reg + ·)

/-- The registers pending operations and requests of the gang will write (R162, R149, R292, R345). The lanes of captured requests stay
parked in a handler (R303). -/
def State.pendingRegs (s : State) (gid : Nat) : List Nat :=
  ((s.outstanding gid).flatMap fun p => p.2.kind.dests.flatMap fun d => spanOf d.reg d.n)
    ++ ((s.gang gid).sf.map (·.d))
    ++ ((s.reqs.filter fun p => p.2.gang == gid).flatMap fun p => if p.2.cmp.isNone then [p.2.d] else [])

/-- The registers the operands of parked lanes stand in (R292). -/
def State.parkedRegs (s : State) (gid : Nat) : List Nat :=
  (s.reqs.filter fun p => p.2.gang == gid).flatMap fun p => p.2.eregs.flatMap fun e => spanOf (4 * e) 4

/-- The masks pending operations and parked lanes of the gang will write (R292, R345). -/
def State.pendingMasks (s : State) (gid : Nat) : List Nat :=
  ((s.outstanding gid).flatMap fun p => p.2.kind.maskDests)
    ++ ((s.reqs.filter fun p => p.2.gang == gid).flatMap fun p =>
          p.2.u :: (match p.2.cmp with | some (_, k) => [k] | none => []))

end Sys2Proof.Machine
end

