-- ==== Sys2Proof/Machine/Trap.lean ====
section
/-! DEFINITION. Taking a trap, the frame, killing a crew, failing an operation, and the return from a handler
(spec/06_streams.md R178, spec/17_system.md R427 to R440, R509). -/

namespace Sys2Proof.Machine

/-! ### Locks -/

/-- The lock passes to its first waiter, whose grant carries ABN (R230, R231). -/
def State.grantLock (s : State) (l x : Nat) : State :=
  let k := look (s.layer l).locks x {}
  match k.holder, k.fifo with
  | none, g :: rest =>
    let s := s.setLayer l { s.layer l with
      locks := put (s.layer l).locks x { holder := some g, fifo := rest, abn := false } {} }
    { s with ops := s.ops.map fun p =>
        if p.2.gang = g then
          match p.2.kind with
          | .qlk y d none => if y = x ∧ p.2.failed.isNone then (p.1, { p.2 with kind := .qlk y d (some (if k.abn then 1 else 0)) }) else p
          | _ => p
        else p }
  | _, _ => s

/-- The holder lets the lock go. -/
def State.freeLock (s : State) (l x : Nat) (abandon : Bool) : State :=
  let k := look (s.layer l).locks x {}
  (s.setLayer l { s.layer l with locks := put (s.layer l).locks x { k with holder := none, abn := k.abn || abandon } {} }).grantLock l x

/-- The gang leaves every FIFO, and the locks it holds are abandoned (R231). -/
def State.abandonLocks (s : State) (gid : Nat) : State :=
  let l := s.layerOf gid
  let s := s.setLayer l { s.layer l with locks := (s.layer l).locks.map fun p => (p.1, { p.2 with fifo := p.2.fifo.filter (· != gid) }) }
  ((s.layer l).locks.filter fun p => p.2.holder == some gid).foldl (fun t p => t.freeLock l p.1 true) s

/-! ### Killing a crew -/

/-- A request is discarded, and the references it holds are released (R269). -/
def State.dropReq (s : State) (i : Nat) : State :=
  match find s.reqs i with
  | none => s
  | some r =>
    r.operands.foldl (fun t o => match o with | .node n => t.release r.crew n | .bare .. => t) { s with reqs := erase s.reqs i }

/-- The requests of a gang are discarded. -/
def State.dropReqs (s : State) (gid : Nat) : State :=
  ((s.reqs.filter fun p => p.2.gang == gid).map (·.1)).foldl State.dropReq s

/-- Kills a crew and reports a launch error (R438, R462). Captured operations other than the waits R438 names are counted
again: a store that has issued is never withdrawn (R193). A QUL still outstanding frees its lock when its edges are satisfied,
whoever holds it then (notes/assumptions/43.md). -/
def State.killCrew (s : State) (c cause faddr : Nat) : State :=
  let cr := s.crew c
  let s := s.launchError cr.launch cause faddr cr.ctx
  let s := { s with ops := (s.ops.filter fun (p : Nat × Op) => !(p.2.crew == c && p.2.capturable false)).map fun (p : Nat × Op) =>
    if p.2.crew = c then (p.1, { p.2 with captured := false }) else p }
  let s := cr.gangs.foldl (init := s) fun t gid =>
    ((t.dropReqs gid).abandonLocks gid).modGang gid fun g =>
      { g.exit g.live with pend := none, handler := none, level := 0, undecided := [], spillFault := [], heldUndecided := [], heldSpill := [], offer := none, sf := g.sf }
  s.modCrew c fun cr => { cr with claims := [] }

/-! ### Frames -/

/-- Thread states (R434). -/
def Wait.code : Wait → Nat
  | .none => 0
  | .parked => 1
  | .waitm k => 16 * k + 2
  | .sleep _ => 3
  | .claim => 4
  | .tktw .. => 5
  | .slotw _ => 6
  | .cyield => 7
  | .qlk _ => 8

def Gang.stateCode (g : Gang) (l : Nat) : Nat := if hasLane g.live l then (g.thread l).wait.code else 0x0F

/-- The program counter the frame names for lane l (R433). -/
def Gang.framePc (g : Gang) (l : Nat) : Nat := if hasLane g.live l then (g.thread l).pc else 0

/-- The bytes of a trap frame (R433). -/
def Gang.frameBytes (g : Gang) (t : Trap) (dbg : Bool := false) : List Byte :=
  let ls := List.range 32
  let flags := (if t.fpc.isSome then 1 else 0) + (if t.rpt.isSome then 2 else 0) + (if dbg then 4 else 0)
  toBytes t.cause 1 ++ toBytes g.level 1 ++ toBytes flags 1 ++ toBytes t.flane 1 ++ toBytes t.pfx 4 ++ toBytes t.faddr 8
    ++ toBytes (t.fpc.getD 0) 8 ++ toBytes t.lanes.toNat 4
    ++ toBytes (laneSet fun l => hasLane g.live l && (g.thread l).wait == .parked).toNat 4
    ++ (List.range 12).flatMap (fun k => toBytes (g.mask k).toNat 4)
    ++ toBytes t.insn 4 ++ toBytes t.dcause 1 ++ toBytes t.dlane 1 ++ toBytes 0 2 ++ toBytes t.dfaddr 8
    ++ toBytes (t.rpt.getD 0) 32
    ++ ls.flatMap (fun l => toBytes (g.framePc l) 8)
    ++ t.counters.map (BitVec.ofNat 8 ·)
    ++ ls.map (fun l => (g.thread l).sfv)
    ++ ls.map (fun l => BitVec.ofNat 8 (g.stateCode l))
    ++ [28, 29, 30, 31].flatMap (fun n => toBytes (g.greg n) 4)
    ++ toBytes 0 304

/-- The frame slot of a gang (R430). -/
def State.frameAddr (s : State) (gid : Nat) : Nat := (s.crew (s.gang gid).crew).ctx + 0x1000 + 0x400 * (s.gang gid).ix

/-- The counters of the gang's live threads, lane by lane (R178, R432). -/
def State.counterList (s : State) (gid : Nat) : List Nat :=
  (List.range 32).flatMap fun l => (List.range 8).map fun k => if hasLane (s.gang gid).live l then s.counter gid l k else 0

/-- The handler a trap of the gang goes to: its entry, and whether it is the task handler (R431). A THAND with bits [63:57] or [1:0] set
is taken as a program counter of a frame is: DESIGN CHOICE (notes/assumptions/48.md). -/
def State.handlerOf (s : State) (gid : Nat) : Except VaFault (Nat × Bool) :=
  let cr := s.crew (s.gang gid).crew
  let kvec := (s.layer cr.layer).kvec
  if (s.gang gid).task.isSome then
    match s.partRead cr.layer (s.launch cr.launch).desc.ctx 8 with
    | .error f => .error f
    | .ok b => if ofBytes b % 2 ^ 57 ≠ 0 then .ok (ofBytes b % 2 ^ 57, true) else .ok (kvec, false)
  else .ok (kvec, false)

/-- Every live thread that is not parked enters the handler as one run (R432). -/
def Gang.enter (g : Gang) (t : Trap) (frame entry : Nat) (task : Bool) : Gang :=
  let waits := (List.range 32).map fun l => (g.thread l).wait
  let g := { g with
    threads := g.threads.mapIdx fun l (th : Thread) =>
      if hasLane g.live l && th.wait != Wait.parked then { th with pc := entry, count := 0, wait := .none, waity := none } else th
    level := if task then 1 else 2
    pend := none
    undecided := [], spillFault := [], heldUndecided := g.undecided, heldSpill := g.spillFault
    handler := some { frame := frame, task := task, trap := t, resolved := [], waits := waits } }
  (((g.setG 28 frame).setG 29 (frame / 2 ^ 32)).setG 30 t.cause).setG 31 t.lanes.toNat

/-- The gang is where it can take a trap: on its core (R178, R441), and, for the trap of a failure, not halted (R454). -/
def State.onCore (s : State) (gid : Nat) (issue : Bool) : Bool :=
  let c := s.crew (s.gang gid).crew
  s.seated gid && (s.convoy c.convoy).status != .preempting && (issue || !(s.gang gid).halted c.hm)

/-- A trap of the kind undecided names every lane whose request has ended undecided by the entry (R300). -/
def Gang.gather (g : Gang) : Gang :=
  match g.pend with
  | some t =>
    if t.cause = 0x2C then
      let named := laneSet fun k => g.undecided.any (·.1 == k)
      { g.modLanes named fun t => { t with wait := .none } with
        pend := some { t with lanes := t.lanes ||| named, past := t.past ++ g.undecided.map fun p => (p.1, p.2.2.1) }, undecided := [] }
    else g
  | none => g

/-- A trap's entry begins: the counters are recorded as they stand (R178, R432). -/
def State.record (s : State) (gid : Nat) : State :=
  s.modGang gid fun g => { g with pend := g.pend.map fun t => if t.counters.isEmpty then { t with counters := s.counterList gid } else t }

/-- Trap entry once the gang has drained (R432): captures, writes the frame and enters the handler; a trap raised in a handler
is a double trap (R439). A gang that is not on its core takes it once it is back (R441), a halted gang the trap of a failure once it issues
again (R454). A replayable fault on a context access delays the entry; a fatal one ends as R429 and R439 say. -/
def State.enterTrap (s : State) (gid : Nat) : State :=
  match (s.gang gid).pend with
  | none => s
  | some t =>
    if !s.onCore gid t.issue then s
    else
      let s := s.record gid
      if 1 ≤ (s.gang gid).level then s.killCrew (s.gang gid).crew t.cause t.faddr
      else if !s.drained gid false then s
      else
      let s := s.modGang gid Gang.gather
      let g := s.gang gid
      let cr := s.crew g.crew
      let t := g.pend.getD t
      match s.handlerOf gid with
      | .error f => s.onFault cr.layer f fun s => s.killCrew g.crew f.cause f.addr
      | .ok (entry, task) =>
        if entry = 0 then s.killCrew g.crew t.cause t.faddr
        else match s.partWrite cr.layer (s.frameAddr gid) (g.frameBytes t) (some (s.clusterRouter g.crew)) with
        | .error f => s.onFault cr.layer f fun s => s.killCrew g.crew f.cause f.addr
        | .ok u =>
          let u := u.capture (u.captureSet gid false)
          let u := { u with reqs := u.reqs.map fun (p : Nat × RefReq) => if p.2.gang = gid then (p.1, { p.2 with captured := true, served := false, due := false, alone := none }) else p }
          if g.live = 0 then u.modGang gid fun g => { g with pend := none }
          else u.modGang gid fun g => g.enter t (s.frameAddr gid) entry task

/-- A trap of a gang: its entry, at once where nothing is left to drain. -/
def State.raise (s : State) (gid : Nat) (t : Trap) : State :=
  (s.modGang gid fun g => { g with pend := some t, offer := none }).enterTrap gid

/-- A trap at issue (R433): the run, the words and the address of the instruction. -/
def State.trapAt (s : State) (i : Issue) (len cause faddr lane : Nat) : State :=
  s.raise i.gang
    { cause := cause, faddr := faddr, flane := lane, lanes := i.run, pfx := i.pfx, insn := i.insn, fpc := none, rpt := none
      dcause := 0, dlane := 255, dfaddr := 0, counters := s.counterList i.gang, at_ := i.pc, len := len, issue := true }

/-- Every thread of every gang of a crew has exited. -/
def State.crewExited (s : State) (c : Nat) : Bool := (s.crew c).gangs.all fun g => (s.gang g).live == 0

/-- An operation fails (R178, R92, R509): it leaves its counters, sets its stream's bit, writes no register, and its gang
traps at the next boundary. The frame tells of the failure that started the entry, with its instruction's prefix word (R433,
notes/assumptions/15.md). -/
def State.fail (s : State) (i cause faddr lane : Nat) (rpt : Option Nat) : State :=
  match s.opAt i with
  | none => s
  | some o =>
    let s := s.removeOp i
    let faddr := faddr % 2 ^ 64
    -- A QLK that fails leaves its counter as if completed: its sleepers move on (R178, R230).
    let s := match o.kind with
      | .qlk .. => s.modGang o.gang fun g => g.modLanes o.threads fun t =>
          match t.wait with | .qlk _ => { t with wait := .none, pc := o.pc + 4 } | _ => t
      | _ => s
    if (find s.crews o.crew).isNone then s
    else if s.crewExited o.crew then s.launchError (s.crew o.crew).launch cause faddr (s.crew o.crew).ctx
    else
      let s := s.modGang o.gang fun g => g.modLanes (o.threads &&& g.live) fun t => { t with sfv := t.sfv ||| BitVec.ofNat 8 (2 ^ o.strm) }
      match (s.gang o.gang).pend with
      | some t =>
        let t' :=
          if !t.issue then t
          else if t.dcause = 0 then { t with dcause := cause, dlane := lane, dfaddr := faddr, fpc := some o.pc, rpt := rpt }
          else t
        (s.modGang o.gang fun g => { g with pend := some t' }).enterTrap o.gang
      | none =>
        s.raise o.gang
          { cause := cause, faddr := faddr, flane := lane, lanes := o.threads, pfx := o.pfx, insn := 0, fpc := some o.pc, rpt := rpt
            dcause := 0, dlane := 255, dfaddr := 0, counters := [], at_ := o.pc, len := 0, issue := false }

/-- An operation completes, and a trap that waited for it is entered. -/
def State.finish (s : State) (i : Nat) (d : Option Dest) (x : Nat) : State :=
  match s.opAt i with
  | none => s
  | some o => (s.complete i d x).enterTrap o.gang

/-- What ERET and TDONE take from the frame (R435 to R437): program counters, masks, GSAVE. -/
structure FrameRead where
  pcs : List Nat
  masks : List Nat
  gsave : List Nat
  states : List Nat

/-- The frame of a gang, read (R435, R437). What a program counter there with bits [63:57] or [1:0] set comes to no rule says: DESIGN CHOICE
(notes/assumptions/48.md), it is taken modulo 2^57, and a fetch reads the four bytes at that address. -/
def State.readFrame (s : State) (gid frame : Nat) : Except VaFault FrameRead :=
  match s.readVa (s.layerOf gid) frame 1024 with
  | .error f => .error f
  | .ok b =>
    .ok { pcs := (List.range 32).map fun l => ofBytes ((b.drop (128 + 8 * l)).take 8) % 2 ^ 57
          masks := (List.range 12).map fun k => ofBytes ((b.drop (32 + 4 * k)).take 4)
          gsave := (List.range 4).map fun k => ofBytes ((b.drop (704 + 4 * k)).take 4)
          states := (List.range 32).map fun l => ((b.drop (672 + l)).headD 0).toNat }

/-- The wait a thread takes up again (R434): where software wrote 00h it runs; a sleep ends. A STATE byte changed to anything
else, which R435 leaves to R4, is ignored: the wait recorded at entry is taken up (notes/assumptions/45.md). -/
def reenter (state : Nat) (w : Wait) : Wait :=
  if state = 0 then .none else match w with | .sleep _ => .none | x => x

/-- The gang leaves its handler with what the frame holds (R437). Threads that exited stay exited. The frame's LEVEL is 0:
a trap at another level enters no handler (R439); a LEVEL changed there, which R435 leaves to R4, is ignored
(notes/assumptions/45.md). -/
def Gang.leave (g : Gang) (f : FrameRead) (waits : List Wait) : Gang :=
  let g := { g with
    threads := g.threads.mapIdx fun l (th : Thread) =>
      if hasLane g.live l then
        { th with pc := f.pcs.getD l 0, sfv := 0
                  wait := reenter (f.states.getD l 0) (if th.wait = Wait.parked then Wait.parked else waits.getD l .none) }
      else th
    level := 0
    handler := none
    undecided := g.heldUndecided ++ g.undecided, spillFault := g.heldSpill ++ g.spillFault, heldUndecided := [], heldSpill := [] }
  let g := (List.range 12).foldl (fun g k => if k = 0 then g else g.setMask k (BitVec.ofNat 32 (f.masks.getD k 0))) g
  let g := (List.range 4).foldl (fun g k => g.setG (28 + k) (f.gsave.getD k 0)) g
  g.releaseAll

/-- Captured operations are counted again, and captured requests posted again where their lane is still parked; a request
whose lane software has set running is discarded. -/
def State.unwind (s : State) (gid : Nat) : State :=
  let s := s.recount gid
  ((s.reqs.filter fun p => p.2.gang == gid && p.2.captured).map fun p => (p.1, p.2.lane)).foldl (init := s) fun t p =>
    if ((t.gang gid).thread p.2).wait == Wait.parked then t.repost p.1 else t.dropReq p.1

end Sys2Proof.Machine
end

