-- ==== Sys2Proof/Machine/Address.lean ====
section
/-! DEFINITION. Effective addresses and their checks (spec/07_access.md R185, R186, R189). -/

namespace Sys2Proof.Machine

/-- The bytes of a partition: SCRATCH × 2048. -/
def State.partition (s : State) (crew : Nat) : Nat := (s.launch (s.crew crew).launch).desc.scratch * 2048

/-- The crew a peer address names (R186); none where Table 1 refuses it. -/
def State.peerCrew (s : State) (crew a : Nat) : Option Nat :=
  let cr := s.crew crew
  let ix := bits a 29 24
  if bits a 31 30 ≠ 0 then none
  else if cr.task then (if ix = 0 then some crew else none)
  else (s.convoy cr.convoy).crews[ix]?

/-- An address with a scaled offset, exact (R185). -/
def withOff (base : Nat) (o : Ord) (size : Nat) : Int := (base : Int) + o.off.toInt * size

/-- The checks of R189 on a global address: the cause and the fault address. -/
def checkGlobal (ea : Int) (size : Nat) : Option (Nat × Nat) :=
  if ea < 0 ∨ (2 ^ 57 : Int) < ea + size then some (0x10, trunc ea 64)
  else if ea % size ≠ 0 then some (0x12, trunc ea 64) else none

/-- The checks of R189 on an offset into a partition of `limit` bytes. -/
def checkScratch (ea : Int) (size limit : Nat) : Option (Nat × Nat) :=
  if ea < 0 ∨ (limit : Int) < ea + size then some (0x11, trunc ea 64)
  else if ea % size ≠ 0 then some (0x12, trunc ea 64) else none

/-- A lane's access: its address, the crew of its partition (none: global), and what its checks find. The space is
0 global, 1 the crew's partition, 2 a peer's. The fault address of a peer address that Table 1 refuses is that address
(R428 Table 4). -/
structure LaneAddr where
  ea : Int
  crew : Option Nat
  bad : Option (Nat × Nat)

def State.laneAddr (s : State) (crew space base : Nat) (o : Ord) (size : Nat) : LaneAddr :=
  match space with
  | 0 => let ea := withOff base o size; { ea := ea, crew := none, bad := checkGlobal ea size }
  | 1 =>
    let ea := withOff base o size
    { ea := ea, crew := some crew, bad := checkScratch ea size (s.partition crew) }
  | _ =>
    let ea := withOff (bits base 23 0) o size
    match s.peerCrew crew base with
    | none => { ea := ea, crew := none, bad := some (0x11, base % 2 ^ 32) }
    | some c => { ea := ea, crew := some c, bad := checkScratch ea size (s.partition c) }

/-- The place of a checked address in a partition. -/
def LaneAddr.place (a : LaneAddr) : Option Place := a.crew.map fun c => .scratch c a.ea.toNat

end Sys2Proof.Machine
end

