-- ==== Sys2Proof/Machine/Records.lean ====
section
/-! DEFINITION. Tags, barge records, ring descriptors and IOREQ records: their layouts and the checks made of them at
issue (spec/09_barges.md R238 to R257). -/

namespace Sys2Proof.Machine

/-! ### Copy tags -/

/-- Copy tags of the crew's block (R21, R61, R377). -/
def State.tagCount (s : State) (c : Nat) : Nat := 8 * (s.launch (s.crew c).launch).desc.tags

def Crew.tag (c : Crew) (i : Nat) : Tag := look c.tags i .clear
def State.setTag (s : State) (crew i : Nat) (t : Tag) : State := s.modCrew crew fun c => { c with tags := put c.tags i t .clear }

/-- The tags of a mask. -/
def tagsOf (m : Nat) : List Nat := (List.range 64).filter (tbit m ·)

/-- The mask names a tag the crew does not hold (R239). -/
def Ctx.tagMaskBad (c : Ctx) (m : Nat) : Bool := m / 2 ^ c.pre.tagCount c.crewId != 0

/-- TAGW's condition (R240). -/
def Crew.tagsMet (c : Crew) (m : Nat) (any : Bool) : Bool :=
  if any then m == 0 || (tagsOf m).any fun i => c.tag i == .ready else (tagsOf m).all fun i => c.tag i == .ready

/-! ### Rings -/

/-- A ring descriptor as a 512-bit number (R248). -/
def State.ring (s : State) (crew off : Nat) : Nat := ofBytes (s.readAt (.scratch crew off) 64)

def ringBase (r : Nat) : Nat := bits r 31 0
def ringSlot (r : Nat) : Nat := bits r 43 32 * 16
def ringN (r : Nat) : Nat := bits r 55 48 + 1
def ringProd (r : Nat) : Nat := bits r 95 64
def ringRes (r : Nat) : Nat := bits r 127 96
def ringWr (r : Nat) : Nat := bits r 159 128
def ringCons (r : Nat) : Nat := bits r 191 160
def ringRd (r : Nat) : Nat := bits r 223 192

/-- A counter of the descriptor at byte b written. -/
def State.setRing (s : State) (crew off b v : Nat) : State := s.writeAt (.scratch crew (off + b)) (toBytes v 4)

/-- The slot of index n. -/
def ringSlotAddr (r n : Nat) : Nat := (ringBase r + n % ringN r * ringSlot r) % 2 ^ 32

/-- The fates of Table 4, and slots inside a partition of `limit` bytes (R249). -/
def ringFormOk (r limit : Nat) : Bool :=
  bits r 511 224 == 0 && bits r 63 56 == 0 && bits r 55 48 != 0 && bits r 47 44 == 0 && ringSlot r != 0
    && ringBase r % 16 == 0 && decide (ringBase r + ringN r * ringSlot r ≤ limit)

/-- The operand of a WAITY, as its register stands (R252). -/
def AtWaity.arg (w : AtWaity) (g : Gang) : Nat := g.regs w.reg (if w.mode ≤ 1 then 2 else 1) w.lane

/-- The descriptors the crew's ring unit watches (R249): those of its operations that the unit has not refused, of its advances and
WAITYs. -/
def State.watched (s : State) (crew : Nat) : List Nat :=
  ((s.ops.filterMap fun p =>
      if p.2.crew = crew ∧ p.2.failed.isNone then
        match p.2.kind with
        | .rawait r .. => some r
        | .rarel r => some r
        | .rapub r _ => some r
        | .barge b _ => b.ring
        | _ => none
      else none)
    ++ (s.crew crew).advances.map (·.ring)
    ++ ((s.crew crew).gangs.flatMap fun g => (s.gang g).threads.filterMap fun t =>
          match t.waity with | some w => if 2 ≤ w.mode then some (w.arg (s.gang g)) else none | none => none)).eraseDups

/-- A descriptor the ring unit takes (R249). -/
def State.ringOk (s : State) (crew off : Nat) : Bool :=
  ringFormOk (s.ring crew off) (s.partition crew) && ((s.watched crew).contains off || decide ((s.watched crew).length < 16))

/-- a − b modulo 2^32. -/
def diff32 (a b : Nat) : Nat := (a + 2 ^ 32 - b) % 2 ^ 32

/-- RAWAIT's condition for index n (R250). -/
def ringPassed (r n : Nat) (free : Bool) : Bool :=
  let d := if free then diff32 ((ringRd r + ringN r) % 2 ^ 32) n else diff32 (ringWr r) n
  decide (1 ≤ d) && decide (d < 2 ^ 31)

/-- WAITY's ring conditions (R252). -/
def State.ringWaitMet (s : State) (crew off : Nat) (free : Bool) : Bool :=
  let r := s.ring crew off
  if free then decide (diff32 (ringProd r) (ringRd r) < ringN r)
  else decide (1 ≤ diff32 (ringWr r) (ringCons r)) && decide (diff32 (ringWr r) (ringCons r) < 2 ^ 31)

/-- A WAITY ring form is refused at issue (R238, R249). -/
def Ctx.ringRefused (c : Ctx) (s : State) (off : Nat) : Bool :=
  (checkScratch off 64 (s.partition c.crewId)).isSome || off % 64 != 0 || !s.ringOk c.crewId off

/-! ### Records read at issue -/

/-- An outstanding store or atomic of one thread that overlaps a record of the crew's partition (R160, R244). -/
def State.ownStoreOver (s : State) (gid crew lane off n : Nat) : Bool :=
  (s.outstanding gid).any fun p =>
    hasLane p.2.threads lane && !p.2.visible
      && (match p.2.kind, p.2.place with
          | .store _ data, some (.scratch c o) => c == crew && decide (o < off + n) && decide (off < o + data.length)
          | .atomic _ size .., some (.scratch c o) => c == crew && decide (o < off + n) && decide (off < o + size)
          | _, _ => false)

/-- The record operand: the crew's own partition, checked for `size` bytes and aligned to the scale (R238). -/
def Ctx.recordAddr (c : Ctx) (s : State) (k l : Nat) (o : Ord) (scale size : Nat) : Int × Option (Nat × Nat) :=
  let ea := withOff (c.val k l) o scale
  (ea, if ea < 0 ∨ (s.partition c.crewId : Int) < ea + size then some (0x11, trunc ea 64)
       else if ea % scale ≠ 0 then some (0x12, trunc ea 64) else none)

/-! ### Barge records -/

/-- Level k of a barge record (R242). -/
def bargeLevel (r k : Nat) (hi lo : Nat) : Nat := bits r (96 * k + hi) (96 * k + lo)

/-- A barge record from its 768 bits; none where a fate of Table 2 breaks (R242), the ring's and the tag's block apart. -/
def parseBarge (r reca limit : Nat) : Option BargeRec :=
  let levels := bits r 134 132
  let lv := List.range levels
  let counts := lv.map fun k => bargeLevel r k 207 192
  let starts := lv.map fun k => bargeLevel r k 223 208
  let rv := tbit r 139; let nt := tbit r 138
  let ringa := bits r 183 160
  let ok := bits r 767 672 == 0 && bits r 191 184 == 0 && bits r 159 150 == 0 && bits r 143 140 == 0 && !tbit r 135 && !tbit r 131
    && bits r 127 124 == 0 && bits r 63 60 == 0 && decide (1 ≤ levels) && decide (levels ≤ 5) && decide (bits r 130 128 ≤ 4)
    && bits r 137 136 != 3 && decide (bits r 123 121 ≤ 2) && decide (bits r 59 57 ≤ 2)
    && (!nt || bits r 149 144 == 0) && counts.all (· != 0) && (counts.zip starts).all (fun p => decide (p.2 < p.1))
    && (bits r 123 121 == 0 || bits r 120 96 == 0) && (bits r 59 57 == 0 || bits r 56 32 == 0)
    && (!rv || (ringa % 64 == 0 && decide (ringa + 64 ≤ limit)))
  if ok then
    some { reca := reca, saddr := bits r 56 0, ssp := bits r 59 57, daddr := bits r 120 64, dsp := bits r 123 121
           esz := bits r 130 128, levels := levels, tr := bits r 137 136
           tag := if nt then none else some (bits r 149 144), tagField := bits r 149 144
           ring := if rv then some ringa else none, counts := counts, starts := starts
           sstr := lv.map fun k => sext (bargeLevel r k 255 224) 32, dstr := lv.map fun k => sext (bargeLevel r k 287 256) 32 }
  else none

/-- The least and the greatest of base + Σ ik × stride over the iteration space. -/
def spanRange (base : Nat) (counts : List Nat) (strides : List Int) : Int × Int :=
  (counts.zip strides).foldl (init := ((base : Int), (base : Int))) fun (acc : Int × Int) p =>
    let d := ((p.1 - 1 : Nat) : Int) * p.2
    if d < 0 then (acc.1 + d, acc.2) else (acc.1, acc.2 + d)

/-- An endpoint of a scratchpad or peer space stays in its target partition (R244). -/
def State.bargeEndOk (s : State) (crew sp addr : Nat) (counts : List Nat) (strides : List Int) (n : Nat) : Bool :=
  match sp with
  | 0 => true
  | 1 =>
    let r := spanRange addr counts strides
    decide (0 ≤ r.1) && decide (r.2 + n ≤ (s.partition crew : Int))
  | _ =>
    let r := spanRange (bits addr 23 0) counts strides
    match s.peerCrew crew addr with
    | none => false
    | some c => decide (0 ≤ r.1) && decide (r.2 + n ≤ (s.partition c : Int))


/-- The checks BARGE makes of its record (R244). -/
def State.bargeOk (s : State) (crew : Nat) (b : BargeRec) : Bool :=
  let e := 2 ^ b.esz
  let part (sp a : Nat) := if sp = 2 then bits a 23 0 else a
  part b.ssp b.saddr % e == 0 && part b.dsp b.daddr % e == 0 && b.sstr.all (· % (e : Int) == 0) && b.dstr.all (· % (e : Int) == 0)
    && (b.tr == 0 || (((b.esz == 3 && b.tr == 1) || (b.esz == 4 && b.tr == 2)) && decide (2 ≤ b.levels) && b.counts.getD 1 0 % 8 == 0))
    && s.bargeEndOk crew b.ssp b.saddr b.counts b.sstr e && s.bargeEndOk crew b.dsp b.daddr b.counts b.dstr e
    && (match b.ring with | none => true | some r => s.ringOk crew r)

/-- What BARGE finds at issue: its record, or its trap (R238, R244). -/
def Ctx.bargeCheck (c : Ctx) (s : State) (o : Ord) : Except (Nat × Nat) BargeRec :=
  match c.recordAddr s 0 c.lane0 o 32 96 with
  | (_, some f) => .error f
  | (ea, none) =>
    let off := ea.toNat
    match parseBarge (ofBytes (s.readAt (.scratch c.crewId off) 96)) off (s.partition c.crewId) with
    | none => .error (0x21, off)
    | some b =>
      if !s.bargeOk c.crewId b then .error (0x21, off)
      else match b.tag with
        | some t => if s.tagCount c.crewId ≤ t then .error (0x03, 0) else .ok b
        | none => .ok b

/-- Barges of the crew's core that have not ended (R244). -/
def State.coreBarges (s : State) (crew : Nat) : Nat :=
  let cr := s.crew crew
  (s.ops.filter fun p =>
    let o := s.crew p.2.crew
    o.layer == cr.layer && o.cluster == cr.cluster && o.core == cr.core && !p.2.captured
      && (match p.2.kind with | .barge .. => true | _ => false)).length

def State.bargeStalls (s : State) (c : Ctx) (o : Ord) : Bool :=
  match c.recordAddr s 0 c.lane0 o 32 96 with
  | (_, some _) => false
  | (ea, none) =>
    s.ownStoreOver c.gid c.crewId c.lane0 ea.toNat 96
      || (match c.bargeCheck s o with
          | .error _ => false
          | .ok b => (match b.tag with | some t => (s.crew c.crewId).tag t == .pending | none => false)
              || decide (16 ≤ s.coreBarges c.crewId))

/-! ### IOREQ records -/

/-- An IOREQ record from its 256 bits (R255). -/
def parseIo (r lane : Nat) : Option IoRec :=
  let kind := bits r 97 96; let len := bits r 95 64
  if bits r 255 224 == 0 && (kind == 1 || (kind == 0 && bits r 223 192 == 0)) && bits r 103 98 == 0
      && decide (1 ≤ len) && decide (len ≤ 1048576) && bits r 63 57 == 0 then
    some { lane := lane, rkey := bits r 223 192, remote := bits r 191 128, cookie := bits r 127 112, tgt := bits r 111 104
           kind := kind, len := len, daddr := bits r 56 0 }
  else none

/-- A lane's record as its bits. -/
def Ctx.ioRecord (c : Ctx) (s : State) (o : Ord) (l : Nat) : Option IoRec :=
  parseIo (ofBytes (s.readAt (.scratch c.crewId (c.recordAddr s 0 l o 32 32).1.toNat) 32)) l

def Ctx.ioAddrBad (c : Ctx) (s : State) (o : Ord) : Option (Nat × Nat) :=
  firstSome (fun l => (c.recordAddr s 0 l o 32 32).2) (lanes c.act)

/-- Some lane's record breaks Table 5. -/
def Ctx.ioBad (c : Ctx) (s : State) (o : Ord) : Bool := (lanes c.act).any fun l => (c.ioRecord s o l).isNone

def State.ioreqStalls (s : State) (c : Ctx) (o : Ord) : Bool :=
  if (c.ioAddrBad s o).isSome then false
  else ((lanes c.act).any fun l => s.ownStoreOver c.gid c.crewId l (c.recordAddr s 0 l o 32 32).1.toNat 32)
    || (!c.ioBad s o && decide (s.qRoom c.gid 25 < popcount c.act))

end Sys2Proof.Machine
end

