-- ==== Sys2Proof/Machine/PointRec.lean ====
section
/-! DEFINITION. Point records and the checks made of them at issue (spec/14_points.md R354 to R359). -/

namespace Sys2Proof.Machine

/-- List descriptor n of a point record (R354 Table 1). -/
def ptList (r n : Nat) : PtList :=
  { addr := bits r (128 * n + 56) (128 * n), sp := bits r (128 * n + 59) (128 * n + 57), count := bits r (128 * n + 95) (128 * n + 64)
    stride := bits r (128 * n + 111) (128 * n + 96) }

/-- The fates of Table 1; `tile` lists have COUNT and STRIDE ignored. -/
def ptListOk (r n : Nat) (tile : Bool) : Bool :=
  let l := ptList r n
  bits r (128 * n + 127) (128 * n + 112) == 0 && bits r (128 * n + 63) (128 * n + 60) == 0 && decide (l.sp ≤ 1)
    && (l.sp == 0 || decide (l.addr < 2 ^ 32)) && (tile || (l.stride != 0 && decide (l.count ≤ 2 ^ 24)))

/-- What a record's lists must satisfy: the list, its alignment, its least STRIDE, how many elements and how many bytes of
the last one must lie in the partition (notes/assumptions/14.md). -/
structure PtUse where
  n : Nat
  align : Nat
  stride : Nat
  count : Nat
  last : Nat
  tile : Bool := false

/-- Bits set among the 27 offsets (R359). -/
def offsetCount (mask : Nat) : Nat := ((List.range 27).filter (tbit mask ·)).length

def isPow2 (n : Nat) : Bool := n != 0 && 2 ^ Nat.log2 n == n

/-- A value of RMAX2 or R2: not a NaN and not below −0 (R359). -/
def radiusOk (x : Nat) : Bool :=
  match unpack .f32 false x with
  | .nan .. => false
  | .inf s => !s
  | .fin s m _ => !s || m == 0

/-- The lists an instruction uses, and the rest of its Table 5 row (R359). -/
def ptUses (k : PtKind) (r : Nat) : List PtUse × Bool :=
  let l (n : Nat) := ptList r n
  let p (n : Nat) := bits r (32 * n + 799) (32 * n + 768)
  let i1 := bits r 959 944
  let i0 := bits r 927 896
  let sites (n : Nat) (count : Nat) : PtUse := ⟨n, 2, 6, count, 6, false⟩
  let table (n : Nat) : PtUse := ⟨n, 16, 16, (l n).count, 16, false⟩
  let tableOk (n least : Nat) : Bool := (l n).stride == 16 && isPow2 (l n).count && decide (least < (l n).count)
  let summary : PtUse := ⟨5, 16, 1, Nat.max 1 (l 5).count, 16, false⟩
  let book (last : Nat) : PtUse := ⟨4, 4, 4 + 8 * (l 0).count, 27, last, false⟩
  let nin := (l 0).count
  match k with
  | .nbrk =>
    ([⟨0, 4, 12, nin, 12, false⟩, ⟨1, 4, 12, (l 1).count, 12, false⟩, ⟨2, 4, 8 * p 0, Nat.max (l 2).count (l 1).count, 8 * p 0, false⟩],
      decide (1 ≤ p 0) && decide (p 0 ≤ 32) && radiusOk (p 1) && i1 == 0 && decide (i0 ≤ (l 1).count))
  | .nbrr =>
    ([⟨0, 4, 12, nin, 12, false⟩, ⟨1, 4, 12, (l 1).count, 12, false⟩,
      ⟨2, 4, 4 + 8 * p 0, Nat.max (l 2).count (l 1).count, 4 + 8 * p 0, false⟩],
      decide (1 ≤ p 0) && decide (p 0 ≤ 65535) && radiusOk (p 1) && i1 == 0 && decide (i0 ≤ (l 1).count))
  | .siteh =>
    ([sites 0 nin, table 1, summary], tableOk 1 nin && decide (i1 ≤ 1) && decide (i0 ≤ if i1 = 0 then (l 1).count else nin))
  | .rule sub =>
    let n := nin * offsetCount (p 0)
    let par := p 0 != 0 && decide (p 0 < 2 ^ 27) && decide (1 ≤ p 1) && decide (p 1 ≤ 255) && decide (i1 ≤ 1) && (l 4).count == 27
    if sub then
      ([sites 0 nin, table 1, book (4 + 8 * nin), summary], par && tableOk 1 nin && decide (i0 ≤ if i1 = 0 then 27 else nin))
    else
      ([sites 0 nin, table 1, sites 2 (l 2).count, table 3, book (4 + 8 * nin), summary],
        par && tableOk 1 nin && tableOk 3 n && decide (n ≤ (l 2).count)
          && decide (i0 ≤ if i1 = 0 then Nat.max (l 3).count 27 else nin))
  | .pgat f32 =>
    let esz := if f32 then 4 else 2
    ([⟨0, esz, 1, nin, esz * (p 2 + 32), false⟩, book (4 + 8 * nin), ⟨2, 32, 0, 1, if f32 then 4096 else 2048, true⟩],
      decide (p 0 ≤ 26) && (l 4).count == 27 && (l 2).sp == 1 && i1 == 0 && decide (i0 ≤ 32))
  | .psca =>
    ([⟨0, 4, 1, nin, 4 * (p 2 + 32), false⟩, book (4 + 8 * nin), ⟨2, 32, 0, 1, 4096, true⟩],
      decide (p 0 ≤ 26) && (l 4).count == 27 && (l 2).sp == 1 && i1 == 0 && decide (i0 ≤ 32))

/-- One list's checks, in a partition of `limit` bytes (R354, R358, R359). -/
def ptUseOk (r limit : Nat) (u : PtUse) : Bool :=
  let l := ptList r u.n
  ptListOk r u.n u.tile && l.addr % u.align == 0 && (u.tile || (l.stride % u.align == 0 && decide (u.stride ≤ l.stride)))
    && (l.sp == 0 || u.count == 0 || decide (l.addr + (if u.tile then 0 else l.stride * (u.count - 1)) + u.last ≤ limit))

/-- A point record from its 1024 bits; none where it breaks a check. -/
def parsePoint (k : PtKind) (r reca limit : Nat) (tag : Option Nat) (tagField : Nat) : Option PtCmd :=
  let u := ptUses k r
  if bits r 1023 960 == 0 && bits r 943 928 == 0 && u.1.all (ptUseOk r limit) && u.2 then
    some { kind := k, reca := reca, lists := (List.range 6).map (ptList r), params := (List.range 4).map fun n => bits r (32 * n + 799) (32 * n + 768)
           i1 := bits r 959 944, i0 := bits r 927 896, tag := tag, tagField := tagField }
  else none

/-- What a point instruction finds at issue: its command, or its trap (R358). -/
def Ctx.pointCheck (c : Ctx) (s : State) (k : PtKind) (t : TagWord) : Except (Nat × Nat) PtCmd :=
  let ea := c.u 0
  if s.partition c.crewId < ea + 128 then .error (0x11, ea)
  else if ea % 32 ≠ 0 then .error (0x12, ea)
  else
    match parsePoint k (ofBytes (s.readAt (.scratch c.crewId ea) 128)) ea (s.partition c.crewId) (if t.nt then none else some t.tag.toNat) t.tag.toNat with
    | none => .error (0x32, ea)
    | some p => .ok p

/-- Point commands of the crew's cluster that have not ended, in issue order (R358). -/
def State.clusterPoints (s : State) (crew : Nat) : List (Nat × Op) :=
  let cr := s.crew crew
  s.ops.filter fun p =>
    let o := s.crew p.2.crew
    o.layer == cr.layer && o.cluster == cr.cluster && !p.2.captured && (match p.2.kind with | .point _ => true | _ => false)

def State.pointStalls (s : State) (c : Ctx) (k : PtKind) (t : TagWord) : Bool :=
  decide (c.u 0 + 128 ≤ s.partition c.crewId) && decide (c.u 0 % 32 = 0) && s.ownStoreOver c.gid c.crewId c.lane0 (c.u 0) 128
    || (match c.pointCheck s k t with
        | .error _ => false
        | .ok _ => (!t.nt && c.crew.tag t.tag.toNat == .pending) || decide (32 ≤ (s.clusterPoints c.crewId).length))

end Sys2Proof.Machine
end

