-- ==== Sys2Proof/Machine/Stall.lean ====
section
/-! DEFINITION. What an instruction's words and the allotments decide at issue, and when an instruction stalls
(spec/02_formats.md R53, R57, R58, R61, R65, R66, spec/06_streams.md R156, R162). -/

namespace Sys2Proof.Machine

/-- The register fields a task gang, or a gang not formed from tasks, may not name (R58, R222). -/
def taskOk (i : Instr) (task : Bool) : Bool :=
  let rs := i.info.opnds.map fun o => o.reg.toNat
  let rs := match i with | .qlen _ q _ => (if q.toNat = 248 then [] else [q.toNat]) ++ rs | _ => rs
  let bars := match i with | .barr b _ => [b.toNat] | .barrPhase _ b _ => [b.toNat] | .barw _ b _ => [b.toNat] | .bars _ b _ => [b.toNat] | _ => []
  if task then rs.all (fun r => !(decide (240 ≤ r) && decide (r ≤ 247))) && bars.all (· < 16)
  else rs.all (· != 248)

/-- QLEN's q field where it holds the number of a v register: at or above the allotment it is register-range, below it no
queue's number (R373, R392). -/
def qlenOk (i : Instr) (allot : Nat) : Bool :=
  match i with | .qlen _ q _ => decide (224 ≤ q.toNat) || decide (16 * allot ≤ q.toNat) | _ => true

/-- Register, tile and tag numbers within the gang's allotments (R53, R61). -/
def rangeOk (i : Instr) (allot accs tags : Nat) : Bool :=
  (i.info.opnds.all fun o => decide (192 ≤ o.reg.toNat) || decide (o.reg.toNat + o.n ≤ 16 * allot))
    && (match i with
        | .mma _ _ _ _ e => decide (e.acc.toNat < accs) && (e.nt || decide (e.ctag.toNat < tags))
        | .accz _ _ acc => decide (acc.toNat < accs)
        | .accrd _ _ _ acc _ _ => decide (acc.toNat < accs)
        | .accwr _ _ _ acc _ => decide (acc.toNat < accs)
        | .nbrk _ _ _ t => t.nt || decide (t.tag.toNat < tags)
        | .nbrr _ _ _ t => t.nt || decide (t.tag.toNat < tags)
        | .siteh _ _ _ t => t.nt || decide (t.tag.toNat < tags)
        | .rule _ _ _ t => t.nt || decide (t.tag.toNat < tags)
        | .ruleSub _ _ _ t => t.nt || decide (t.tag.toNat < tags)
        | .pgat _ _ _ _ t => t.nt || decide (t.tag.toNat < tags)
        | .psca _ _ _ t => t.nt || decide (t.tag.toNat < tags)
        | .qlen _ q _ => decide (224 ≤ q.toNat)
        | _ => true)

/-- No queue would need more entries, or more room, than its depth (R391). -/
def queueRangeOk (i : Instr) (cnt : Nat) : Bool :=
  let a := i.info.srcs; let d := i.info.dsts
  (a.all fun p => decide (p.1 < 224) || decide (qNeed a p.1 cnt ≤ qDepth (p.1 - 224)))
    && (d.all fun p => decide (p.1 < 224) || decide (qNeed d p.1 cnt ≤ qDepth (p.1 - 224)))

/-- The queues hold what the instruction pops and have room for what it pushes (R57, R391). -/
def State.queuesReady (s : State) (gid cnt : Nat) (i : Instr) : Bool :=
  let a := i.info.srcs; let d := i.info.dsts
  (a.all fun p => decide (p.1 < 224) || decide (qNeed a p.1 cnt ≤ (s.queue gid (p.1 - 224)).length))
    && (d.all fun p => decide (p.1 < 224)
          || decide (qNeed d p.1 cnt ≤ s.qRoom gid (p.1 - 224) + qNeed a p.1 cnt))

/-- How many registers of a destination operand the instruction writes: UCAS its expected value alone (R219). -/
def writtenRegs (i : Instr) (o : Opnd) : Nat := match i with | .ucas .. => o.n / 2 | _ => o.n

/-- The registers and masks the instruction writes are no destinations of pending operations (R162, R149, R292, R345). -/
def State.destsFree (s : State) (gid : Nat) (i : Instr) : Bool :=
  let regs := s.pendingRegs gid
  let masks := s.pendingMasks gid
  ((i.info.opnds.filter (·.dst)).all fun o => (spanOf o.reg.toNat (writtenRegs i o)).all fun r => !regs.contains r)
    && i.info.masks.all fun k => !masks.contains k

/-- Every counter of the operation's stream is at most 62 (R156). -/
def State.streamRoom (s : State) (gid : Nat) (act : BitVec 32) (i : Instr) : Bool :=
  match i.info.ord with
  | none => true
  | some o => (lanes act).all fun l => decide (s.counter gid l o.strm.toNat ≤ 62)

/-- A register of the gang's top n chunks is the destination of a pending operation or request (R386). -/
def State.giveStalls (s : State) (c : Ctx) (n : Nat) : Bool :=
  let a := (s.gang c.gid).allot
  decide (n < a) && (s.pendingRegs c.gid ++ s.parkedRegs c.gid).any fun r => decide (16 * (a - n) ≤ r) && decide (r < 16 * a)

/-- A comparison with a bare operand that is not well-formed traps before it stalls (R290). -/
def badIv (i : Instr) (c : Ctx) : Bool :=
  match i with
  | .ecmp .. => (lanes c.act).any (c.ivBad true)
  | .esgn .. => (lanes c.act).any (c.ivBad false)
  | _ => false

/-- A pending operation or request of the handler writes what the frame is about to: m1 to m11 or g28 to g31; under
`entry`, v0 and v1 as well (R162, R292, R383, R437). Captured requests, which the return itself posts again, do not hold it: DEDUCED
(notes/assumptions/26.md). -/
def State.frameDestsPending (s : State) (gid : Nat) (entry : Bool) : Bool :=
  let t := { s with reqs := s.reqs.filter fun p => !p.2.captured }
  (t.pendingMasks gid).any (fun k => decide (1 ≤ k)) || (t.pendingRegs gid).any fun r => decide (220 ≤ r) || (entry && decide (r ≤ 1))

/-- Whether a TDONE of the lanes of mk ends its handler, and whether a lane of it resumes at the entry (R383). -/
def Ctx.tdoneEnds (c : Ctx) (k act : Nat) : Bool × Bool :=
  match c.gang.handler with
  | some h =>
    let done := laneSet fun l => h.resolved.any (·.1 == l)
    let now := h.trap.lanes &&& c.gang.mask k &&& c.gang.live &&& ~~~ done
    (now != 0 && (h.trap.lanes &&& c.gang.live &&& ~~~ (done ||| now)) == 0, act == 2 || h.resolved.any (·.2 == 2))
  | none => (false, false)

/-- The frame a gang's handler leaves by cannot be read yet: a replayable fault (R429). -/
def State.frameWaits (s : State) (gid : Nat) : Bool :=
  match (s.gang gid).handler with
  | none => false
  | some h => match s.readFrame gid h.frame with | .error f => f.replay | .ok _ => false

/-- The special-function queue that serves the gang's slot (R148, R508). -/
def State.sfQueue (s : State) (gid : Nat) : List SfReq :=
  let g := s.gang gid
  let cr := s.crew g.crew
  (s.gangs.filter fun p =>
      let o := s.crew p.2.crew
      o.layer == cr.layer && o.cluster == cr.cluster && o.core == cr.core && p.2.slot / 4 == g.slot / 4).flatMap (·.2.sf)

/-- Its requests: those the unit has taken count until they complete (notes/assumptions/47.md). -/
def State.sfLoad (s : State) (gid : Nat) : Nat := (s.sfQueue gid).length

/-- A barrier of the crew or of its convoy, at its placement value where nothing has changed it (R221). -/
def State.barrier (s : State) (crew b : Nat) : Barrier :=
  let cr := s.crew crew
  let d := (s.launch cr.launch).desc
  if b < 16 then look cr.barriers b { exp := if cr.task then 1 else d.gangs + 1 }
  else look (s.convoy cr.convoy).barriers b { exp := (d.crews + 1) * (d.gangs + 1) }

/-- EXP of the open phase (R221, R225). -/
def Barrier.expOpen (b : Barrier) : Nat :=
  match b.phases.find? (·.1 == b.open_) with
  | some (_, some e, _) => e
  | _ => b.exp

/-- The next arrival would open a fifth incomplete phase (R223). -/
def State.fifthPhase (s : State) (crew b : Nat) : Bool :=
  let x := s.barrier crew b
  (x.open_ + 65536 - x.done) % 65536 == 3 && x.iss + 1 == x.expOpen

/-- Waiter entries in use in the unit of lock x (R229). -/
def State.waiterEntries (s : State) (l x : Nat) : Nat :=
  (((s.layer l).locks.filter fun p => p.1 / 64 == x / 64).map (·.2.fifo.length)).sum

/-- Matrix commands of the crew's core in the engine's queue (R322). A command leaves it as it ends, and a captured one stands outside
it: DESIGN CHOICE (notes/assumptions/53.md). -/
def State.coreMatrix (s : State) (crew : Nat) : Nat :=
  let cr := s.crew crew
  (s.ops.filter fun p =>
    let o := s.crew p.2.crew
    o.layer == cr.layer && o.cluster == cr.cluster && o.core == cr.core && !p.2.captured
      && (match p.2.kind with | .matrix _ => true | _ => false)).length

/-- A matrix instruction's stalls: the queue is full, its tag is PENDING, or a CTBL whose table it uses has not ended, a captured one
among them (R320, R321, R322). -/
def State.matStalls (s : State) (c : Ctx) (tag : Option Nat) (table : Bool) : Bool :=
  decide (16 ≤ s.coreMatrix c.crewId)
    || (match tag with | some k => c.crew.tag k == .pending | none => false)
    || (table && s.ops.any fun p => p.2.gang == c.gid && match p.2.kind with | .matrix m => m.kind == .ctbl | _ => false)

/-- The masks an instruction reads, its prefix's among them (R41, R85 to R98). -/
def masksRead (i : Instr) : List Nat :=
  (match i with
   | .brc k _ => [k.toNat] | .bruMask k _ => [k.toNat] | .tdone k _ => [k.toNat]
   | .join k => [k.toNat] | .leave k => [k.toNat] | .waitm k => [k.toNat]
   | .mand _ a b => [a.toNat, b.toNat] | .mor _ a b => [a.toNat, b.toNat] | .mxor _ a b => [a.toNat, b.toNat]
   | .mandn _ a b => [a.toNat, b.toNat] | .mmovMM _ a => [a.toNat] | .mmovGM _ a => [a.toNat] | .mpop _ a _ => [a.toNat]
   | _ => [])
    ++ match i.info.pfx with | some p => if p.msk = 15 then [] else [p.msk.toNat] | none => []

/-- What an instruction reads at issue that a storage error may have lost (R451): 1 a register of Table 10 or a mask, 2 a scratchpad
word, 3 an accumulator element. -/
def readsStore (i : Instr) (code : Nat) : Bool :=
  match code with
  | 1 => !i.info.srcs.isEmpty || !(masksRead i).isEmpty
  | 2 => match i with
    | .lds .. => true | .ldp .. => true | .ulds .. => true
    | .atom _ _ _ _ sp _ => sp != 0 | .red _ _ _ _ sp _ => sp != 0 | .cas _ _ _ sp _ => sp != 0 | .cas128 _ _ _ sp _ => sp != 0
    | .uatom _ _ _ _ _ sp _ => sp != 0 | .ucas _ _ _ sp _ => sp != 0
    | .barge .. => true | .rawait .. => true | .rarel .. => true | .rapub .. => true | .ioreq .. => true
    | .waity _ mode => decide (2 ≤ mode.toNat)
    | .mma .. => true | .accwr .. => true | .qnt .. => true | .dqnt .. => true | .ctbl .. => true
    | .wcfg .. => true | .wsig .. => true | .wtest .. => true
    | .nbrk .. => true | .nbrr .. => true | .siteh .. => true | .rule .. => true | .ruleSub .. => true | .pgat .. => true | .psca .. => true
    | .keyld .. => true
    | _ => false
  | 3 => match i with | .mma _ _ _ _ e => !e.za | .accrd .. => true | _ => false
  | _ => false

/-- The instruction's own reasons to stall, by its description; `c` is its context at issue. -/
def specialStall (i : Instr) (c : Ctx) (s : State) : Bool :=
  match i with
  -- R163: an operation too many on a named stream.
  | .swait sm n =>
    (lanes c.act).any fun l => (List.range 8).any fun k => sm.getLsbD k && decide (n.toNat < s.counter c.gid l k)
  -- R386: a register of the chunks is the destination of a pending operation.
  | .give n => s.giveStalls c n.toNat
  | .giveRole _ n => s.giveStalls c n.toNat
  -- R147: the token is pending, or the queue of the gang's slots holds 32 requests.
  | .sfq _ _ _ tok _ => (s.gang c.gid).sf.any (·.tok == tok.toNat) || decide (32 ≤ s.sfLoad c.gid)
  -- R150: a named token is pending.
  | .sfwait _ m => (s.gang c.gid).sf.any fun r => m.getLsbD r.tok
  -- R223: a fifth phase would open.
  | .barr b _ => s.fifthPhase c.crewId b.toNat
  | .barrPhase _ b _ => s.fifthPhase c.crewId b.toNat
  -- R229: every waiter entry of the slice is taken.
  | .qlk .. => decide (256 ≤ s.waiterEntries c.layer (c.u 0))
  -- R240: no named tag is READY as the mode asks; a mask beyond the block traps instead.
  | .tagw _ any => !c.tagMaskBad (c.u 0) && !c.crew.tagsMet (c.u 0) any
  -- R244: an own store to the record, a PENDING tag, or 16 barges on the core.
  | .barge _ o => s.bargeStalls c o
  -- R252.
  | .waity _ mode =>
    if mode.toNat ≤ 1 then !c.tagMaskBad (c.u 0) && !c.crew.tagsMet (c.u 0) (mode == 1)
    else !c.ringRefused s (c.u 0) && !s.ringWaitMet c.crewId (c.u 0) (mode == 3)
  -- R255, R257: an own store to a record, or no room in q25.
  | .ioreq _ _ o => s.ioreqStalls c o
  -- R290, R294: the engine's queue lacks room for the open lanes.
  | .ecmp .. => c.engineStalls s true
  | .esgn .. => c.engineStalls s false
  | .mma _ _ _ _ e => s.matStalls c (if e.nt then none else some e.ctag.toNat) (e.ca || e.cb)
  | .accz .. => s.matStalls c none false
  | .accrd .. => s.matStalls c none false
  | .accwr .. => s.matStalls c none false
  | .qnt _ _ _ _ e => s.matStalls c none e.cmp
  | .dqnt _ _ _ _ e => s.matStalls c none e.cmp
  | .ctbl .. => s.matStalls c none false
  -- R341: an own store to the record.
  | .wcfg .. => decide (c.u 0 + 32 ≤ s.partition c.crewId) && decide (c.u 0 % 32 = 0) && s.ownStoreOver c.gid c.crewId c.lane0 (c.u 0) 32
  -- R358: an own store to the record, a PENDING tag, or 32 commands in the engine.
  | .nbrk _ _ _ t => s.pointStalls c .nbrk t
  | .nbrr _ _ _ t => s.pointStalls c .nbrr t
  | .siteh _ _ _ t => s.pointStalls c .siteh t
  | .rule _ _ _ t => s.pointStalls c (.rule false) t
  | .ruleSub _ _ _ t => s.pointStalls c (.rule true) t
  | .pgat _ _ _ f t => s.pointStalls c (.pgat f) t
  | .psca _ _ _ t => s.pointStalls c .psca t
  | .eret => s.frameWaits c.gid || s.frameDestsPending c.gid false
  | .tdone k act =>
    let e := c.tdoneEnds k.toNat act.toNat
    s.frameWaits c.gid || (e.1 && s.frameDestsPending c.gid e.2)
  | _ => false

end Sys2Proof.Machine
end

