-- ==== Sys2Proof/Machine/Issue.lean ====
section
/-! DEFINITION. How an instruction issues: its checks in order, its stalls, its effect (spec/02_formats.md R41, R57, R66,
spec/03_control.md R77 to R80). -/

namespace Sys2Proof.Machine

/-- The outcome of a meaning. -/
abbrev Out := Host.Outcome State Fault Refusal

/-- The active lanes of an instruction for a run (R41). -/
def Gang.active (g : Gang) (info : Info) (run : BitVec 32) : BitVec 32 :=
  match info.pfx with
  | none => run
  | some p => if p.msk = 15 then run else run &&& g.mask p.msk.toNat

/-- The segment of the instruction at pc: that which the entry that maps pc names (R421). -/
def State.segmentOf (s : State) (l via pc : Nat) : Option Segment :=
  match s.leafOf l via pc with
  | .leaf _ _ pte => find (s.layer l).segments (bits pte 49 45)
  | _ => none

/-- The privilege of the segment an instruction lies in: its SYS bit (R421, R65). -/
def State.segmentSys (s : State) (l via pc : Nat) : Bool := match s.segmentOf l via pc with | some g => g.sys | none => false

/-- ERET is legal at level 2 alone, wherever it stands (R437). -/
def eretOk (i : Instr) (level : Nat) : Bool :=
  match i with | .eret => level == 2 | .eretKill => level == 2 | _ => true

/-- What the level decides by the words alone: system registers (R422), TDONE (R383). -/
def levelTrap (i : Instr) (level : Nat) (task : Bool) : Option Nat :=
  match i with
  | .csrr _ n => if [0x034, 0x035, 0x038, 0x03B, 0x03C].contains n.toNat && level != 2 then some 0x02 else none
  | .csrw _ _ => if level = 2 then none else some 0x02
  | .tdone _ _ => if level = 1 && task then none else some 0x01
  | _ => none

/-- What the checks at issue come to (R57, R66). -/
inductive Gate where
  | trap (cause : Nat)
  | none_   -- no active lane: completes without effect
  | stall
  | go
  deriving DecidableEq, Repr

/-- The context of an instruction at issue. The next instruction lies past every word of this one: for a prefixed SFWAIT that is pc + 8,
where R150 says pc + 4: DEDUCED (notes/assumptions/55.md). A program counter has 57 bits: past the last address comes the first
(notes/assumptions/48.md). -/
def State.ctx (s : State) (i : Instr) (u : Issue) : Ctx :=
  let info := i.info
  let act := (s.gang u.gang).active info u.run
  { gid := u.gang, run := u.run, act := act, pc := u.pc, next := (u.pc + i.len) % 2 ^ 57, uniform := info.uniform
    zero := match info.pfx with | some p => p.zero | none => false
    qlanes := if info.uniform then laneBit (lowest act) else act, pre := s, srcs := info.srcs }

/-- The checks in their order: legality, privilege, register-range, no active lane, queue-range, stalls (R57, R65, R66). -/
def State.gate (s : State) (i : Instr) (u : Issue) : Gate :=
  let c := s.ctx i u
  let g := s.gang u.gang
  let cnt := popcount c.qlanes
  if !(i.info.legal && taskOk i g.task.isSome && qlenOk i g.allot && eretOk i g.level) then .trap 0x01
  else if i.info.privileged && !s.segmentSys (s.layerOf u.gang) (s.viaOf g.crew) u.pc then .trap 0x02
  else if let some cause := levelTrap i g.level (match g.handler with | some h => h.task | none => false) then .trap cause
  else if !rangeOk i g.allot (s.launch (s.crew g.crew).launch).desc.accs (s.tagCount g.crew) then .trap 0x03
  else if c.act = 0 && (match i with | .sfwait .. => false | _ => true) then .none_
  else if !queueRangeOk i cnt then .trap 0x23
  else if !(s.queuesReady u.gang cnt i && (s.destsFree u.gang i || badIv i c) && s.streamRoom u.gang c.act i) || specialStall i c s then .stall
  else .go

/-- What still waits once the run at pc has issued. -/
def Gang.waitsPast (g : Gang) (pc : Nat) : List (Nat × Nat) := g.fetchWait.filter (·.1 != pc)

/-- The run moves to the next instruction and its wait counts return to zero (R79, R80, R455). -/
def State.advance (s : State) (u : Issue) (next : Nat) : State :=
  let s := s.modGang u.gang fun g =>
    { g.modLanes u.run fun t => { t with pc := next, count := 0, waity := none } with
      stepOnce := false, offer := none, fetchWait := g.waitsPast u.pc }
  s.modCrew (s.gang u.gang).crew fun c => { c with wdog := s.clk }

/-! ### Which instruction issues -/

/-- What a fetch finds: the words, or a trap with its cause, its fault address and the words before the one that met it. -/
inductive Fetch where
  | words (ws : List Word)
  | fault (cause faddr : Nat) (replay : Bool) (got : List Word)
  deriving DecidableEq, Repr

/-- The crews that hold room on a crew's core (R445). -/
def State.coreCrews (s : State) (crew : Nat) : List (Nat × Crew) :=
  let c := s.crew crew
  s.crews.filter fun p => p.2.layer == c.layer && p.2.cluster == c.cluster && p.2.core == c.core && p.2.status == .resident

/-- A line locked on the crew's core, as it was when locked (R445). -/
def State.lockedLine (s : State) (crew line : Nat) : Option (Option (List Byte)) :=
  firstSome (fun p => find p.2.locked line) (s.coreCrews crew)

/-- One word of the instruction at pc: translated, executable, in the segment that the entry of pc names, which the gang may fetch from
(R33, R36, R421). -/
def State.fetchWord (s : State) (crew pc va level : Nat) : Except VaFault Word :=
  let l := (s.crew crew).layer
  match s.translate l (s.viaOf crew) .fetch false va with
  | .fault c r => .error ⟨c, va, r⟩
  | .ok p =>
    match s.segmentOf l (s.viaOf crew) pc with
    | none => .error ⟨0x06, va, false⟩
    | some g =>
      if va < g.base ∨ g.base + g.size < va + 4 ∨ g.sys ≠ (level == 2) then .error ⟨0x06, va, false⟩
      else match s.lockedLine crew (va / 64 * 64) with
        | some (some b) => .ok (BitVec.ofNat 32 (ofBytes ((b.drop (va % 64)).take 4)))
        | some none => .error ⟨0x1C, va / 64 * 64, false⟩
        | none => if s.poisoned p 4 then .error ⟨0x1C, va / 64 * 64, false⟩ else .ok (BitVec.ofNat 32 (ofBytes (s.readAt p 4)))

/-- The words an instruction at va needs, as many as its base word asks for (R31, R33); none past a word that no prefix may
precede (R38). -/
def State.fetchWords (s : State) (crew va level : Nat) : Fetch :=
  let get (k : Nat) := s.fetchWord crew va ((va + 4 * k) % 2 ^ 57) level
  match get 0 with
  | .error f => .fault f.cause f.addr f.replay []
  | .ok w0 =>
    let rest (base : Word) (from_ : Nat) (acc : List Word) : Fetch :=
      (List.range (extWords (base.toNat / 2 ^ 24))).foldl (init := .words acc) fun a k =>
        match a with
        | .fault .. => a
        | .words ws => match get (from_ + k) with | .ok w => .words (ws ++ [w]) | .error f => .fault f.cause f.addr f.replay ws
    if w0.toNat / 2 ^ 24 = 0x7F then
      match get 1 with
      | .error f => .fault f.cause f.addr f.replay [w0]
      | .ok w1 => if 0x77 < w1.toNat / 2 ^ 24 then .words [w0, w1] else rest w1 2 [w0, w1]
    else rest w0 1 [w0]

/-- The prefix word and the base word among fetched words, 0 for one that is not there. -/
def headWords : List Word → Nat × Nat
  | [] => (0, 0)
  | w :: ws => if w.toNat / 2 ^ 24 = 0x7F then (w.toNat, (ws.headD 0).toNat) else (0, w.toNat)

/-- The runs of a gang: each runnable lane's program counter, once, ascending (R77). -/
def Gang.runPcs (g : Gang) (m : BitVec 32) : List Nat :=
  ((lanes m).foldl (fun a l => insert a (g.thread l).pc ()) []).map (·.1)

/-! ### Issue -/

/-- The threads of a run stand at a WAITY from its first test (R253); its operand is the run's as it stands (R55). -/
def State.noteWaity (s : State) (gid : Nat) (run : BitVec 32) (a : Reg) (mode : BitVec 2) (lane : Nat) : State :=
  s.modGang gid fun g => g.modLanes run fun t =>
    { t with waity := some { since := (t.waity.map (·.since)).getD s.clk, mode := mode.toNat, reg := a.toNat, lane := lane } }

/-- The WAITY the run at pc stands at, where its condition does not hold: the run, the operand, the mode. -/
def State.standsAt (s : State) (gid pc : Nat) : Option (BitVec 32 × Reg × BitVec 2) :=
  match s.fetchWords (s.gang gid).crew pc (s.gang gid).level with
  | .fault .. => none
  | .words ws =>
    match decodeWords ws with
    | .ok (.waity a mode) =>
      let run := (s.gang gid).at_ (s.runnable gid) pc
      if s.gate (.waity a mode) { gang := gid, run := run, pc := pc, insn := (headWords ws).2 } = .stall then some (run, a, mode) else none
    | _ => none

/-- Every run of the gang whose WAITY stalls stands there (R253). -/
def State.noteStands (s : State) (gid : Nat) : State :=
  ((s.gang gid).runPcs (s.runnable gid)).foldl (init := s) fun t pc =>
    match s.standsAt gid pc with
    | some (run, a, m) => t.noteWaity gid run a m (lowest run)
    | none => t

/-- A run stalls at a WAITY: it stands there, and so does every other run of the gang whose WAITY stalls (R253). -/
def State.noteStall (s : State) (i : Instr) (c : Ctx) : State :=
  match i with
  | .waity a mode => (s.noteStands c.gid).noteWaity c.gid c.run a mode c.lane0
  | _ => s

/-- An instruction at issue, with its effect on the state past its pops. -/
def issueInstr (i : Instr) (s : State) (eff : Ctx → State → Effect) : Out :=
  match s.issue with
  | none => .next s
  | some u =>
    let c := s.ctx i u
    match s.gate i u with
    | .trap cause => .next (s.trapAt u i.len cause 0 255)
    | .stall => .next (s.noteStall i c)
    | .none_ => .next (s.advance u c.next)
    | .go =>
      if readsStore i u.err then .next (s.trapAt u i.len 0x1C u.err 255)
      else match eff c ((s.advance u c.next).popSrcs u.gang (popcount c.qlanes) c.srcs) with
      | .ok t => .next t
      | .trap cause faddr lane => .next (s.trapAt u i.len cause (faddr % 2 ^ 64) lane)
      | .soft cause faddr => .next ((s.advance u c.next).trapAt u i.len cause faddr 255)
      | .wait cause faddr => .next (s.waitFault u.gang u.pc cause faddr)

/-- A lane or uniform instruction that computes one result from its sources and writes its last operand. -/
def resultInstr (i : Instr) (s : State) (d : Reg) (n : Nat) (f : Ctx → Nat → Nat) : Out :=
  issueInstr i s fun c t => .ok (c.write t d.toNat n (f c))

/-! ### The issue cycle -/

/-- A step's decision at an issue cycle. -/
inductive Prep where
  | act (i : Instr) (s : State)
  | done (s : State)

/-- The words of an instruction come to the gang's cluster from the slices of their lines, in its layer or another, but for locked lines
(R203, notes/assumptions/57.md). -/
def State.noteFetch (s : State) (gid pc n : Nat) : State :=
  let crew := (s.gang gid).crew
  let l := s.layerOf gid
  (List.range n).foldl (init := s) fun t k =>
    let va := (pc + 4 * k) % 2 ^ 57
    if (s.lockedLine crew (va / 64 * 64)).isSome then t
    else
      match s.translate l (s.viaOf crew) .fetch false va with
      | .ok p => t.notePlace l (some (s.clusterRouter crew)) p
      | .fault .. => t.noteRouters l [s.clusterRouter crew]

/-- The instruction of a run: fetched, decoded and put at issue, or the trap it comes to. -/
def State.present (s : State) (gid err : Nat) (run : BitVec 32) (pc : Nat) : Prep :=
  let s := { s with issue := some { gang := gid, run := run, pc := pc, err := err } }
  if (s.gang gid).fetchWait.any (·.1 == pc) then .done s
  else match s.fetchWords (s.gang gid).crew pc (s.gang gid).level with
  | .fault cause faddr replay got =>
    if replay then .done (s.waitFault gid pc cause faddr)
    else .done (s.trapAt { gang := gid, run := run, pc := pc, pfx := (headWords got).1, insn := (headWords got).2 } 0 cause faddr 255)
  | .words ws =>
    let s := ((List.range ws.length).foldl (fun t k => t.fillTlb (t.layerOf gid) (t.viaOf (t.gang gid).crew) ((pc + 4 * k) % 2 ^ 57)) s).noteFetch gid pc ws.length
    let u : Issue := { gang := gid, run := run, pc := pc, pfx := (headWords ws).1, insn := (headWords ws).2, err := err }
    match decodeWords ws with
    | .error _ => .done (s.trapAt u (4 * ws.length) 0x01 0 255)
    | .ok i => .act i { s with issue := some u }

/-- The run a gang's next issue cycle offers: the head run, or what a starvation turn was found to offer (R77, R80). -/
def Gang.offered (g : Gang) (m : BitVec 32) : Nat :=
  match g.offer with
  | some pc => pc
  | none => (lanes m).foldl (fun a l => if (g.thread l).pc < a then (g.thread l).pc else a) (2 ^ 57)

/-- The wait counts of an issue cycle: every runnable thread's rises; issue sets the run's to zero (R80). -/
def State.tickCounts (s : State) (gid : Nat) : State :=
  s.modGang gid fun g => g.modLanes (s.runnable gid) fun t => { t with count := t.count + 1 }

/-- The run at pc waits on a replayable fault of its fetch (R448). DESIGN CHOICE (notes/assumptions/31.md): a starvation turn does not
offer such a run, so that its fetch is not tried, nor its fault posted, until an ordinary turn offers it. -/
def State.fetchWaits (s : State) (gid pc : Nat) : Bool :=
  (s.gang gid).fetchWait.any (·.1 == pc)
    || (match s.fetchWords (s.gang gid).crew pc (s.gang gid).level with | .fault _ _ replay _ => replay | .words _ => false)

/-- What an instruction at issue comes to: where a replayable fault delays it, its run waits (R275, R448). -/
def delays (run : Instr → State → Out) (i : Instr) (t : State) (u : Issue) : Bool :=
  match run i t with
  | .next v => (v.gang u.gang).fetchWait.any (·.1 == u.pc)
  | _ => false

/-- Whether the run at pc could issue in this cycle, or trap (R80); `run` is the meaning of instructions. -/
def State.canIssue (s : State) (run : Instr → State → Out) (gid pc : Nat) : Bool :=
  !s.fetchWaits gid pc
    && (match s.present gid 0 ((s.gang gid).at_ (s.runnable gid) pc) pc with
        | .done _ => true
        | .act i t => match t.issue with | some u => t.gate i u != .stall && !delays run i t u | none => false)

/-- Some runnable thread's wait count has reached 4096 (R80). -/
def State.starved (s : State) (gid : Nat) : Bool :=
  (lanes (s.runnable gid)).any fun l => decide (4096 ≤ ((s.gang gid).thread l).count)

/-- The run a starvation turn offers: among the runs that can issue, the one with the highest wait count, ties to the
lower program counter (R80); none if no run can issue. -/
def State.starvationPick (s : State) (run : Instr → State → Out) (gid : Nat) : Option Nat :=
  let g := s.gang gid
  let m := s.runnable gid
  let top (pc : Nat) := (lanes (g.at_ m pc)).foldl (fun a l => Nat.max a (g.thread l).count) 0
  ((g.runPcs m).filter fun pc => s.canIssue run gid pc).foldl (init := none) fun a pc =>
    match a with
    | none => some pc
    | some b => if top b < top pc then some pc else some b

/-- Lanes of the gang wait for a trap of refinement (R299, R300): in a handler, those of the handler's own requests. -/
def Gang.refineTrap (g : Gang) : Bool := (!g.undecided.isEmpty || !g.spillFault.isEmpty)

/-- The trap of refinement, spill-fault before undecided (R299, R300, R509): its lanes stand at their instructions. FADDR, and PFX (R39),
are those of the lowest lane named as the trap is raised: DESIGN CHOICE (notes/assumptions/54.md). -/
def State.raiseRefine (s : State) (gid : Nat) : State :=
  let g := s.gang gid
  let spill := !g.spillFault.isEmpty
  let l := if spill then g.spillFault else g.undecided
  let named := laneSet fun k => l.any (·.1 == k)
  let first := l.headD (0, 0, 0, 0)
  let s := s.modGang gid fun g =>
    { g.modLanes named fun t => { t with wait := .none } with
      spillFault := [], undecided := if spill then g.undecided else [] }
  s.raise gid
    { cause := if spill then 0x2A else 0x2C, faddr := first.2.1, flane := first.1, lanes := named, pfx := first.2.2.2, insn := 0
      fpc := none, rpt := none, dcause := 0, dlane := 255, dfaddr := 0, counters := s.counterList gid
      at_ := (g.thread first.1).pc, len := 0, issue := true, past := l.map fun p => (p.1, p.2.2.1) }

/-- What a starvation turn presents, marked as its (R80). -/
def Prep.starving : Prep → Prep
  | .act i s => .act i { s with issue := s.issue.map fun u => { u with starved := true } }
  | .done s => .done s

/-- An issue cycle of a gang (R77 to R80). A starvation turn is chosen afresh in the cycle it serves; where nothing can issue in it, the runs
at a WAITY stand there (R253). -/
def State.issueCycle (s : State) (run : Instr → State → Out) (gid err : Nat) : Prep :=
  let g := s.gang gid
  let m := s.runnable gid
  if !s.gangUp gid then .done s
  else if g.refineTrap then .done (s.raiseRefine gid)
  else if m = 0 then .done s
  else
    let t := { (s.tickCounts gid).modGang gid fun g => { g with offer := none } with lastGang := gid }
    if s.starved gid || g.offer.isSome then
      match s.starvationPick run gid with
      | none => .done (t.noteStands gid)
      | some pc => (t.present gid err (g.at_ m pc) pc).starving
    else
      let pc := (t.gang gid).offered m
      t.present gid err (g.at_ m pc) pc

end Sys2Proof.Machine
end

