-- ==== Sys2Proof/Machine/Turns.lean ====
section
/-! DEFINITION. Who acts next (notes/assumptions/2.md): the head of the agenda; where it is empty, the first event that
is enabled, then the gangs in turn (spec/03_control.md R78, R100). -/

namespace Sys2Proof.Machine

/-- One clk passes; aqueduct slots pass at one a nanosecond (R14, R405, R412). -/
def State.tick (s : State) : State :=
  let p := s.slotPart + 1000
  { s with clk := s.clk + 1, slots := s.slots + p / s.clkMhz, slotPart := p % s.clkMhz }

/-- The quadrant offers a gang its slot: it holds a runnable thread (R78), or a trap of refinement to take. -/
def State.offered (s : State) (gid : Nat) : Bool := s.runnable gid != 0 || (s.gangUp gid && (s.gang gid).refineTrap)

/-- A yielded gang is passed over while another gang of its quadrant that the quadrant offers has had no slot since (R100). -/
def State.passedOver (s : State) (ids : List Nat) (gid : Nat) : Bool :=
  match (s.gang gid).yielded with
  | none => false
  | some since => ids.any fun j => j != gid && !since.contains j

/-- The core a quadrant belongs to, by its key, and the slot the quadrant offered last (R78). -/
def quadCore (q : Nat × Nat × Nat × Nat) : Nat := 8 * (16 * q.1 + q.2.1) + q.2.2.1

/-- The gang a quadrant offers its next slot: round-robin by gang slot (R78), a yielded gang behind the others (R100). -/
def State.quadNext (s : State) (q : Nat × Nat × Nat × Nat) : Option Nat :=
  let ids := (s.gangs.map (·.1)).filter fun i => s.offered i && s.quadOf i == q
  let ids := match ids.filter (fun i => !s.passedOver ids i) with | [] => ids | l => l
  let after := look (look s.cores (quadCore q) {}).turns q.2.2.2 7 + 1
  let far (i : Nat) : Nat := ((s.gang i).slot + 64 - after) % 8
  ids.foldl (init := none) fun a i => match a with | none => some i | some b => if far i < far b then some i else some b

/-- A gang is offered a slot: its quadrant's rotation goes on behind it, its own yield and its wait for a fetch are over, and the
yielded gangs of its quadrant have seen it pass (R78, R100, R206). -/
def State.noteOffer (s : State) (gid : Nat) : State :=
  let q := s.quadOf gid
  let k := quadCore q
  let x := look s.cores k {}
  let s := { s with cores := insert s.cores k { x with turns := insert x.turns q.2.2.2 ((s.gang gid).slot % 8) } }
  { s with gangs := s.gangs.map fun (p : Nat × Gang) =>
      if p.1 = gid then (p.1, { p.2 with yielded := none, turned := s.clk, moved := 0 })
      else if s.quadOf p.1 = q then (p.1, { p.2 with yielded := p.2.yielded.map (gid :: ·) })
      else p }

/-- What a corrected error in a register or a scratchpad word an instruction reads adds to the turn: 255 (R451). -/
def State.errTurn (s : State) (gid err : Nat) : State × Nat := if err = 255 then (s.countCorrected (s.layerOf gid), 0) else (s, err)

/-- The slot of a gang's quadrant: the gang it is offered to has its issue cycle (R78). -/
def State.gangTurn (s : State) (run : Instr → State → Out) (gid err : Nat) : Prep :=
  match s.quadNext (s.quadOf gid) with
  | none => .done s
  | some g =>
    let e := (s.noteOffer g).errTurn g err
    e.1.issueCycle run g e.2

/-- An instruction that transfers control. -/
def transfers (i : Instr) : Bool :=
  match i with
  | .bra .. => true | .brc .. => true | .call .. => true | .ret => true | .retPair .. => true | .jmpi .. => true
  | .calli .. => true | .calliLink .. => true | .exit => true | .bru .. => true | .bruMask .. => true
  | .trap .. => true | .brk .. => true | .eret => true | .eretKill => true | .tdone .. => true
  | _ => false

/-- The second instruction of a pair (R78): uniform, without a transfer of control, reading nothing the first writes. -/
def pairs (i j : Instr) : Bool :=
  !i.info.uniform && !transfers i && j.info.uniform && !transfers j
    && (j.info.srcs.all fun x => i.info.dsts.all fun y => (spanOf x.1 x.2).all fun r => !(spanOf y.1 y.2).contains r)
    && (masksRead j).all fun k => !i.info.masks.contains k

/-- The next instruction of the run that has issued in this turn, in the same clk, where the two make a pair (R78); a starvation turn serves one
instruction only (R80). -/
def State.secondTurn (s : State) (err : Nat) : Prep :=
  match s.issue with
  | none => .done s
  | some u =>
    let again (pc : Nat) : Option Instr :=
      match s.fetchWords (s.gang u.gang).crew pc (s.gang u.gang).level with
      | .fault .. => none
      | .words ws => match decodeWords ws with | .ok i => some i | .error _ => none
    match again u.pc with
    | none => .done s
    | some i =>
      let pc := (u.pc + i.len) % 2 ^ 57
      match again pc with
      | none => .done s
      | some j =>
        if !u.starved && pairs i j && s.gangUp u.gang && (lanes u.run).all fun l => hasLane (s.runnable u.gang) l && ((s.gang u.gang).thread l).pc == pc then
          let e := s.errTurn u.gang err
          e.1.present u.gang e.2 u.run pc
        else .done s

/-- The gang whose quadrant comes next where the agenda names none. -/
def State.nextGang (s : State) : Option Nat :=
  let ids := (s.gangs.map (·.1)).filter s.offered
  match ids.filter (s.lastGang < ·) with
  | i :: _ => some i
  | [] => ids.head?

/-- The turn of a state whose agenda leaves it open: events and gangs by turns, each where the other has none. -/
def State.openTurn (s : State) (run : Instr → State → Out) (auto : State → Option (Instr × Choice)) : Prep :=
  let gang := if s.clk % 2 = 0 then none else s.nextGang
  match gang, auto s with
  | some g, _ => s.gangTurn run g 0
  | none, some (i, c) => .act i { s with choice := c, issue := none }
  | none, none =>
    match s.nextGang with
    | some g => s.gangTurn run g 0
    | none => .done s

/-- What the hosts have written to their own memories (R197). -/
def State.hostWrites (s : State) (l : List HostWrite) : State :=
  l.foldl (init := s) fun t w => if w.port < 2 ∧ w.bus + w.bytes.length ≤ 2 ^ 64 then t.writeAt (.host w.port w.bus) w.bytes else t

/-- The choice of who acts, and what it presents to `run`, the meaning of instructions. A frozen part does nothing but start again (R482). The second
instruction of a pair issues in the clk of the first. -/
def State.prepare (s : State) (run : Instr → State → Out) (auto : State → Option (Instr × Choice)) : Prep :=
  if s.frozen then
    match s.agenda with
    | .act .coldStart c :: rest => .act .coldStart { s with agenda := rest, choice := c, issue := none }
    | l => .done { s with agenda := l.tail }
  else
    match s.agenda with
    | .second err :: rest => ({ s with agenda := rest }).secondTurn err
    | .gang g err :: rest => ({ s.tick with agenda := rest, issue := none }).gangTurn run g err
    | .act i c :: rest =>
      let s := ({ s.tick with agenda := rest, choice := c, issue := none }).hostWrites c.host
      if i.info.word then .done s else .act i s
    | [] => ({ s.tick with issue := none }).openTurn run auto

end Sys2Proof.Machine
end

