-- ==== Sys2Proof/Machine/Auto.lean ====
section
/-! DEFINITION. The events the part brings about by itself where the agenda leaves the choice open
(notes/assumptions/2.md): of those that are enabled, the first in an order that starts at another place each clk. -/

namespace Sys2Proof.Machine

/-- The completion acts of an operation. -/
def opActs : List Instr :=
  [.pageTableWalk, .operationFailure, .hostCompletionTimeout, .loadComplete, .storeComplete, .prefetchComplete
  , .atomicPerform, .atomicComplete, .barrierArrivalCounts, .barsActs, .tktComplete, .tktsUpdate, .qlkGrant, .qulRelease]
  ++ [.bargeEngineTake, .bargeComplete, .bargeFault, .rawaitComplete, .rarelRelease, .advanceReady, .ioreqPost
  , .matrixCommandStart, .operandsConsumed, .matrixCommandComplete, .wtestEntryUpdate, .weirCommandComplete]
  ++ [.pointCommandComplete, .pointCommandFault, .spawnTasksEnter, .aqueductSlot, .aqueductWriteApply
  , .rchkComplete, .resyncComplete]

/-- The acts of a gang. -/
def gangActs : List Instr := [.trapEntry, .tktwWake, .slotwWake, .q24Fill, .gangRetire]

/-- The acts of a crew. -/
def crewActs : List Instr := [.crewYield, .crewReturn, .cyieldAct, .watchdogExpiry]

/-- The acts of a layer. -/
def layerActs : List Instr := [.convoyPlace, .drainStart, .drainPreempt]

/-- The commands (R460). -/
def commandActs : List Instr :=
  [.commandNop, .launch, .depwait, .signal, .copyc, .mark, .jump, .setpri, .stamp, .tlbcVa, .tlbcAll]

/-- The firmware calls (R476). -/
def callActs : List Instr :=
  [.export_, .import_, .revoke, .createRegion, .freeRegion, .writeIoTargetEntry, .assignKeyIndices, .unassignKeyIndices]
  ++ [.loadCodeSegment, .freeSegment, .debugHalt, .debugRun, .debugStep, .debugSnap, .sleepDevice, .wakeDevice]
  ++ [.assignLayersAndPorts, .setKernelState]

/-- Acts on a target each. -/
def actsOn (acts : List Instr) (c : Choice) : List (Instr × Choice) := acts.map fun i => (i, c)

/-- The acts that concern gangs, crews, convoys and requests. -/
def State.crewCandidates (s : State) : List (Instr × Choice) :=
  (s.gangs.flatMap fun g =>
      actsOn gangActs { target := g.1 } ++ (g.2.sf.map fun r => (.sfqComplete, { target := g.1, unit := r.tok }))
        ++ ((List.range 32).map fun l => (.sleepEnd, { target := g.1, lane := l })))
    ++ (s.crews.flatMap fun c =>
      actsOn crewActs { target := c.1 } ++ (c.2.caddy.nodes.map fun n => (.reclamation, { target := c.1, unit := n.1 }))
        ++ if s.ops.any (fun p => p.2.crew == c.1 && (match p.2.kind with | .weir .. => true | _ => false)) then
          [(.weirContextLoad, { target := c.1 })] else [])
    ++ (s.convoys.flatMap fun v => actsOn [.preemption, .convoyRestore] { target := v.1 })
    ++ s.reqs.flatMap fun r => actsOn [.refinementAdmit, .refinementEnd] { target := r.1 }

/-- The acts that concern operations in flight. -/
def State.opCandidates (s : State) : List (Instr × Choice) :=
  s.ops.flatMap fun p =>
    actsOn opActs { target := p.1 }
      ++ match p.2.kind with
        | .ioreq ls _ => ls.map fun r => (.ioTimeout, { target := p.1, lane := r.lane })
        | _ => []

/-- The acts that concern layers, their clusters and their queues. -/
def State.layerCandidates (s : State) : List (Instr × Choice) :=
  (s.layers.flatMap fun y =>
      actsOn layerActs { layer := y.1 }
        ++ y.2.queues.flatMap fun q =>
          actsOn commandActs { layer := y.1, unit := q.1 }
            ++ q.2.cmds.flatMap fun k => actsOn [.depwaitPoll, .copyComplete] { layer := y.1, unit := q.1, target := k.1 })
    ++ (s.launches.map fun n => (.launchComplete, { target := n.1 }))
    ++ s.clusters.flatMap fun x =>
      let at_ : Choice := { layer := x.1 / 16, cluster := x.1 % 16 }
      (x.2.bins.map fun b => (.binTimerExpiry, { at_ with unit := b.1 })) ++ [(.coreReserve, at_)]
        ++ (List.range Config.cores).map fun k => (.taskGangPlace, { at_ with core := k })

/-- The acts of the firmware and of the part as a whole. -/
def State.partCandidates (s : State) : List (Instr × Choice) :=
  [(.coldStart, { target := 0 }), (.warmStart, { target := 0 }), (.freeze, { target := 0 }), (.aqueductSlot, { target := 0 })]
    ++ ((List.range 36).filterMap fun b => if s.ready.getLsbD b then none else some (.readySet, { unit := b }))
    ++ ((List.range 2).flatMap fun p => actsOn callActs { caller := .host p } ++ actsOn [.startRequestLapse, .freezeLapse] { port := p })
    ++ (s.layers.filter (·.2.rung.isSome)).flatMap fun y => actsOn callActs { caller := .kernel y.1 }

def State.acts (s : State) : List (Instr × Choice) :=
  s.partCandidates ++ s.crewCandidates ++ s.opCandidates ++ s.layerCandidates

/-- An act does something: `run` answers another state. -/
def State.enabled (s : State) (run : Instr → State → Host.Outcome State Fault Refusal) (a : Instr × Choice) : Bool :=
  let t := { s with choice := a.2, issue := none }
  match run a.1 t with
  | .next u => u != t
  | _ => false

/-- The enabled event that comes first. -/
def State.autoAct (run : Instr → State → Host.Outcome State Fault Refusal) (s : State) : Option (Instr × Choice) :=
  let l := s.acts
  let k := s.clk % l.length
  (l.drop k ++ l.take k).find? (s.enabled run)

end Sys2Proof.Machine
end

