-- ==== Sys2Proof/Machine/Control.lean ====
section
/-! DEFINITION. Control flow: branches, calls, exits, groups, masks, votes, yield, sleep, role (spec/03_control.md R77
to R103). -/

namespace Sys2Proof.Machine

/-- pc + 4 × sext(OFF, 20) (R36). Where that falls outside the 57 bits of a program counter, of which the manual says nothing,
the model takes it modulo 2^57 (notes/assumptions/48.md). -/
def branchTarget (pc : Nat) (off : BitVec 20) : Nat := trunc ((pc : Int) + 4 * off.toInt) 57

/-- Threads of a set moved. -/
def State.modLanes (s : State) (gid : Nat) (m : BitVec 32) (f : Nat → Thread → Thread) : State :=
  s.modGang gid fun g => { g with threads := g.threads.mapIdx fun l t => if hasLane m l then f l t else t }

/-- The program counters of the run set (R79). -/
def Ctx.jump (c : Ctx) (s : State) (pc : Nat → Nat) : State := s.modLanes c.gid c.run fun l t => { t with pc := pc l }

/-- Some thread's return stack is full, or empty (R89). -/
def Ctx.anyDepth (c : Ctx) (n : Nat) : Bool := (lanes c.run).any fun l => (c.gang.thread l).stack.length == n

/-- A target pair that no program counter can hold (R90). -/
def badTarget (t : Nat) : Bool := bits t 63 57 != 0 || bits t 1 0 != 0

def Ctx.badTargets (c : Ctx) : Bool := (lanes c.run).any fun l => badTarget (c.val 0 l)

/-- Threads of the run made to wait where they stand. -/
def Ctx.park (c : Ctx) (s : State) (w : Nat → Wait) : State :=
  s.modLanes c.gid c.run fun l t => { t with wait := w l, pc := c.pc }

def execNop (s : State) : Out := issueInstr .nop s fun _ t => .ok t

def execBra (off : BitVec 20) (s : State) : Out :=
  issueInstr (.bra off) s fun c t => .ok (c.jump t fun _ => branchTarget c.pc off)

def execBrc (k : BitVec 4) (off : BitVec 20) (s : State) : Out :=
  issueInstr (.brc k off) s fun c t =>
    .ok (c.jump t fun l => if hasLane (c.gang.mask k.toNat) l then branchTarget c.pc off else c.next)

def execCall (off : BitVec 20) (s : State) : Out :=
  issueInstr (.call off) s fun c t =>
    if c.anyDepth 16 then .trap 0x04 0 255
    else .ok (t.modLanes c.gid c.run fun _ th => { th with stack := c.next :: th.stack, pc := branchTarget c.pc off })

def execRet (s : State) : Out :=
  issueInstr .ret s fun c t =>
    if c.anyDepth 0 then .trap 0x04 0 255
    else .ok (t.modLanes c.gid c.run fun _ th => { th with stack := th.stack.tail, pc := th.stack.headD 0 })

def execRetPair (p : Reg) (s : State) : Out :=
  issueInstr (.retPair p) s fun c t => if c.badTargets then .trap 0x05 0 255 else .ok (c.jump t (c.val 0))

def execJmpi (p : Reg) (s : State) : Out :=
  issueInstr (.jmpi p) s fun c t => if c.badTargets then .trap 0x05 0 255 else .ok (c.jump t (c.val 0))

def execCalli (p : Reg) (s : State) : Out :=
  issueInstr (.calli p) s fun c t =>
    if c.badTargets then .trap 0x05 0 255
    else if c.anyDepth 16 then .trap 0x04 0 255
    else .ok (t.modLanes c.gid c.run fun l th => { th with stack := c.next :: th.stack, pc := c.val 0 l })

def execCalliLink (d p : Reg) (s : State) : Out :=
  issueInstr (.calliLink d p) s fun c t =>
    if c.badTargets then .trap 0x05 0 255
    else .ok (c.jump (c.write t d.toNat 2 fun _ => c.next) (c.val 0))

/-- EXIT (R92): every register keeps its words; the references the threads' e registers hold are released later, by the caddy
unit (R269, R307, `State.releaseGone`). -/
def execExit (s : State) : Out :=
  issueInstr .exit s fun c t => .ok (t.modGang c.gid fun g => g.exit c.run)

def execVote (k : BitVec 8) (x : Reg) (v : BitVec 2) (s : State) : Out :=
  issueInstr (.vote k x v) s fun c t => .ok (t.writeMaskLanes c.gid k.toNat c.run (voteBit v.toNat c.run (c.val 0)))

def execBru (off : BitVec 20) (s : State) : Out :=
  issueInstr (.bru off) s fun c t => .ok (c.jump t fun _ => branchTarget c.pc off)

def execBruMask (k : BitVec 4) (off : BitVec 20) (s : State) : Out :=
  issueInstr (.bruMask k off) s fun c t =>
    .ok (c.jump t fun _ => if (c.gang.mask k.toNat &&& c.run) != 0 then branchTarget c.pc off else c.next)

def execJoin (k : BitVec 8) (s : State) : Out :=
  issueInstr (.join k) s fun c t => .ok (t.writeMaskAll c.gid k.toNat (c.gang.mask k.toNat ||| c.run))

def execLeave (k : BitVec 8) (s : State) : Out :=
  issueInstr (.leave k) s fun c t => .ok (t.writeMaskAll c.gid k.toNat (c.gang.mask k.toNat &&& ~~~ c.run))

/-- WAITM (R94, R95): members wait, others pass, and the release of mk is evaluated. -/
def execWaitm (k : BitVec 8) (s : State) : Out :=
  issueInstr (.waitm k) s fun c t =>
    let members := c.run &&& c.gang.mask k.toNat &&& c.gang.live
    .ok ((t.modLanes c.gid members fun _ th => { th with wait := .waitm k.toNat, pc := c.pc }).modGang c.gid fun g => g.release k.toNat)

def execMand (k a b : BitVec 8) (s : State) : Out :=
  issueInstr (.mand k a b) s fun c t => .ok (t.writeMaskAll c.gid k.toNat (c.gang.mask a.toNat &&& c.gang.mask b.toNat))

def execMor (k a b : BitVec 8) (s : State) : Out :=
  issueInstr (.mor k a b) s fun c t => .ok (t.writeMaskAll c.gid k.toNat (c.gang.mask a.toNat ||| c.gang.mask b.toNat))

def execMxor (k a b : BitVec 8) (s : State) : Out :=
  issueInstr (.mxor k a b) s fun c t => .ok (t.writeMaskAll c.gid k.toNat (c.gang.mask a.toNat ^^^ c.gang.mask b.toNat))

def execMandn (k a b : BitVec 8) (s : State) : Out :=
  issueInstr (.mandn k a b) s fun c t => .ok (t.writeMaskAll c.gid k.toNat (c.gang.mask a.toNat &&& ~~~ c.gang.mask b.toNat))

def execMmovMM (k a : BitVec 8) (s : State) : Out :=
  issueInstr (.mmovMM k a) s fun c t => .ok (t.writeMaskAll c.gid k.toNat (c.gang.mask a.toNat))

def execMmovMG (k : BitVec 8) (a : Reg) (s : State) : Out :=
  issueInstr (.mmovMG k a) s fun c t => .ok (t.writeMaskAll c.gid k.toNat (BitVec.ofNat 32 (c.u 0)))

def execMmovGM (d : Reg) (a : BitVec 8) (s : State) : Out :=
  issueInstr (.mmovGM d a) s fun c t => .ok (c.writeU t d.toNat 1 (c.gang.mask a.toNat).toNat)

/-- MPOP (R98): the count, the lowest or the highest set bit, 32 where there is none. -/
def mpopOf (v : Nat) (m : BitVec 32) : Nat :=
  match v with
  | 0 => popcount m
  | 1 => (lanes m).headD 32
  | _ => (lanes m).getLastD 32

def execMpop (d : Reg) (a : BitVec 8) (v : BitVec 2) (s : State) : Out :=
  issueInstr (.mpop d a v) s fun c t => .ok (c.writeU t d.toNat 1 (mpopOf v.toNat (c.gang.mask a.toNat)))

/-- YIELD (R100): no other gang of the quadrant has been offered a slot since. -/
def execYieldGang (s : State) : Out :=
  issueInstr .yieldGang s fun c t => .ok (t.modGang c.gid fun g => { g with yielded := some [] })

/-- SLEEP (R101): not runnable in the n clk after this one. -/
def execSleep (x : Reg) (s : State) : Out :=
  issueInstr (.sleep x) s fun c t =>
    let n := Nat.min (c.u 0) 1048575
    if n = 0 then .ok t else .ok (t.modLanes c.gid c.run fun _ th => { th with wait := .sleep (c.pre.clk + n) })

def execRoleGet (d : Reg) (s : State) : Out :=
  issueInstr (.roleGet d) s fun c t => .ok (c.writeU t d.toNat 1 c.gang.role.toNat)

def execRoleSet (x : Reg) (s : State) : Out :=
  issueInstr (.roleSet x) s fun c t => .ok (t.modGang c.gid fun g => { g with role := BitVec.ofNat 2 (c.u 0) })

/-- A sleep of the target gang's lane ends once its clk have passed, for every thread of its run (R101). -/
def execSleepEnd (s : State) : Out :=
  let g := s.gang s.choice.target
  let x := g.thread s.choice.lane
  match x.wait with
  | .sleep wake =>
    if wake < s.clk ∧ hasLane g.live s.choice.lane then
      .next (s.modLanes s.choice.target (BitVec.allOnes 32) fun _ t =>
        if t.wait = .sleep wake ∧ t.pc = x.pc then { t with wait := .none } else t)
    else .next s
  | _ => .next s

/-- A starvation turn of the target gang (R80): its next issue cycle offers the run that has waited longest among those
that can issue, which that cycle tells. -/
def execStarvationTurn (s : State) : Out :=
  if s.starved s.choice.target then
    .next (s.modGang s.choice.target fun g => { g with offer := s.starvationPick (fun _ t => .next t) s.choice.target })
  else .next s

end Sys2Proof.Machine
end

