-- ==== Sys2Proof/Machine/Access.lean ====
section
/-! DEFINITION. Loads, stores, prefetches, their completion, translation and failure (spec/06_streams.md R154 to R163,
R178, spec/07_access.md R185 to R200, R207, spec/17_system.md R448, R451). -/

namespace Sys2Proof.Machine

/-! ### Translation of an operation -/

/-- The access an operation translates for; a prefetch is dropped, not translated (R194). -/
def Op.translates (o : Op) : Bool := o.place.isNone && (match o.kind with | .prefetch .. => false | _ => o.kind.access.isSome)

/-- A stack-scope write, an RCHK or a RESYNC, which a stale replica does not fault (R404, R409 to R411), or an atomic, which no
replica serves (R217): a load, or a store of scope layer or narrower, does fault there, when it is performed (R176). -/
def Op.aqueduct (o : Op) : Bool :=
  match o.kind with | .store .. => decide (4 ≤ o.scope) | .mcst .. => true | .atomic .. => true | .rchk .. => true | .resync .. => true | _ => false

/-- The atomics a place does not perform (R217): op 0 add, 6 swap, 16 compare and swap. -/
def atomicRefused (p : Place) (k : OpKind) : Bool :=
  match k, p with
  | .atomic _ size op .., .host .. => !(op == 0 || op == 6 || op == 16) || decide (8 < size)
  | .atomic .., .replica .. => true
  | _, _ => false

/-- The translation of an aqueduct instruction: a page outside the replicated regions is replica-invalid, whatever its
permissions; only MCST needs write permission; a stale replica is no fault (R409 to R411). -/
def State.aqPlace (s : State) (l via va : Nat) (write : Bool) : Tr :=
  match s.leafOf l via va with
  | .absent r => .fault 0x13 r
  | .format => .fault 0x15 false
  | .leaf base log pte =>
    let r := bits pte 5 0
    if pteKind pte = 2 ∧ regionKind (look (s.layer l).regions r 0) = 3 then
      s.placeOf l (if write then .write else .read) true va base log (if write then pte else pte ||| 2 ^ 42)
    else if 2 ≤ pteKind pte then
      -- Outside its region the address maps nothing, and a revoked window's page is no longer a page (R397, R398).
      match s.placeOf l .read true va base log (pte ||| 2 ^ 42) with
      | .fault 0x15 r => .fault 0x15 r
      | .fault 0x1B r => .fault 0x1B r
      | _ => .fault 0x1A false
    else .fault 0x1A false

/-- The translation of an access that no replicated page takes: there it fails with a cause of its own, whatever the state of its
replica and its key. -/
def State.offReplica (s : State) (l via : Nat) (acc : Access) (cause va : Nat) : Tr :=
  match s.leafOf l via va with
  | .absent r => .fault 0x13 r
  | .format => .fault 0x15 false
  | .leaf base log pte =>
    match s.placeOf l acc true va base log pte with
    | .ok (.replica ..) => .fault cause false
    | .fault 0x16 r => .fault (if pteKind pte = 2 ∧ regionKind (look (s.layer l).regions (bits pte 5 0) 0) = 3 then cause else 0x16) r
    | t => t

/-- The translation of an atomic update: a replicated page is unsupported-atomic (R217, R344, R366). Where the page lacks RD or W as
well, page-protection comes first: DESIGN CHOICE (notes/assumptions/54.md). -/
def State.atomicPlace (s : State) (l via va : Nat) : Tr := s.offReplica l via .atomic 0x18 va

/-- The translation of an operation's own access. Whether a replica is stale is asked when the access is performed: an earlier
RESYNC may have cleared the mark by then (R176). -/
def State.translateOp (s : State) (o : Op) (ea : Nat) (acc : Access) : Tr :=
  match o.kind with
  | .mcst .. => s.aqPlace o.layer (s.viaOf o.crew) ea true
  | .rchk .. => s.aqPlace o.layer (s.viaOf o.crew) ea false
  | .resync .. => s.aqPlace o.layer (s.viaOf o.crew) ea false
  | .atomic .. => s.atomicPlace o.layer (s.viaOf o.crew) ea
  | _ => s.translate o.layer (s.viaOf o.crew) acc true ea

/-- The outcome of a translation, noted on the operation (R178, R207). It faults as its edges stand satisfied, not before: what it is ordered
after may map its page, or install its key (R449, R450). -/
def State.noteTranslation (s : State) (i : Nat) : State :=
  match s.opAt i with
  | none => s
  | some o =>
    match o.kind.access with
    | none => s
    | some (ea, _, acc) =>
      match s.translateOp o ea acc, s.edgesMet o with
      | .ok p, met =>
        if !atomicRefused p o.kind then s.modOp i fun o => { o with place := some p }
        else if met then s.modOp i fun o => { o with failed := some (0x18, ea) } else s
      | .fault _ _, false => s
      | .fault c true, true => (s.modOp i fun o => { o with waiting := true }).postFault o.layer c ea
      | .fault c false, true => s.modOp i fun o => { o with failed := some (c, ea) }

/-- The operations of the instruction just issued are translated where a TLB holds their page. -/
def State.translateHits (s : State) (inst : Nat) : State :=
  (s.ops.map (·.1)).foldl (init := s) fun t i =>
    match t.opAt i with
    | none => t
    | some o =>
      match o.kind.access with
      | some (ea, _, _) =>
        if o.inst == inst && o.translates && (t.tlbHit o.layer (t.viaOf o.crew) ea).isSome then t.noteTranslation i else t
      | none => t

/-! ### Issue -/

/-- Bytes of an access by type (R185). -/
def accessSize (p : OPfx) (x4 : Bool) : Nat := if x4 then 16 else typeBits (effType p 9) / 8

/-- The destination of lane l's load: its own v registers, or the g register for the lowest active lane (R54, R190). -/
def Ctx.laneDest (c : Ctx) (d n l : Nat) : Option Dest :=
  if d < 192 then some ⟨d, n, laneBit l⟩ else if l = c.lane0 then some ⟨d, n, laneBit l⟩ else none

/-- Checks every lane, then issues one operation a lane (R189, R154). -/
def Ctx.issueLanes (c : Ctx) (t : State) (o : Ord) (addr : Nat → LaneAddr) (kind : Nat → OpKind) : Effect :=
  c.checked (fun l => (addr l).bad)
    (.ok ((c.addLanes t o kind fun l => (addr l).place).translateHits t.next))

/-- A lane-set load (R190). -/
def loadInstr (i : Instr) (space : Nat) (p : OPfx) (d : Reg) (x4 : Bool) (o : Ord) (s : State) : Out :=
  issueInstr i s fun c t =>
    let size := accessSize p x4
    let n := memSize p x4
    let addr (l : Nat) := c.pre.laneAddr c.crewId space (c.val 0 l) o size
    c.checked (fun l => (addr l).bad) <|
      let t := c.zeroRest t d.toNat n
      c.issueLanes t o addr fun l => .load (addr l).ea.toNat size (if x4 then 9 else effType p 9) (c.laneDest d.toNat n l)

/-- A lane-set store (R191). -/
def storeInstr (i : Instr) (space : Nat) (p : OPfx) (x4 : Bool) (o : Ord) (s : State) : Out :=
  issueInstr i s fun c t =>
    let size := accessSize p x4
    let addr (l : Nat) := c.pre.laneAddr c.crewId space (c.val 0 l) o size
    c.issueLanes t o addr fun l => .store (addr l).ea.toNat (toBytes (c.val 1 l) size)

def execLdg (p : OPfx) (d a : Reg) (x4 : Bool) (o : Ord) (s : State) : Out := loadInstr (.ldg p d a x4 o) 0 p d x4 o s
def execStg (p : OPfx) (d a : Reg) (x4 : Bool) (o : Ord) (s : State) : Out := storeInstr (.stg p d a x4 o) 0 p x4 o s
def execLds (p : OPfx) (d a : Reg) (x4 : Bool) (o : Ord) (s : State) : Out := loadInstr (.lds p d a x4 o) 1 p d x4 o s
def execSts (p : OPfx) (d a : Reg) (x4 : Bool) (o : Ord) (s : State) : Out := storeInstr (.sts p d a x4 o) 1 p x4 o s
def execLdp (p : OPfx) (d a : Reg) (x4 : Bool) (o : Ord) (s : State) : Out := loadInstr (.ldp p d a x4 o) 2 p d x4 o s
def execStp (p : OPfx) (d a : Reg) (x4 : Bool) (o : Ord) (s : State) : Out := storeInstr (.stp p d a x4 o) 2 p x4 o s

def execPfg (p : OPfx) (a : Reg) (lvl : Bool) (o : Ord) (s : State) : Out :=
  issueInstr (.pfg p a lvl o) s fun c t =>
    let addr (l : Nat) := c.pre.laneAddr c.crewId 0 (c.val 0 l) o 4
    c.issueLanes t o addr fun l => .prefetch (addr l).ea.toNat (!lvl)

/-- The single access of a uniform form (R196); its trap names the lowest active lane. -/
def Ctx.issueUni (c : Ctx) (t : State) (o : Ord) (a : LaneAddr) (kind : OpKind) : Effect :=
  match a.bad with
  | some (cause, faddr) => .trap cause faddr c.lane0
  | none => .ok ((c.addUni t o kind a.place).translateHits t.next)

def uniLoad (i : Instr) (space : Nat) (d : Reg) (sz : BitVec 2) (o : Ord) (s : State) : Out :=
  issueInstr i s fun c t =>
    let n := 2 ^ sz.toNat
    let a := c.pre.laneAddr c.crewId space (c.u 0) o (4 * n)
    c.issueUni t o a (.load a.ea.toNat (4 * n) 9 (some ⟨d.toNat, n, c.act⟩))

def uniStore (i : Instr) (space : Nat) (sz : BitVec 2) (o : Ord) (s : State) : Out :=
  issueInstr i s fun c t =>
    let n := 2 ^ sz.toNat
    let a := c.pre.laneAddr c.crewId space (c.u 0) o (4 * n)
    c.issueUni t o a (.store a.ea.toNat (toBytes (c.u 1) (4 * n)))

def execUldg (d a : Reg) (sz : BitVec 2) (o : Ord) (s : State) : Out := uniLoad (.uldg d a sz o) 0 d sz o s
def execUstg (d a : Reg) (sz : BitVec 2) (o : Ord) (s : State) : Out := uniStore (.ustg d a sz o) 0 sz o s
def execUlds (d a : Reg) (sz : BitVec 2) (o : Ord) (s : State) : Out := uniLoad (.ulds d a sz o) 1 d sz o s
def execUsts (d a : Reg) (sz : BitVec 2) (o : Ord) (s : State) : Out := uniStore (.usts d a sz o) 1 sz o s

/-- SWAIT (R163): it waited at issue. -/
def execSwait (sm : BitVec 8) (n : BitVec 8) (s : State) : Out := issueInstr (.swait sm n) s fun _ t => .ok t

/-! ### Performing a read -/

def Place.isReplica : Place → Bool
  | .replica .. => true
  | _ => false

/-- Memory that the cores cache (R199). -/
def Place.cached : Place → Bool
  | .home .. => true
  | .replica .. => true
  | _ => false

/-- One byte of a store's data over a value read at place k, where the store covers it. -/
def overlay (k : Nat) (bs : List Byte) (sk : Nat) (data : List Byte) : List Byte :=
  bs.mapIdx fun j b => if sk ≤ k + j ∧ k + j < sk + data.length then data.getD (k + j - sk) b else b

/-! ### The store buffer -/

/-- The stores operation o's agent sees ahead of memory: those that a store buffer shows it, and those that it sees from outside their
instance, in the order they came to stand there (R165, R200). -/
def State.storeBuffer (s : State) (o : Op) : List (Nat × Op) :=
  ((s.ops.filter fun p => s.shows p.2 o || s.leaks p.2 o).foldl (fun a p => insert a p.2.rank p) []).map (·.2)

/-- A store's place in memory and its bytes. -/
def State.storeBytes (s : State) (o : Op) : Option (Nat × List Byte) :=
  match o.kind with
  | .store _ data => (s.whereOf o).map fun q => (s.key q, data)
  | .mcst _ data => (s.whereOf o).map fun q => (s.key q, data)
  | _ => none

/-- Two operations have a thread in common. -/
def Op.sameThread (o p : Op) : Bool := o.gang == p.gang && (o.threads &&& p.threads) != 0

/-- The stores a read of operation i sees ahead of memory, the last over the others: stores that are its own thread's, are visible at
its scope, or leak to its agent, in their order; then its thread's earlier plain ones not yet there (R160, R165, R192, R200). -/
def State.seenStores (s : State) (i : Nat) (o : Op) : List (Nat × List Byte) :=
  ((s.storeBuffer o).filter fun p => s.leaks p.2 o || decide (o.scope ≤ p.2.shown) || p.2.sameThread o).filterMap (fun p => s.storeBytes p.2)
    ++ (s.ops.filter fun p => p.2.sameThread o && !p.2.captured && !p.2.visible && !p.2.buffered && !p.2.vol && decide (p.1 < i)).filterMap
        fun p => s.storeBytes p.2

/-- The bytes a non-volatile load returns, over those of memory. -/
def State.loadBytes (s : State) (i : Nat) (o : Op) (p : Place) (n : Nat) : List Byte :=
  (s.seenStores i o).foldl (fun bs st => overlay (s.key p) bs st.1 st.2) (o.early.getD (s.readAt p n))

/-- A store over the same bytes that the operation's agent sees stands in a store buffer. -/
def State.bufferHolds (s : State) (o : Op) : Bool := (s.storeBuffer o).any fun p => s.overlap p.2 o

/-- A load waits for another thread's buffered store over its bytes that is not yet visible at its scope, a volatile one for every buffered
store there (R168, R192, R200). -/
def State.readHeld (s : State) (o : Op) : Bool :=
  (s.storeBuffer o).any fun p => (o.vol || (!p.2.sameThread o && !s.leaks p.2 o && decide (p.2.shown < o.scope))) && s.overlap p.2 o

/-- What stands in the way of performing a load: an earlier access of its thread that must come first (R160, R168), or a buffered store.
A plain load may pass its thread's plain stores, whose bytes it returns. -/
def State.readBlocked (s : State) (i : Nat) (o : Op) : Bool :=
  (s.blockers i o).any (fun p => !p.2.kind.isStore || p.2.vol || o.vol) || s.readHeld o

/-- A loaded value by its type (R190). -/
def loadValue (t : Nat) (bs : List Byte) : Nat :=
  let x := ofBytes bs
  if t = 1 ∨ t = 2 then trunc (sext x (typeBits t)) 32 else x

/-- The place lies in a replica that is marked stale as it stands (R176, R404). -/
def State.staleAt (s : State) (p : Place) : Bool :=
  match p with
  | .replica l r _ => look (s.layer l).stale r false
  | _ => false

/-- What a read meets (R451, R197, R176): a fatal answer, or the state with its corrected error counted. -/
def State.readMeets (s : State) (o : Op) (p : Place) (ea n : Nat) : Except (State × Nat × Nat) State :=
  let line := ea / 64 * 64
  match p, s.choice.answer with
  | .host .., .status _ => .error (s, 0x17, ea)
  | _, _ =>
    if s.staleAt p && !o.aqueduct then .error (s, 0x19, ea)
    else match s.choice.err with
    | .uncorrectable => .error (s.poisonLine (s.key p), 0x1C, line)
    | .corrected => if s.poisoned p n then .error (s, 0x1C, line) else .ok (s.countCorrected o.layer)
    | .none => if s.poisoned p n then .error (s, 0x1C, line) else .ok s

/-- The host's own writes to its memory are an input: the answer of a read there may bring new bytes. -/
def State.hostAnswer (s : State) (p : Place) (n : Nat) : State :=
  match p, s.choice.answer with
  | .host .., .data b => if b.length = n then s.writeAt p b else s
  | _, _ => s

/-- A plain load of scope layer or narrower may read memory before its edges are met; what its instance writes since, it reads
again (R165, R166). -/
def Op.readsEarly (o : Op) (p : Place) : Bool := !o.vol && p.cached && decide (o.scope ≤ 3)

/-- LOAD_COMPLETE of the target operation (R155, R162, R190). Where the choice's unit is 1, the load only reads early. -/
def execLoadComplete (s : State) : Out :=
  let i := s.choice.target
  match s.opAt i with
  | none => .next s
  | some o =>
    match o.kind, o.place with
    | .load ea size ty d, some p =>
      if o.captured || s.readBlocked i o then .next s
      else if s.choice.unit = 1 then .next (if o.readsEarly p then s.modOp i fun o => { o with early := some (s.readAt p size) } else s)
      else if !s.edgesMet o then .next s
      else
        match s.readMeets o p ea size with
        | .error (t, cause, faddr) => .next (t.fail i cause faddr o.lane none)
        | .ok t =>
          let t := t.hostAnswer p size
          let bs := if o.vol then t.readAt p size else t.loadBytes i o p size
          .next (t.finish i d (loadValue ty bs))
    | _, _ => .next s

/-! ### Stores -/

/-- Lanes of an instruction that are performed together: those over the bytes of one of them; of a volatile instruction, whose
lanes are performed in ascending order, every lane between two that are (R161, R168). -/
def State.closeGroup (s : State) (vol : Bool) (mates : List (Nat × Op)) : Nat → List (Nat × Op) → List (Nat × Op)
  | 0, g => g
  | k + 1, g =>
    let lo := g.foldl (fun a p => Nat.min a p.1) ((g.map (·.1)).headD 0)
    let hi := g.foldl (fun a p => Nat.max a p.1) 0
    let g' := mates.filter fun p => (vol && decide (lo ≤ p.1) && decide (p.1 ≤ hi)) || g.any fun q => q.1 == p.1 || s.overlap q.2 p.2
    if g'.length = g.length then g else s.closeGroup vol mates k g'

/-- An operation is carried by the aqueduct (R173, R403). -/
def State.isAqueduct (s : State) (o : Op) : Bool :=
  match o.kind with
  | .mcst .. => true
  | .rchk .. => true
  | .resync .. => true
  | .store .. => decide (4 ≤ o.scope) && (match s.whereOf o with | some (.replica ..) => true | _ => false)
  | _ => false

/-- The operations performed with operation i, in lane order (R161). The lanes of a volatile store that uses the aqueduct are performed
one after another, each at its own slot (R168, R405). -/
def State.siblings (s : State) (i : Nat) (o : Op) : List (Nat × Op) :=
  let mates := s.ops.filter fun p => p.1 == i
    || (p.2.inst == o.inst && p.2.gang == o.gang && !p.2.captured && !p.2.visible && p.2.buffered == o.buffered && p.2.kind.access.isSome)
  if o.vol && mates.any (fun p => s.isAqueduct p.2) then mates.filter fun p => p.1 == i
  else s.closeGroup o.vol mates 32 (mates.filter fun p => p.1 == i)

/-- Every sibling can be performed now, but for what stands in the store buffer. -/
def State.storesReady (s : State) (l : List (Nat × Op)) : Bool :=
  l.all fun p => p.2.place.isSome && p.2.failed.isNone && !p.2.captured && s.edgesMet p.2
    && (s.blockers p.1 p.2).all fun b => l.any (·.1 == b.1)

/-- The doorbell of the layer's call slot: a volatile store of 1 at scope system to its byte 60 (R474). -/
def State.ringKernel (s : State) (o : Op) (ea : Nat) (data : List Byte) : State :=
  if o.vol && o.scope == 5 && ea == (s.layer o.layer).kcall + 60 && data == toBytes 1 4 then
    s.setLayer o.layer { s.layer o.layer with rung := some s.clk }
  else s

/-- A store of stack scope to a replicated region travels the aqueduct (R173, R403). -/
def Op.byAqueduct (o : Op) : Bool := decide (4 ≤ o.scope) && (match o.place with | some (.replica ..) => true | _ => false)

/-- The reference copy of a region's offset (R403). -/
def refPlace (e off : Nat) : Place := .home ((regionMembers e).headD 0) (regionRbase e + off) (bits e 171 162)

/-- A write applied to the reference copy and to every replica but those of the members that `skip` names (R403, R404, R409). -/
def State.applyWrite (s : State) (l r off : Nat) (data : List Byte) (skip : Nat → Bool) : State :=
  let e := look (s.layer l).regions r 0
  let s := s.writeAt (refPlace e off) data
  (regionMembers e).foldl (init := s) fun t k => if skip k then t else t.writeAt (.replica k r off) data

/-- The members an aqueduct write is not applied to: those its slot found asleep or stale (R404, R409). -/
def Op.skips (o : Op) (k : Nat) : Bool := tbit o.slotAsleep k || tbit o.slotStale k

/-- Where an aqueduct write of n bytes writes: the members' replicas and the reference copy. -/
def State.aqRanges (s : State) (l r off n : Nat) : List (Nat × Nat) :=
  let e := look (s.layer l).regions r 0
  (s.key (refPlace e off), n) :: (regionMembers e).map fun k => (s.key (.replica k r off), n)

/-- The write of an aqueduct operation. -/
def State.applyOp (s : State) (o : Op) (l r off : Nat) (data : List Byte) : State :=
  (s.applyWrite l r off data o.skips).freshen o (s.aqRanges l r off data.length)

/-- Once a lane of a volatile instruction writes, or has its slot, no other write comes between it and the later lanes over its bytes
(R161, R168). -/
def State.holdNext (s : State) (i : Nat) (o : Op) : State :=
  if o.vol then
    { s with ops := s.ops.map fun (p : Nat × Op) =>
        if p.2.gang = o.gang ∧ p.2.inst = o.inst ∧ i < p.1 ∧ !p.2.visible ∧ s.overlap o p.2 then (p.1, { p.2 with adjacent := true }) else p }
  else s

/-- A store's write, into the place it goes to; a local write to a stale replica fails instead (R176). -/
def State.writeOp (s : State) (i : Nat) : State :=
  match s.opAt i with
  | none => s
  | some o =>
    match o.kind, o.place with
    | .store ea data, some p =>
      let done (t : State) : State := ((t.modOp i fun o => { o with visible := true }).holdNext i o).ringKernel o ea data
      if o.byAqueduct then
        match p with
        | .replica l r off => done (s.applyOp o l r off data)
        | _ => s
      else if s.staleAt p then s.fail i 0x19 ea o.lane none
      else done ((s.writeAt p data).freshen o [(s.key p, data.length)])
    | _, _ => s

/-- A store of another instruction holds bytes of a write that stands nowhere yet: it leaks, so that some agents have it in their
coherence order and others not (R160), or its instruction's lanes are being written over them (R161). -/
def State.held (s : State) (q : Op) : Bool :=
  !q.buffered && q.key.isNone && s.ops.any fun p =>
    (p.2.leaked || p.2.adjacent) && !p.2.visible && !(p.2.gang == q.gang && p.2.inst == q.inst) && s.overlap p.2 q

/-- A store that must be written before those of a group: one over the same bytes that holds them, or that stands in a store buffer that
the group's agent sees; of two buffered stores that one of their agents sees together, the one that entered first (R160, R200). -/
def State.bufferedBefore (s : State) (l : List (Nat × Op)) : Bool :=
  l.any fun q => s.held q.2 || s.ops.any fun p =>
    p.2.inBuffer && (s.within p.2.shown p.2 q.2 || (q.2.buffered && s.within q.2.shown q.2 p.2)) && (!q.2.buffered || decide (p.2.rank < q.2.rank))
      && !(l.any (·.1 == p.1)) && s.overlap p.2 q.2

/-- Every aqueduct operation with a smaller key than the keyed ones of a group has been applied; an unkeyed aqueduct store of the
group has no turn (R406). An RCHK or a RESYNC with a smaller key has read (R410, R411). -/
def State.keyTurn (s : State) (l : List (Nat × Op)) : Bool :=
  l.all fun q => match q.2.key with
    | some k => s.ops.all fun p => match p.2.key with
      | some j => decide (k ≤ j) || p.2.visible || l.any (·.1 == p.1)
      | none => true
    | none => !q.2.byAqueduct

/-- The stores may stand in the store buffer, where their thread's earlier stores stand before them; earlier loads and atomics over
their bytes have been performed (R160, R200). -/
def State.canBuffer (s : State) (l : List (Nat × Op)) : Bool :=
  l.all fun p => p.2.place.isSome && p.2.failed.isNone && s.edgesMet p.2 && !s.held p.2
    && (s.blockers p.1 p.2).all fun b => b.2.buffered || l.any (·.1 == b.1)

/-- The stores stand in the store buffer, shown to the instance of a scope; they keep the order in which they entered. -/
def State.enterBuffer (s : State) (v : Nat) (l : List (Nat × Op)) : State :=
  l.foldl (init := s) fun t p =>
    { t.modOp p.1 fun o => { o with buffered := true, shown := v, rank := if o.buffered then o.rank else t.next } with next := t.next + 1 }

/-- Operation p cannot be performed before q: an edge that is not met, the order of its thread's accesses, or q is performed with it. -/
def State.goesBefore (s : State) (p q : Nat × Op) : Bool :=
  (p.2.after.contains q.1 && !s.edgeMet p.2 q.1) || (s.blockers p.1 p.2).any (·.1 == q.1) || (s.siblings p.1 p.2).any (·.1 == q.1)

/-- Operations, with what goes before them, through others or not. -/
def State.withEarlier (s : State) : Nat → List (Nat × Op) → List (Nat × Op)
  | 0, l => l
  | n + 1, l =>
    let more := s.ops.filter fun q => !(l.any (·.1 == q.1)) && l.any fun p => s.goesBefore p q
    if more.isEmpty then l else s.withEarlier n (l ++ more)

/-- A load, a store or an atomic that waits for nothing but what goes before it. -/
def State.unheld (s : State) (q : Nat × Op) : Bool :=
  q.2.place.isSome && !q.2.waiting && q.2.failed.isNone && !q.2.captured && !s.held q.2 && !s.isAqueduct q.2
    && match q.2.kind with
      | .load .. => !s.readHeld q.2
      | .store .. => !s.bufferedBefore [q]
      | .atomic .. => !s.bufferHolds q.2
      | _ => false

/-- The stores may leak: agents outside their instance, which their edges do not bind, may see them now (R165). What goes before them
waits for nothing else and lies over other bytes, and nothing else stands over theirs, so that no write waits in a circle. -/
def State.canLeak (s : State) (l : List (Nat × Op)) : Bool :=
  (l.all fun q => decide (q.2.scope ≤ 3) && !q.2.buffered && !q.2.leaked && q.2.failed.isNone
    && (match q.2.place with | some (.home ..) => true | _ => false)
    && (s.blockers q.1 q.2).all (fun b => l.any (·.1 == b.1))
    && !(s.ops.any fun p => !(l.any (·.1 == p.1)) && (p.2.inBuffer || p.2.leaked || p.2.adjacent) && s.overlap p.2 q.2))
  && (s.withEarlier s.ops.length l).all fun p => l.any (·.1 == p.1)
    || (s.unheld p && ((match p.2.kind with | .load .. => true | _ => false) || l.all fun q => !s.overlap p.2 q.2))

def State.leak (s : State) (l : List (Nat × Op)) : State :=
  l.foldl (init := s) fun t p => { t.modOp p.1 fun o => { o with leaked := true, rank := t.next } with next := t.next + 1 }

/-- The group can be written now: every lane ready, what stands in the store buffers before it written, and its turn come on the
aqueduct (R160, R161, R406). -/
def State.groupReady (s : State) (l : List (Nat × Op)) : Bool := s.storesReady l && !s.bufferedBefore l && s.keyTurn l

/-- STORE_COMPLETE of the target operation (R155, R200). A store of scope gang completes in the store buffer first and leaves it by a
second STORE_COMPLETE; one that is posted to a host completes as its request leaves the port, and a second STORE_COMPLETE has it reach
the host. Where the choice's unit is 1, 2 or 3, a plain store comes to stand in the store buffer, shown to its gang, crew
or convoy as far as its scope reaches (R158); where it is 4, it leaks (R165). Stack-scope stores to a replicated region travel the
aqueduct instead. -/
def execStoreComplete (s : State) : Out :=
  let i := s.choice.target
  match s.opAt i with
  | none => .next s
  | some o =>
    match o.kind, o.place with
    | .store ea _, some p =>
      let l := s.siblings i o
      let plain := p.cached && !o.vol
      let v := s.choice.unit - 1
      if o.captured || o.byAqueduct then .next s
      else if o.visible then .next (s.finish i none 0)
      else if plain && s.choice.unit == 4 then .next (if s.canLeak l then s.leak l else s)
      else if plain && (s.choice.unit != 0 || (o.scope == 0 && !o.buffered)) then
        if decide (Nat.min o.scope 2 < v) || (o.buffered && decide (v ≤ o.shown)) || !s.canBuffer l then .next s
        else if s.staleAt p then .next (s.fail i 0x19 ea o.lane none)
        else .next ((s.enterBuffer v l).enterTrap o.gang)
      else if !o.buffered && l.all (·.2.posted) then .next (if s.canBuffer l then (s.enterBuffer o.scope l).enterTrap o.gang else s)
      else if !s.groupReady l then .next s
      else
        match p.isHost && !o.posted, s.choice.answer with
        | true, .status _ => .next (s.fail i 0x17 ea o.lane none)
        | _, _ =>
          if s.staleAt p then .next (s.fail i 0x19 ea o.lane none)
          else .next ((l.foldl (fun t q => t.writeOp q.1) s).finish i none 0)
    | _, _ => .next s

/-- An uncorrectable error in a line read ahead of use poisons it and is logged as latent (R452). -/
def State.latent (s : State) (l key : Nat) : State :=
  let t := s.poisonLine key
  let t := t.setLayer l { t.layer l with raslat := ((t.layer l).raslat + 1) % 2 ^ 32 }
  t.postLayer l { kind := 7, info := (t.layer l).raslat }

/-- What a line read ahead of use meets (R451, R452). -/
def State.readAhead (s : State) (l : Nat) (p : Place) : State :=
  match s.choice.err with
  | .uncorrectable => if p.cached then s.latent l (s.key p) else s
  | .corrected => if p.cached then s.countCorrected l else s
  | .none => s

/-- PREFETCH_COMPLETE (R194, R452): the line is asked for or the request dropped. Where the choice names no operation, it is the
instruction prefetch of the line at the choice's value in its layer. -/
def execPrefetchComplete (s : State) : Out :=
  let i := s.choice.target
  match s.opAt i with
  | none =>
    match s.translate s.choice.layer 0 .fetch false s.choice.value with
    | .ok p => .next (s.readAhead s.choice.layer p)
    | .fault .. => .next s
  | some o =>
    match o.kind with
    | .prefetch ea _ =>
      if o.captured || !s.edgesMet o then .next s
      else
        let t := match s.tlbHit o.layer (s.viaOf o.crew) ea, s.translate o.layer (s.viaOf o.crew) .read false ea with
          | some _, .ok p => s.readAhead o.layer p
          | _, _ => s
        .next (t.finish i none 0)
    | _ => .next s

/-! ### Translation, replay, failure -/

/-- PAGE_TABLE_WALK of the target operation (R207, R447, R448). -/
def execPageTableWalk (s : State) : Out :=
  let i := s.choice.target
  match s.opAt i with
  | none => .next s
  | some o =>
    if o.translates && !o.waiting && o.failed.isNone && !o.captured then
      match o.kind.access with
      | some (ea, _, _) => .next ((s.fillTlb o.layer (s.viaOf o.crew) ea).noteTranslation i)
      | none => .next s
    else .next s

/-- Every access of a layer that waits on a replayable fault walks again (R448). -/
def State.replay (s : State) (l : Nat) : State :=
  { s with
    ops := s.ops.map fun (p : Nat × Op) => if p.2.layer = l then (p.1, { p.2 with waiting := false }) else p
    gangs := s.gangs.map fun (p : Nat × Gang) => if s.layerOf p.1 = l then (p.1, { p.2 with fetchWait := [] }) else p
    layers := alter s.layers l fun y => { y with waits := [] } }

def execReplay (s : State) : Out := .next (s.replay s.choice.layer)

/-- Barges and point commands fail by acts of their own. -/
def OpKind.ownFault : OpKind → Bool
  | .barge .. => true
  | .point .. => true
  | _ => false

/-- OPERATION_FAILURE (R178): the target operation's fatal fault takes effect. -/
def execOperationFailure (s : State) : Out :=
  let i := s.choice.target
  match s.opAt i with
  | none => .next s
  | some o =>
    match o.failed with
    | some (cause, faddr) => if o.captured || o.kind.ownFault then .next s else .next (s.fail i cause faddr o.lane none)
    | none => .next s

/-- A port's completion timeout has passed since a request left it: CTO is in µs (R197, R479). -/
def State.timedOut (s : State) (port : Nat) (sent : Option Nat) : Bool :=
  match sent with
  | some c => decide ((s.port port).cto * s.clkMhz ≤ s.clk - c)
  | none => false

/-- The operations that one PCIe AtomicOp carries with operation i: the lanes of a fetch-and-add to one address (R217). -/
def State.oneRequest (s : State) (i : Nat) (o : Op) : List (Nat × Op) :=
  match o.kind with
  | .atomic _ _ 0 .. => s.ops.filter fun p => p.2.inst == o.inst && p.2.gang == o.gang && !p.2.captured && !p.2.visible && s.overlap p.2 o
  | _ => [(i, o)]

/-- A host aborts a request, or does not complete it in time: every operation it carries fails (R197, R217). -/
def State.hostAbort (s : State) (i : Nat) (o : Op) : State :=
  (s.oneRequest i o).foldl (init := s) fun t p =>
    match p.2.kind.access with | some (ea, _, _) => t.fail p.1 0x17 ea p.2.lane none | none => t

/-- HOST_COMPLETION_TIMEOUT (R197): the target operation's PCIe request gets no completion in time; a posted store waits for none (R200). -/
def execHostCompletionTimeout (s : State) : Out :=
  let i := s.choice.target
  match s.opAt i with
  | none => .next s
  | some o =>
    match o.place with
    | some (.host port _) =>
      if !o.captured && !o.visible && !(o.kind.isStore && o.posted) && s.edgesMet o && s.timedOut port o.sent then .next (s.hostAbort i o) else .next s
    | _ => .next s

end Sys2Proof.Machine
end

