-- ==== Sys2Proof/Machine/Aqueduct.lean ====
section
/-! DEFINITION. Replicated regions, the aqueduct and its instructions (spec/16_stack.md R403 to R415,
spec/06_streams.md R173 to R176). -/

namespace Sys2Proof.Machine

def State.isStale (s : State) (l r : Nat) : Bool := look (s.layer l).stale r false
def State.setStale (s : State) (l r : Nat) (b : Bool) : State :=
  s.setLayer l { s.layer l with stale := put (s.layer l).stale r b false }

/-! ### Instructions -/

def execMcst (x a : Reg) (sz : BitVec 2) (o : Ord) (s : State) : Out :=
  issueInstr (.mcst x a sz o) s fun c t =>
    let n := 4 * 2 ^ sz.toNat
    let ad := c.pre.laneAddr c.crewId 0 (c.u 0) o n
    c.issueUni t o ad (.mcst ad.ea.toNat (toBytes (c.u 1) n))

def execRchk (d a : Reg) (o : Ord) (s : State) : Out :=
  issueInstr (.rchk d a o) s fun c t =>
    let ad := c.pre.laneAddr c.crewId 0 (c.u 0) o 64
    c.issueUni t o ad (.rchk ad.ea.toNat ⟨d.toNat, 1, c.act⟩ none)

def execResync (a : Reg) (o : Ord) (s : State) : Out :=
  issueInstr (.resync a o) s fun c t =>
    let ad := c.pre.laneAddr c.crewId 0 (c.u 0) o 64
    c.issueUni t o ad (.resync ad.ea.toNat)

/-- Aqueduct writes (R403): a RESYNC's copy is one. -/
def OpKind.aqWrite : OpKind → Bool
  | .mcst .. => true
  | .resync .. => true
  | .store .. => true
  | _ => false

/-- SLOTQ's value (R412). -/
def State.slotQuery (s : State) (l v : Nat) : Nat :=
  match v with
  | 0 => s.slots % 2 ^ 32
  | 1 => s.slots / 2 ^ 32 % 2 ^ 32
  | 2 =>
    (if s.awake l then 1 else 0)
      + ((List.range 8).map fun k => if s.awake k then 2 ^ (8 + k) else 0).sum
      + ((List.range 8).map fun k => if s.hostmap.getLsbD k == s.hostmap.getLsbD l then 2 ^ (16 + k) else 0).sum
  | _ => (s.ops.filter fun p => p.2.layer == l && p.2.key.isNone && p.2.kind.aqWrite && !p.2.visible && s.isAqueduct p.2).length
      + (s.layer l).aqOwed

def execSlotq (d : Reg) (v : BitVec 2) (s : State) : Out :=
  issueInstr (.slotq d v) s fun c t => .ok (c.writeU t d.toNat 1 (c.pre.slotQuery c.layer v.toNat))

def execSlotr (d : Reg) (s : State) : Out :=
  issueInstr (.slotr d) s fun c t => .ok (c.writeU t d.toNat 2 c.gang.stamp.toNat)

/-- The slot clock has reached a value (R414). -/
def State.slotReached (s : State) (x : Nat) : Bool := decide (diff32 (s.slots % 2 ^ 32) x < 2 ^ 31)

def execSlotw (x : Reg) (s : State) : Out :=
  issueInstr (.slotw x) s fun c t =>
    if c.pre.slotReached (c.u 0) then .ok t else .ok (c.park t fun _ => .slotw (c.u 0))

/-- SLOTW_WAKE of the target gang (R414). -/
def execSlotwWake (s : State) : Out :=
  if !s.seated s.choice.target then .next s
  else .next (s.modGang s.choice.target fun x => { x with threads := x.threads.map fun t =>
    match t.wait with
    | .slotw y => if s.slotReached y then { t with wait := .none, pc := t.pc + 4 } else t
    | _ => t })

/-- RSTAT's value (R415); it needs no permission, and a stale replica is no fault of its. -/
def State.regionStatus (s : State) (l via va : Nat) : Nat :=
  if 2 ^ 57 ≤ va then 0
  else match s.leafOf l via va with
  | .leaf base log pte =>
    let r := bits pte 5 0
    let e := look (s.layer l).regions r 0
    match pteKind pte, s.placeOf l .read true va base log (pte ||| 2 ^ 42) with
    | 2, .ok _ =>
      let stale (k : Nat) : Bool := regionKind e == 3 && s.isStale k r
      regionKind e + (if stale l then 4 else 0) + regionSet e * 2 ^ 8
        + ((regionMembers e).map fun k => if stale k then 2 ^ (16 + k) else 0).sum + r * 2 ^ 24
    | _, _ => 0
  | _ => 0

def execRstat (d a : Reg) (s : State) : Out :=
  issueInstr (.rstat d a) s fun c t => .ok (c.writeU t d.toNat 1 (c.pre.regionStatus c.layer (c.pre.viaOf c.crewId) (c.u 0)))

/-! ### Slots -/

/-- An aqueduct operation may take a slot: it and the lanes written with it are translated, their edges satisfied, their threads'
earlier accesses performed, and what stands in the store buffers before them written (R160, R175, R409). -/
def State.slotReady (s : State) (i : Nat) (o : Op) : Bool :=
  !o.captured && !o.waiting && o.failed.isNone && o.key.isNone && !o.visible && s.isAqueduct o && o.place.isSome
    && s.storesReady (s.siblings i o) && !s.bufferedBefore (s.siblings i o)

/-- The lanes written with an aqueduct operation that travel the aqueduct themselves. -/
def State.carried (s : State) (i : Nat) (o : Op) : List (Nat × Op) := (s.siblings i o).filter fun q => s.isAqueduct q.2

/-- The operations that the aqueduct ports have received: those the choice names, in its order, or all that are ready in the order of
their issue (notes/assumptions/20.md). -/
def State.received (s : State) : List (Nat × Op) :=
  let ready := s.ops.filter fun p => s.slotReady p.1 p.2
  if s.choice.nums.isEmpty then ready else s.choice.nums.filterMap fun i => ready.find? (·.1 == i)

/-- How far layer l's turn at the present slot is behind that of the slot's owner (R405). -/
def State.slotTurn (s : State) (l : Nat) : Nat := (l + 8 - s.slots % 8) % 8

/-- The writes of a layer that its port has received, in order; the lanes of a store over the same bytes are one write (R161). -/
def State.portWrites (s : State) (l : Nat) : List (List (Nat × Op)) :=
  (s.received.filter fun p => p.2.layer == l).foldl (init := []) fun us p =>
    if us.any fun u => u.any (·.1 == p.1) then us else us ++ [s.carried p.1 p.2]

/-- What the present slot is offered to, in order (R405): the slot's owner first, then the other layers in turn; of each layer the blocks
that have no channel yet (none), then its operations. -/
def State.slotQueue (s : State) : List (Nat × Option (List (Nat × Op))) :=
  (List.range 8).flatMap fun k =>
    let l := (s.slots + k) % 8
    List.replicate (Nat.min 4 (s.layer l).aqOwed) (l, none) ++ (s.portWrites l).map fun u => (l, some u)

/-- The members of a set of layers, as a mask. -/
def layerMask (l : List Nat) (p : Nat → Bool) : Nat := (l.map fun k => if p k then 2 ^ k else 0).sum

/-- A RESYNC of member k's replica has its slot and has not ended: what follows that slot reaches the replica after the copy (R411). -/
def State.resyncs (s : State) (r k : Nat) : Bool :=
  s.ops.any fun p => p.2.layer == k && p.2.key.isSome && match p.2.kind, p.2.place with
    | .resync _, some (.replica _ q _) => q == r
    | _, _ => false

/-- The slot of a write passes: members asleep turn stale (R176, R404, R409). -/
def State.passWrite (s : State) (r : Nat) (members : List Nat) : State :=
  members.foldl (fun t k => if t.awake k then t else t.setStale k r true) s

/-- The next key (R405, R406): the next channel of the present slot. -/
def State.nextKey (s : State) : Nat := if s.aqKey ≤ 4 * s.slots then 4 * s.slots else s.aqKey

/-- An operation's slot passes with a key: it meets the members as they are then; a RESYNC's replica is stale from its slot on (R404,
R410, R411). -/
def State.takeSlot (s : State) (q : Nat × Op) (key : Nat) : State :=
  match q.2.place with
  | some (.replica l r _) =>
    let m := regionMembers (look (s.layer l).regions r 0)
    let late (k : Nat) : Bool := q.2.kind.aqWrite && s.resyncs r k
    let t := { (s.modOp q.1 fun o => { o with
      key := some key, slotAsleep := layerMask m fun k => !s.awake k && !late k, slotStale := layerMask m fun k => s.isStale k r && !late k }) with
      aqKey := key + 1 }
    match q.2.kind with
    | .resync _ => (t.passWrite r m).setStale l r true
    | .rchk .. => t
    | _ => (t.passWrite r m).holdNext q.1 q.2
  | _ => s

/-- The channels of the present slot that are left (R405). -/
def State.channels (s : State) : Nat := 4 * s.slots + 4 - s.nextKey

/-- What takes a channel: a write of operations, or a block of one that stands in memory already. -/
def State.takeChannel (s : State) (u : Nat × Option (List (Nat × Op))) (key : Nat) : State :=
  match u.2 with
  | some l => l.foldl (fun t q => t.takeSlot q key) s
  | none => { s.setLayer u.1 { s.layer u.1 with aqOwed := (s.layer u.1).aqOwed - 1 } with aqKey := key + 1 }

/-- AQUEDUCT_SLOT (R405, R406): what has been received fills the channels left of the present slot, in order. -/
def execAqueductSlot (s : State) : Out :=
  if !s.ready.getLsbD 27 then .next s
  else .next ((s.slotQueue.take s.channels).zipIdx.foldl (fun t u => t.takeChannel u.1 (s.nextKey + u.2)) s)

/-- An agent of layer l, its command processor or the FE die for it, may put a write into the present slot: a channel is left, nothing of
its own still waits for one, and nothing that goes before it waits (R405). -/
def State.channelFor (s : State) (l : Nat) : Bool :=
  s.ready.getLsbD 27 && decide (1 ≤ s.channels) && (s.layer l).aqOwed == 0
    && !(s.layers.any fun y => decide (s.slotTurn y.1 < s.slotTurn l) && y.2.aqOwed != 0)
    && !(s.ops.any fun p => decide (s.slotTurn p.2.layer < s.slotTurn l) && s.slotReady p.1 p.2)

/-- The operation completes with its gang's STAMP raised to its key (R413). -/
def State.stampDone (s : State) (i k : Nat) (o : Op) : State :=
  (s.modGang o.gang fun g => { g with stamp := if g.stamp.toNat < k then BitVec.ofNat 64 k else g.stamp }).finish i none 0

/-- AQUEDUCT_WRITE_APPLY of the target operation (R406, R409): a store's lanes over the same bytes are written with it (R161). -/
def execAqueductWriteApply (s : State) : Out :=
  let i := s.choice.target
  match s.opAt i with
  | none => .next s
  | some o =>
    match o.key, o.place with
    | some k, some (.replica l r off) =>
      match o.kind with
      | .mcst _ data =>
        if !s.keyTurn [(i, o)] || s.bufferedBefore [(i, o)] then .next s
        else .next ((s.applyOp o l r off data).stampDone i k o)
      | .store _ _ =>
        let l := s.siblings i o
        if o.visible then .next (s.stampDone i k o)
        else if !s.groupReady l then .next s
        else .next ((l.foldl (fun t q => t.writeOp q.1) s).stampDone i k o)
      | _ => .next s
    | _, _ => .next s

/-- RCHK's result: the members asleep and stale as its slot found them (R410). -/
def State.replicaCheck (s : State) (l r off asleep stale : Nat) : Nat :=
  let e := look (s.layer l).regions r 0
  let want := s.readAt (refPlace e off) 64
  layerMask (regionMembers e) (fun k => !tbit asleep k && !tbit stale k && s.readAt (.replica k r off) 64 != want)
    + stale * 2 ^ 8 + regionSet e * 2 ^ 16 + asleep * 2 ^ 24

/-- RCHK_COMPLETE of the target operation (R410): at its turn it reads; a second RCHK_COMPLETE writes d, once a queue has room. -/
def execRchkComplete (s : State) : Out :=
  let i := s.choice.target
  match s.opAt i with
  | none => .next s
  | some o =>
    match o.kind, o.key, o.place with
    | .rchk _ d (some x), some k, _ =>
      if decide (224 ≤ d.reg) && s.qRoom o.gang (d.reg - 224) == 0 then .next s
      else .next ((if d.reg < 224 then s.writeDest o.gang d (fun _ => x) else s.push o.gang (d.reg - 224) [x]).stampDone i k o)
    | .rchk ea d none, some _, some (.replica l r off) =>
      if !s.keyTurn [(i, o)] then .next s
      else
        match s.readMeets o (.replica l r off) ea 64 with
        | .error (t, cause, faddr) => .next (t.fail i cause faddr o.lane none)
        | .ok t =>
          let x := t.replicaCheck l r off o.slotAsleep o.slotStale
          .next (t.modOp i fun o => { o with visible := true, kind := .rchk ea d (some x) })
    | _, _, _ => .next s

/-- The cells that stand at [src, src + n) in `old`, copied over [dst, dst + n). -/
def Memory.copyRange (old m : List Host.Cell) (src dst n : Nat) : List Host.Cell :=
  let cells := (old.filter fun c => decide (src ≤ c.1) && decide (c.1 < src + n)).map fun c => (c.1 - src + dst, c.2)
  (m.filter fun c => decide (c.1 < dst)) ++ cells ++ m.filter fun c => decide (dst + n ≤ c.1)

/-- The bytes of a replicated region that lie in home memory, both as replica and as reference copy (R10, notes/assumptions/6.md). -/
def regionExtent (e : Nat) : Nat := Nat.min (regionSize e) (homeSize - Nat.max (regionPbase e) (regionRbase e))

/-- RESYNC_COMPLETE of the target operation (R411). At its turn, before any later write is applied, the reference copy is copied; what
follows reaches the replica itself. A second RESYNC_COMPLETE ends it, with the replica stale on where another has begun. -/
def execResyncComplete (s : State) : Out :=
  let i := s.choice.target
  match s.opAt i with
  | none => .next s
  | some o =>
    match o.kind, o.key, o.place with
    | .resync _, some k, some (.replica l r _) =>
      if o.visible then .next (if s.awake l then ((s.setStale l r ((s.removeOp i).resyncs r l))).stampDone i k o else s)
      else if !s.keyTurn [(i, o)] then .next s
      else
        let e := look (s.layer l).regions r 0
        let src := s.key (refPlace e 0)
        let dst := s.key (.replica l r 0)
        let n := regionExtent e
        match s.poison.find? fun p => decide (src < p * 64 + 64) && decide (p * 64 < src + n) with
        | some p => .next (s.fail i 0x1C (regionVbase e + (p * 64 - src)) o.lane none)
        | none =>
          let t := { s with
            mem := Memory.copyRange (s.memUnder (s.recordOf (.replica l r 0)) src n) s.mem src dst n
            lineKeys := (linesOf dst n).foldl (fun m line => put m line (s.recordOf (.replica l r 0)) 0) s.lineKeys
            poison := s.poison.filter fun p => !(decide (dst ≤ p * 64) && decide (p * 64 + 64 ≤ dst + n)) }
          .next (((t.noteCorrected l).freshen o [(dst, n)]).modOp i fun o => { o with visible := true })
    | _, _, _ => .next s

end Sys2Proof.Machine
end

