-- ==== Sys2Proof/Machine/Atomics.lean ====
section
/-! DEFINITION. Atomics: issue, performance, completion (spec/08_atomics.md R209 to R220). -/

namespace Sys2Proof.Machine

/-- Atomic operations on w-bit values (R212): 0 add to 9 dec; signed comparison under the signed types. -/
def atomicNew (op t rnd : Nat) (ftz : Bool) (w old x : Nat) : Nat :=
  let sg := isSigned t
  let less (a b : Nat) : Bool := if sg then decide (sext a w < sext b w) else decide (a < b)
  match op with
  | 0 => (old + x) % 2 ^ w
  | 1 => old &&& x
  | 2 => old ||| x
  | 3 => old ^^^ x
  | 4 => if less x old then x else old
  | 5 => if less old x then x else old
  | 6 => x
  | 7 => fadd Fmt.f32 rnd ftz old x
  | 8 => if x ≤ old then 0 else old + 1
  | _ => if old = 0 ∨ x < old then x else old - 1

/-- What an atomic writes; none where a compare fails (R213, R214). -/
def atomicWrite (op t rnd : Nat) (ftz : Bool) (w old x y : Nat) : Option Nat :=
  if op = 16 then (if old = x then some y else none) else some (atomicNew op t rnd ftz w old x)

/-- A lane-set atomic: checks, captures its operands, issues (R211, R213, R215). -/
def atomicInstr (i : Instr) (sp size ty op rnd : Nat) (o : Ord) (d n : Nat) (res : Bool) (x y : Ctx → Nat → Nat) (s : State) : Out :=
  issueInstr i s fun c t =>
    let addr (l : Nat) := c.pre.laneAddr c.crewId sp (c.val 0 l) o size
    c.checked (fun l => (addr l).bad) <|
      let t := if res then c.zeroRest t d n else t
      c.issueLanes t o addr fun l =>
        .atomic (addr l).ea.toNat size op ty rnd (x c l % 2 ^ (8 * size)) (y c l % 2 ^ (8 * size))
          (if res then c.laneDest d n l else none) none

def rndMode (p : OPfx) : Nat := match p with | none => 0 | some q => q.rnd.toNat

def execAtom (p : OPfx) (d a : Reg) (op : BitVec 4) (sp : BitVec 2) (o : Ord) (s : State) : Out :=
  let t := effType p 7
  atomicInstr (.atom p d a op sp o) sp.toNat (typeBits t / 8) t op.toNat (rndMode p) o d.toNat (pairN t) true
    (fun c => c.val 1) (fun _ _ => 0) s

def execRed (p : OPfx) (d a : Reg) (op : BitVec 4) (sp : BitVec 2) (o : Ord) (s : State) : Out :=
  let t := effType p 7
  atomicInstr (.red p d a op sp o) sp.toNat (typeBits t / 8) t op.toNat (rndMode p) o d.toNat (pairN t) false
    (fun c => c.val 1) (fun _ _ => 0) s

def execCas (p : OPfx) (d a : Reg) (sp : BitVec 2) (o : Ord) (s : State) : Out :=
  let t := effType p 9
  atomicInstr (.cas p d a sp o) sp.toNat (typeBits t / 8) t 16 0 o d.toNat (pairN t) true
    (fun c => c.val 2) (fun c => c.val 1) s

def execCas128 (p : OPfx) (d a : Reg) (sp : BitVec 2) (o : Ord) (s : State) : Out :=
  atomicInstr (.cas128 p d a sp o) sp.toNat 16 9 16 0 o d.toNat 4 true (fun c => c.val 2) (fun c => c.val 1) s

/-- A uniform atomic (R220). -/
def uniAtomic (i : Instr) (sp size ty op : Nat) (o : Ord) (d n : Nat) (x y : Ctx → Nat) (s : State) : Out :=
  issueInstr i s fun c t =>
    let a := c.pre.laneAddr c.crewId sp (c.u 0) o size
    c.issueUni t o a (.atomic a.ea.toNat size op ty 0 (x c % 2 ^ (8 * size)) (y c % 2 ^ (8 * size)) (some ⟨d, n, c.act⟩) none)

def execUatom (d a : Reg) (op : BitVec 4) (w sg : Bool) (sp : BitVec 2) (o : Ord) (s : State) : Out :=
  let ty := if op = 7 then 12 else if w then (if sg then 4 else 8) else if sg then 3 else 7
  uniAtomic (.uatom d a op w sg sp o) sp.toNat (if w then 8 else 4) ty op.toNat o d.toNat (if w then 2 else 1)
    (fun c => c.u 1) (fun _ => 0) s

def execUcas (d a : Reg) (w : Bool) (sp : BitVec 2) (o : Ord) (s : State) : Out :=
  let size := if w then 8 else 4
  uniAtomic (.ucas d a w sp o) sp.toNat size 9 16 o d.toNat (if w then 2 else 1)
    (fun c => c.u 1) (fun c => c.u 1 / 2 ^ (8 * size)) s

/-! ### Performance and completion -/

/-- The lanes of an instruction performed with operation i: those to its location, ascending and adjacent (R161, R216, R217), and
what the order of volatile lanes puts between them (R168). -/
def State.atomicGroup (s : State) (i : Nat) (o : Op) : List (Nat × Op) := s.siblings i o

/-- Operation i may be performed: edges, earlier accesses, and the stores of its gang that stand in the store buffer, written
(R160, R168, R200). -/
def State.atomicReady (s : State) (i : Nat) (o : Op) : Bool :=
  let l := s.atomicGroup i o
  s.storesReady l && !(l.any fun p => s.bufferHolds p.2 || s.held p.2)

/-- One read-modify-write (R213, R214). -/
def State.performAtomic (s : State) (i : Nat) : State :=
  match s.opAt i with
  | none => s
  | some o =>
    match o.kind, o.place with
    | .atomic ea size op ty rnd x y d none, some p =>
      let old := ofBytes (s.readAt p size)
      let s := match atomicWrite op ty rnd (s.ftz o.gang) (8 * size) old x y with
        | some v => s.writeAt p (toBytes v size)
        | none => s
      s.modOp i fun o => { o with visible := true, kind := .atomic ea size op ty rnd x y d (some old) }
    | _, _ => s

/-- The answer of a host for the k-th of the AtomicOps a group is sent as: one for a fetch-and-add, one a lane for the others
(R217). -/
def State.atomicAnswer (s : State) (p : Place) (op size k : Nat) : State :=
  match p, s.choice.answer with
  | .host .., .data b =>
    if op = 0 then (if k = 0 ∧ b.length = size then s.writeAt p b else s)
    else if b.length < size * (k + 1) then s else s.writeAt p ((b.drop (size * k)).take size)
  | _, _ => s

/-- A group performed lane after lane; `skip` names the operation a host aborted. A lane whose line is poisoned fails (R451). -/
def State.performGroup (s : State) (l : List (Nat × Op)) (op size : Nat) (skip : Option Nat) : State :=
  l.zipIdx.foldl (init := s) fun t q =>
    if skip = some q.1.1 then t
    else match q.1.2.place, q.1.2.kind.access with
      | some p, some (ea, _, _) =>
        if t.poisoned p size then t.fail q.1.1 0x1C (ea / 64 * 64) q.1.2.lane none
        else ((t.atomicAnswer p op size q.2).performAtomic q.1.1).freshen q.1.2 [(t.key p, size)]
      | _, _ => t

/-- ATOMIC_PERFORM of the target operation (R213, R214, R216, R217). A host that aborts a fetch-and-add fails all its lanes; an
aborted swap or compare and swap fails the lane the choice names, and the lanes around it are still performed together. -/
def execAtomicPerform (s : State) : Out :=
  let i := s.choice.target
  match s.opAt i with
  | none => .next s
  | some o =>
    match o.kind, o.place with
    | .atomic ea size op _ _ _ _ _ none, some p =>
      if o.captured || !s.atomicReady i o then .next s
      else
        let l := s.atomicGroup i o
        match p, s.choice.answer, l.find? (·.2.lane == s.choice.lane) with
        | .host .., .status _, some (j, q) =>
          if op = 0 then .next (s.hostAbort i o) else .next ((s.performGroup l op size (some j)).hostAbort j q)
        | .host .., .status _, none => .next (s.hostAbort i o)
        | _, _, _ =>
          match s.readMeets o p ea size with
          | .error (t, cause, faddr) => .next (t.fail i cause faddr o.lane none)
          | .ok t => .next (t.performGroup l op size none)
    | _, _ => .next s

/-- ATOMIC_COMPLETE of the target operation (R155, R215): the old value is written. -/
def execAtomicComplete (s : State) : Out :=
  let i := s.choice.target
  match s.opAt i with
  | none => .next s
  | some o =>
    match o.kind with
    | .atomic _ _ _ _ _ _ _ d (some old) => if o.captured then .next s else .next (s.finish i d old)
    | _ => .next s

end Sys2Proof.Machine
end

