-- ==== Sys2Proof/Machine/Tiles.lean ====
section
/-! DEFINITION. Tiles, accumulator chains, companding and the arithmetic of the matrix engine (spec/12_matrix.md R308 to
R316, R323 to R330). A value is an endpoint; none is a NaN. -/

namespace Sys2Proof.Machine

/-! ### Values and chains -/

def fvOpt : Fv → Option Ep
  | .nan .. => none
  | x => some (fvEp x)

def addOpt (a b : Option Ep) : Option Ep := a.bind fun x => b.bind fun y => x.add y

/-- The value of an A56 chain (R311 Table 3). -/
def chainVal (x : Nat) : Option Ep :=
  let e := bits x 55 48
  let s := x % 2 ^ 48
  if e = 255 then (if s = 1 then some (.inf false) else if s = 2 ^ 48 - 1 then some (.inf true) else none)
  else some (.fin (sext s 48) ((e : Int) - 173))

def chainInf (neg : Bool) : Nat := 255 * 2 ^ 48 + if neg then 2 ^ 48 - 1 else 1

/-- a56 (R311). -/
def a56 (x : Option Ep) : Nat :=
  match x with
  | none => 255 * 2 ^ 48
  | some (.inf s) => chainInf s
  | some (.fin m e) =>
    if m = 0 then 0
    else
      let start := ((bitLen m.natAbs : Int) + e + 125).toNat
      let sig (k : Nat) : Int := signed (decide (m < 0)) (quantize 0 (decide (m < 0)) m.natAbs e ((k : Int) - 173))
      match [start, start + 1, start + 2].find? fun k => decide (k ≤ 254) && decide (-(2 ^ 47 : Int) ≤ sig k) && decide (sig k < 2 ^ 47) with
      | some k => k * 2 ^ 48 + trunc (sig k) 48
      | none => chainInf (decide (m < 0))

/-- The key of a chain of a gang's tiles (R312). -/
def chainKey (t r j c : Nat) : Nat := ((32 * t + r) * 32 + j) * 2 + c

def Gang.chain (g : Gang) (t r j c : Nat) : Nat := (look g.acc (chainKey t r j c) 0).toNat
def Gang.setChain (g : Gang) (t r j c x : Nat) : Gang :=
  { g with acc := put g.acc (chainKey t r j c) (BitVec.ofNat 56 x) 0 }

/-- The rows of a tile set from a function of row, column and chain. -/
def Gang.setRows (g : Gang) (t : Nat) (rows : BitVec 32) (f : Nat → Nat → Nat → Nat) : Gang :=
  (lanes rows).foldl (init := g) fun g r =>
    (List.range 32).foldl (init := g) fun g j => (g.setChain t r j 0 (f r j 0)).setChain t r j 1 (f r j 1)

/-! ### Companding -/

/-- Y[s] of a table; Y[0] is 0 (R314). -/
def knot (y : List Nat) (s : Nat) : Nat := if s = 0 then 0 else y.getD (s - 1) 0

/-- A record's table, where valid (R314). -/
def parseTable (b : List Byte) : Option (List Nat) :=
  let y := b.map (·.toNat)
  if y.length = 16 ∧ (List.range 16).all (fun s => decide (knot y s < knot y (s + 1))) then some y else none

/-- X8 (R315). -/
def expand8 (y : List Nat) (q : Nat) : Nat :=
  if q = 128 then 8 * knot y 16 else 8 * knot y (q / 8) + (knot y (q / 8 + 1) - knot y (q / 8)) * (q % 8)

/-- The integer nearest to ±n/d in a mode (R132). -/
def roundRat (mode : Nat) (s : Bool) (n d : Nat) : Int :=
  let q := n / d
  let r := n % d
  let up : Bool := match mode with
    | 0 => decide (d < 2 * r) || (decide (2 * r = d) && q % 2 == 1)
    | 1 => false
    | 2 => !s && r != 0
    | _ => s && r != 0
  signed s (if up then q + 1 else q)

/-- round_int(±F(m 2^e) / 2^(8 − w)) (R316, R329). -/
def companded (y : List Nat) (mode : Nat) (s : Bool) (m : Nat) (e : Int) (w : Nat) : Int :=
  let sc := 2 ^ (-e).toNat
  let t := m * 2 ^ e.toNat    -- t over the denominator sc
  if 8 * knot y 16 * sc ≤ t then roundRat mode s 128 (2 ^ (8 - w))
  else
    let k := ((List.range 16).filter fun k => decide (8 * knot y k * sc ≤ t)).getLastD 0
    let d := knot y (k + 1) - knot y k
    roundRat mode s (8 * k * d * sc + (t - 8 * knot y k * sc)) (d * sc * 2 ^ (8 - w))

/-! ### Tiles -/

/-- Bytes of an operand tile by its format (R309, R310). -/
def tileSize (fmt : Nat) : Nat := if fmt ≤ 6 then 32 + 128 * (fmt + 2) else 2048

/-- The mantissa of element k of block b of a block tile. -/
def mantissa (w : Nat) (tile : List Byte) (b k : Nat) : Int :=
  sext (bits (ofBytes ((tile.drop (32 + 4 * w * b)).take (4 * w))) (w * k + w - 1) (w * k)) w

def exponent (tile : List Byte) (b : Nat) : Nat := (tile.getD b 0).toNat

/-- An element's integer, companded or not, and its block's scale (R308, R315, R323). -/
def blockInt (w : Nat) (table : Option (List Nat)) (m : Int) : Int :=
  match table with
  | none => m
  | some y => m.sign * (expand8 y (m.natAbs * 2 ^ (8 - w)) : Int)
def blockScale (w : Nat) (comp : Bool) (e : Nat) : Int := if comp then (e : Int) - 136 else (e : Int) - 127 - (w - 2 : Nat)

/-- An element of a block tile as a value (R308, R315). -/
def blockVal (w : Nat) (table : Option (List Nat)) (e : Nat) (m : Int) : Option Ep :=
  if e = 255 then none else if e = 0 then some (.fin 0 0) else some (.fin (blockInt w table m) (blockScale w table.isSome e))

/-- A product sum of a chain of a block MMA (R323). -/
def blockSum (w : Nat) (ta tb : Option (List Nat)) (a b : List Byte) (i j c : Nat) : Option Ep :=
  let ea := exponent a i; let eb := exponent b j
  if ea = 255 ∨ eb = 255 then none
  else if ea = 0 ∨ eb = 0 then some (.fin 0 0)
  else
    let sum := (List.range 16).foldl (init := (0 : Int)) fun x k =>
      x + blockInt w ta (mantissa w a i (2 * k + c)) * blockInt w tb (mantissa w b j (2 * k + c))
    some (.fin sum (blockScale w ta.isSome ea + blockScale w tb.isSome eb))

/-- A 16-bit element of a bf16 or fp16 tile. -/
def halfAt (fmt : Nat) (ftz : Bool) (tile : List Byte) (i k : Nat) : Fv :=
  unpack (if fmt = 8 then .bf16 else .f16) ftz (ofBytes ((tile.drop (64 * i + 2 * k)).take 2))

def prodOpt (x y : Fv) : Option Ep :=
  if x.isNan || y.isNan then none else (mulFv x y).bind fvOpt

/-- What an MMA leaves in a chain (R323). -/
def MatCmd.chain (m : MatCmd) (ftz : Bool) (g : Gang) (a b : List Byte) (i j c : Nat) : Nat :=
  let start := if m.za then 0 else g.chain m.acc i j c
  if m.fmt ≤ 6 then
    a56 (addOpt (chainVal start)
      (blockSum (m.fmt + 2) (if m.ca then m.table else none) (if m.cb then m.table else none) a b i j c))
  else
    (List.range 16).foldl (init := start) fun v k =>
      a56 (addOpt (chainVal v) (prodOpt (halfAt m.fmt ftz a i (2 * k + c)) (halfAt m.fmt ftz b j (2 * k + c))))

/-- A value rounded into a format; a NaN is the canonical one. -/
def packOpt (f : Fmt) (mode : Nat) (ftz : Bool) : Option Ep → Nat
  | none => f.nan
  | some (.inf s) => f.inf s
  | some (.fin m e) => roundInt f mode ftz false m e

/-- The sum ACCRD reads (R327). -/
def Gang.element (g : Gang) (t i j : Nat) : Option Ep := addOpt (chainVal (g.chain t i j 0)) (chainVal (g.chain t i j 1))

/-- That sum rounded into a format (R327): a zero sum of two values of opposite sign is −0 in rm (R132). -/
def Gang.packElement (g : Gang) (t i j : Nat) (f : Fmt) (mode : Nat) (ftz : Bool) : Nat :=
  match g.element t i j with
  | some (.fin 0 _) => f.zero (mode == 3 && g.chain t i j 0 % 2 ^ 48 != 0)
  | x => packOpt f mode ftz x

/-! ### Quantising -/

/-- A word of an fp32 tile. -/
def wordAt (tile : List Byte) (r c : Nat) : Nat := ofBytes ((tile.drop (128 * r + 4 * c)).take 4)

/-- The exponent and the mantissas QNT gives a block of values (R329). -/
def quantBlock (w mode : Nat) (table : Option (List Nat)) (vs : List Fv) : Nat × List Int :=
  let zero := vs.map fun _ => (0 : Int)
  let fin : Option (List (Bool × Nat × Int)) := vs.foldr (init := some []) fun v acc =>
    match v, acc with
    | .fin s m e, some l => some ((s, m, e) :: l)
    | _, _ => none
  match fin with
  | none => (255, zero)
  | some l =>
    let top := l.foldl (init := Ep.fin 0 0) fun a x => a.max (.fin x.2.1 x.2.2)
    match top with
    | .inf _ => (255, zero)
    | .fin tm te =>
      if tm = 0 then (0, zero)
      else
        let clampM (x : Int) : Int := clampI x (-(2 ^ (w - 1) : Nat)) ((2 ^ (w - 1) : Nat) - 1)
        match table with
        | none =>
          let lg : Int := (Nat.log2 tm.natAbs : Int) + te
          let e := (if lg + 127 < 1 then 1 else lg + 127).toNat
          (e, l.map fun x => clampM (signed x.1 (quantize mode x.1 x.2.1 x.2.2 (blockScale w false e))))
        | some y =>
          let qmax := (2 ^ (w - 1) - 1) * 2 ^ (8 - w)
          let fits (e : Nat) : Bool := top.le (.fin (expand8 y qmax) ((e : Int) - 136))
          let e := ((List.range 254).map (· + 1)).find? fits |>.getD 254
          (e, l.map fun x => clampM (companded y mode x.1 x.2.1 (x.2.2 - ((e : Int) - 136)) w))

/-- The mantissas of a block as its bytes (R309). -/
def packMantissas (w : Nat) (ms : List Int) : List Byte :=
  toBytes ((ms.mapIdx fun k m => trunc m w * 2 ^ (w * k)).sum) (4 * w)

end Sys2Proof.Machine
end

