-- ==== Sys2Proof/Machine/Matrix.lean ====
section
/-! DEFINITION. The matrix instructions and the matrix engine (spec/12_matrix.md R317 to R332). -/

namespace Sys2Proof.Machine

/-! ### Issue -/

/-- A tile operand: its register's value, its size, its alignment, and whether it is a peer's. -/
structure TileArg where
  val : Nat
  size : Nat
  align : Nat := 32
  peer : Bool := false

/-- The crew and the offset of a tile. -/
def State.tileAt (s : State) (crew : Nat) (a : TileArg) : Option (Nat × Nat) :=
  if a.peer then (s.peerCrew crew a.val).map fun k => (k, bits a.val 23 0) else some (crew, a.val)

/-- R320's checks on one tile: 1 range, 2 alignment, 3 a peer outside the cluster. -/
def State.tileBad (s : State) (crew : Nat) (a : TileArg) (check : Nat) : Bool :=
  match s.tileAt crew a with
  | none => check == 1
  | some (k, off) =>
    match check with
    | 1 => decide (s.partition k < off + a.size)
    | 2 => off % a.align != 0
    | _ => (s.crew k).layer != (s.crew crew).layer || (s.crew k).cluster != (s.crew crew).cluster

/-- The offset a tile operand names. -/
def TileArg.off (a : TileArg) : Nat := if a.peer then bits a.val 23 0 else a.val

/-- The trap of R320, in its order of checks and tiles; `untabled` numbers the tile that lacks a compand table. Where one peer tile
lies in another cluster and lacks the table too, FADDR is the peer address: DESIGN CHOICE (notes/assumptions/54.md). -/
def State.tilesTrap (s : State) (crew : Nat) (ts : List TileArg) (untabled : Option Nat) : Option (Nat × Nat) :=
  match ts.find? fun a => s.tileBad crew a 1 with
  | some a => some (0x11, a.val)
  | none =>
    match ts.find? fun a => s.tileBad crew a 2 with
    | some a => some (0x12, a.val)
    | none =>
      firstSome (fun (p : TileArg × Nat) =>
        if s.tileBad crew p.1 3 then some (0x30, p.1.val) else if untabled = some p.2 then some (0x30, p.1.off) else none) ts.zipIdx

/-- A matrix instruction issues its command (R320, R322). -/
def matInstr (i : Instr) (o : Ord) (s : State) (tiles : Ctx → List TileArg) (uses : Ctx → Option Nat) (cmd : Ctx → MatCmd) : Out :=
  issueInstr i s fun c t =>
    let need := if c.gang.compand.isNone then uses c else none
    match t.tilesTrap c.crewId (tiles c) need with
    | some (cause, faddr) => .trap cause faddr 255
    | none =>
      let at_ (k : Nat) : Nat × Nat := match (tiles c)[k]? with | some a => (t.tileAt c.crewId a).getD (0, 0) | none => (0, 0)
      let m := cmd c
      let m := { m with a := at_ 0, b := at_ 1, d := at_ ((tiles c).length - 1), table := c.gang.compand }
      let t := match m.tag with | some k => t.setTag c.crewId k .pending | none => t
      .ok (c.addUni t o (.matrix m))

def execMma (p : OPfx) (a b : Reg) (o : Ord) (e : MmaWord) (s : State) : Out :=
  matInstr (.mma p a b o e) o s
    (fun c => [{ val := c.u 0, size := tileSize e.fmt.toNat, peer := e.pa }, { val := c.u 1, size := tileSize e.fmt.toNat, peer := e.pb }])
    (fun _ => if e.ca then some 0 else if e.cb then some 1 else none)
    fun _ => { kind := .mma, acc := e.acc.toNat, fmt := e.fmt.toNat, ca := e.ca, cb := e.cb, za := e.za
               tag := if e.nt then none else some e.ctag.toNat }

def execAccz (p : OPfx) (o : Ord) (acc : BitVec 3) (s : State) : Out :=
  matInstr (.accz p o acc) o s (fun _ => []) (fun _ => none) fun _ => { kind := .accz, acc := acc.toNat }

def pfxRnd : OPfx → Nat
  | none => 0
  | some q => q.rnd.toNat

/-- Bytes of an ACCRD or ACCWR tile by its form. -/
def formSize (form : Nat) : Nat := if form = 0 then 4096 else if form = 1 then 2048 else 16384

def execAccrd (p : OPfx) (d : Reg) (o : Ord) (acc : BitVec 3) (form : BitVec 2) (fin : Bool) (s : State) : Out :=
  matInstr (.accrd p d o acc form fin) o s (fun c => [{ val := c.u 0, size := formSize form.toNat }]) (fun _ => none)
    fun _ => { kind := .accrd, acc := acc.toNat, form := form.toNat, fin := fin, rnd := pfxRnd p }

def execAccwr (p : OPfx) (a : Reg) (o : Ord) (acc : BitVec 3) (form : BitVec 2) (s : State) : Out :=
  matInstr (.accwr p a o acc form) o s (fun c => [{ val := c.u 0, size := formSize form.toNat }]) (fun _ => none)
    fun _ => { kind := .accwr, acc := acc.toNat, form := form.toNat }

def execQnt (p : OPfx) (d a : Reg) (o : Ord) (e : QntWord) (s : State) : Out :=
  matInstr (.qnt p d a o e) o s (fun c => [{ val := c.u 0, size := 4096 }, { val := c.u 1, size := tileSize e.fmt.toNat }])
    (fun _ => if e.cmp then some 1 else none)
    fun _ => { kind := .qnt, fmt := e.fmt.toNat, cmp := e.cmp, ori := e.ori, rnd := pfxRnd p }

def execDqnt (p : OPfx) (d a : Reg) (o : Ord) (e : QntWord) (s : State) : Out :=
  matInstr (.dqnt p d a o e) o s (fun c => [{ val := c.u 0, size := tileSize e.fmt.toNat }, { val := c.u 1, size := 4096 }])
    (fun _ => if e.cmp then some 0 else none)
    fun _ => { kind := .dqnt, fmt := e.fmt.toNat, cmp := e.cmp, ori := e.ori, rnd := pfxRnd p }

def execCtbl (p : OPfx) (a : Reg) (o : Ord) (s : State) : Out :=
  matInstr (.ctbl p a o) o s (fun c => [{ val := c.u 0, size := 16, align := 16 }]) (fun _ => none) fun _ => { kind := .ctbl }

/-! ### The engine -/

/-- The key of a crew's core, and its state (R332). -/
def State.coreKey (s : State) (crew : Nat) : Nat := let c := s.crew crew; 8 * (16 * c.layer + c.cluster) + c.core
def State.coreAt (s : State) (k : Nat) : Core := look s.cores k {}
def State.setCore (s : State) (k : Nat) (x : Core) : State := { s with cores := insert s.cores k x }

/-- The sub-arrays a command's rows reach. -/
def subarrays (rows : BitVec 32) : List Nat := (List.range 8).filter fun q => (List.range 4).any fun r => hasLane rows (4 * q + r)

def Op.mat (o : Op) : Option MatCmd := match o.kind with | .matrix m => some m | _ => none

/-- The commands a command of the same gang must not overtake, captured ones among them (R313). -/
def State.tiedBefore (s : State) (i : Nat) (o : Op) (m : MatCmd) : List MatCmd :=
  s.ops.filterMap fun p => if p.1 < i && p.2.gang == o.gang then p.2.mat.filter fun n => m.tied n else none

/-- A command may start. -/
def State.matReady (s : State) (i : Nat) (o : Op) (m : MatCmd) : Bool :=
  !m.started && !o.captured && s.edgesMet o && (s.tiedBefore i o m).all (·.started)

/-- MATRIX_COMMAND_START of the target operation (R331, R332): the first received of the core's ready commands. -/
def execMatrixCommandStart (s : State) : Out :=
  let i := s.choice.target
  match s.opAt i with
  | none => .next s
  | some o =>
    match o.mat with
    | none => .next s
    | some m =>
      let k := s.coreKey o.crew
      let first := s.ops.find? fun p => s.coreKey p.2.crew == k && (match p.2.mat with | some n => s.matReady p.1 p.2 n | none => false)
      if first.map (·.1) == some i then
        let t := s.modOp i fun o => { o with kind := .matrix { m with started := true } }
        let c := t.coreAt k
        .next (if m.kind = .mma then t.setCore k { c with gated := c.gated.filter fun q => !(subarrays o.threads).contains q } else t)
      else .next s

/-- SUBARRAY_GATE (R332) of sub-array `unit` of core `target`. -/
def execSubarrayGate (s : State) : Out :=
  let k := s.choice.target
  let q := s.choice.unit
  let c := s.coreAt k
  let busy := s.ops.any fun p => s.coreKey p.2.crew == k && (match p.2.mat with | some m => m.kind == .mma && m.started && (subarrays p.2.threads).contains q | none => false)
  if q < 8 && c.mxidle != 0 && !c.gated.contains q && !busy && decide (c.mxidle ≤ s.clk - look c.idle q 0) then
    .next (s.setCore k { c with gated := c.gated ++ [q] })
  else .next s

/-- An engine read of a partition. -/
def State.tileRead (s : State) (a : Nat × Nat) (n : Nat) : List Byte := s.readAt (.scratch a.1 a.2) n

/-- The bytes of blocks of a block tile: their exponents and mantissas. -/
def blockRanges (w : Nat) (bs : List Nat) : List (Nat × Nat) := bs.flatMap fun b => [(b, 1), (32 + 4 * w * b, 4 * w)]

/-- The ranges a command with these active rows reads: of a tile, from an offset in it, so many bytes (R323, R328 to R330). -/
def MatCmd.reads (m : MatCmd) (rows : BitVec 32) : List ((Nat × Nat) × Nat × Nat) :=
  let of (t : Nat × Nat) (l : List (Nat × Nat)) := l.map fun p => (t, p.1, p.2)
  let act := lanes rows
  let all := List.range 32
  match m.kind with
  | .mma =>
    if m.fmt ≤ 6 then of m.a (blockRanges (m.fmt + 2) act) ++ of m.b (blockRanges (m.fmt + 2) all)
    else of m.a (act.map fun i => (64 * i, 64)) ++ of m.b (all.map fun j => (64 * j, 64))
  | .accwr => let n := if m.form = 0 then 128 else 512; of m.a (act.map fun i => (n * i, n))
  | .qnt => of m.a (if m.ori then act.flatMap fun b => all.map fun k => (128 * k + 4 * b, 4) else act.map fun b => (128 * b, 128))
  | .dqnt => of m.a (blockRanges (m.fmt + 2) act)
  | .ctbl => of m.a [(0, 16)]
  | _ => []

/-- The first line a command's reads find poisoned: its offset in the partition it lies in, a peer's too: DESIGN CHOICE
(notes/assumptions/54.md). -/
def State.matLine (s : State) (m : MatCmd) (rows : BitVec 32) : Option (Nat × Nat) :=
  firstSome (fun (r : (Nat × Nat) × Nat × Nat) =>
    firstSome (fun (p : Nat × Nat) => if s.poisoned (.scratch r.1.1 p.1) p.2 then some (r.1.1, p.1 / 64 * 64) else none)
      (piecesOf (r.1.2 + r.2.1) r.2.2)) (m.reads rows)

/-- What a command's reads meet (R320, R451): an error from outside at the choice's offset of tile a, or of tile b where its unit
is 1, loses the line, where the command reads it; a corrected one counts. -/
def State.matMeets (s : State) (o : Op) (m : MatCmd) : State :=
  let h := s.choice
  let t := if h.unit = 1 then m.b else m.a
  let at_ := t.2 + h.offset
  match h.err with
  | .uncorrectable =>
    if (m.reads o.threads).any fun r => r.1 == t && decide ((t.2 + r.2.1) / 64 ≤ at_ / 64) && decide (at_ / 64 * 64 < t.2 + r.2.1 + r.2.2) then
      s.poisonLine (s.key (.scratch t.1 at_))
    else s
  | .corrected => s.countCorrected o.layer
  | .none => s

/-- Bytes of an operand tile that stores of its gang may change while it is read (R170). -/
def MatCmd.tileBytes (m : MatCmd) : Nat :=
  match m.kind with
  | .mma => tileSize m.fmt
  | .dqnt => tileSize m.fmt
  | .qnt => 4096
  | .accwr => formSize m.form
  | _ => 0

/-- Where element n of an operand tile lies: its first bit and its width. The exponents of a block tile come first (R309, R310). -/
def elemBits (fmt n : Nat) : Nat × Nat :=
  if fmt ≤ 6 then (if n < 32 then (8 * n, 8) else (256 + 32 * (fmt + 2) * ((n - 32) / 32) + (fmt + 2) * ((n - 32) % 32), fmt + 2)) else (16 * n, 16)

def MatCmd.elem (m : MatCmd) (n : Nat) : Nat × Nat :=
  match m.kind with
  | .mma => elemBits m.fmt n
  | .dqnt => elemBits m.fmt n
  | .accwr => if m.form = 0 then (32 * n, 32) else (128 * n, 128)
  | _ => (32 * n, 32)

/-- Elements of a command's operands as they stand (R170). -/
def MatCmd.takeElems (m : MatCmd) (s : State) (l : List Nat) : MatCmd :=
  let tile (t : Nat) : Nat := ofBytes (s.tileRead (if t = 0 then m.a else m.b) m.tileBytes)
  { m with early := l.foldl (init := m.early) fun e k =>
      if (find e k).isSome then e else let p := m.elem (k % 4096); insert e k (bits (tile (k / 4096)) (p.1 + p.2 - 1) p.1) }

/-- A tile as a command has read it: the elements read early as they stood then, the others as they stand. -/
def MatCmd.tileSeen (m : MatCmd) (s : State) (t : Nat) : List Byte :=
  toBytes (m.early.foldl (init := ofBytes (s.tileRead (if t = 0 then m.a else m.b) m.tileBytes)) fun x e =>
    let p := m.elem (e.1 % 4096)
    if e.1 / 4096 = t then x - bits x (p.1 + p.2 - 1) p.1 * 2 ^ p.1 + e.2 * 2 ^ p.1 else x) m.tileBytes

/-- The bytes a command writes, as offset and bytes in its own partition (R327, R329, R330). -/
def MatCmd.writes (m : MatCmd) (s : State) (ftz : Bool) (g : Gang) (rows : BitVec 32) : List (Nat × List Byte) :=
  let d := m.d.2
  match m.kind with
  | .accrd =>
    (lanes rows).map fun i =>
      (d + (if m.form = 0 then 128 else if m.form = 1 then 64 else 512) * i,
       (List.range 32).flatMap fun j =>
        match m.form with
        | 0 => toBytes (g.packElement m.acc i j .f32 m.rnd ftz) 4
        | 1 => toBytes (g.packElement m.acc i j .bf16 m.rnd ftz) 2
        | _ => toBytes (g.chain m.acc i j 0) 8 ++ toBytes (g.chain m.acc i j 1) 8)
  | .qnt =>
    let tile := m.tileSeen s 0
    let w := m.fmt + 2
    (lanes rows).flatMap fun b =>
      let vs := (List.range 32).map fun k => unpack .f32 ftz (if m.ori then wordAt tile k b else wordAt tile b k)
      let q := quantBlock w m.rnd (if m.cmp then m.table else none) vs
      [(d + b, toBytes q.1 1), (d + 32 + 4 * w * b, packMantissas w q.2)]
  | .dqnt =>
    let w := m.fmt + 2
    let tile := m.tileSeen s 0
    let val (b k : Nat) : Nat := packOpt .f32 m.rnd ftz (blockVal w (if m.cmp then m.table else none) (exponent tile b) (mantissa w tile b k))
    (lanes rows).flatMap fun b =>
      if m.ori then (List.range 32).map fun k => (d + 128 * k + 4 * b, toBytes (val b k) 4)
      else [(d + 128 * b, (List.range 32).flatMap fun k => toBytes (val b k) 4)]
  | _ => []

/-- A tile read and written by one command: what it writes is undefined (R322). -/
def MatCmd.overlaps (m : MatCmd) : Bool :=
  match m.kind with
  | .qnt => m.a.1 == m.d.1 && decide (m.a.2 < m.d.2 + tileSize m.fmt) && decide (m.d.2 < m.a.2 + 4096)
  | .dqnt => m.a.1 == m.d.1 && decide (m.a.2 < m.d.2 + 4096) && decide (m.d.2 < m.a.2 + tileSize m.fmt)
  | _ => false

/-- Bytes the spec leaves open (notes/assumptions/4.md). -/
def State.freeBytes (s : State) : Nat → List Byte × State
  | 0 => ([], s)
  | n + 1 => let x := s.freeNat 8; let r := x.2.freeBytes n; (BitVec.ofNat 8 x.1 :: r.1, r.2)

def State.writeScratch (s : State) (crew : Nat) (open_ : Bool) (w : Nat × List Byte) : State :=
  if open_ then let f := s.freeBytes w.2.length; f.2.writeAt (.scratch crew w.1) f.1
  else s.writeAt (.scratch crew w.1) w.2

/-- The rows of a tile undefined (R320). -/
def State.freeRows (s : State) (gid t : Nat) (rows : BitVec 32) : State :=
  (lanes rows).foldl (init := s) fun s r =>
    (List.range 64).foldl (init := s) fun s k =>
      let f := s.freeNat 56
      f.2.modGang gid fun g => g.setChain t r (k / 2) (k % 2) f.1

/-- The accumulator tile a command writes: an ACCRD's where it rounds (R327). -/
def MatCmd.wrote (m : MatCmd) : Option Nat := if m.kind = .accrd ∧ m.fin = false then none else m.tile

/-- The rows of an operation change in the tile its command writes; where its crew has yielded, their saved image is out of date (R312). -/
def State.noteTile (s : State) (o : Op) (m : MatCmd) : State :=
  match m.wrote with
  | some t =>
    if (s.crew o.crew).status == .yielded then
      s.modGang o.gang fun g => { g with late := g.late ++ ((lanes o.threads).map (32 * t + ·)).filter fun k => !g.late.contains k }
    else s
  | none => s

/-- A matrix command fails (R320): what it would have written is undefined, and its tag is HELD. The gang keeps the
compand table it had where a CTBL fails, of which no rule speaks: DESIGN CHOICE (notes/assumptions/36.md). -/
def State.matFail (s : State) (i : Nat) (o : Op) (m : MatCmd) (cause faddr : Nat) : State :=
  let g := s.gang o.gang
  let s := (m.writes s (s.ftz o.gang) g o.threads).foldl (fun t w => t.writeScratch o.crew true w) s
  let s := match m.kind with
    | .mma => (s.freeRows o.gang m.acc o.threads).noteTile o m
    | .accwr => (s.freeRows o.gang m.acc o.threads).noteTile o m
    | _ => s
  let s := match m.tag with | some k => s.setTag o.crew k .held | none => s
  s.fail i cause faddr o.lane none

/-- A command reads its operand tiles element by element (R170): an MMA's until its operands are consumed. -/
def MatCmd.mayRead (m : MatCmd) : Bool := m.started && m.consumed.isNone && m.tileBytes != 0

/-- OPERANDS_CONSUMED of the target MMA (R170, R323, R324): with no element numbered, every one that is left is read, and the tag is
set. With some, those elements are read now, of an ACCWR, a QNT or a DQNT too, whose completion reads what is left. -/
def execOperandsConsumed (s : State) : Out :=
  let i := s.choice.target
  match s.opAt i with
  | none => .next s
  | some o =>
    match o.mat with
    | none => .next s
    | some m =>
      if o.captured || !m.mayRead || (m.kind != .mma && s.choice.nums.isEmpty) then .next s
      else
        let t := s.matMeets o m
        match t.matLine m o.threads with
        | some l => .next (t.matFail i o m 0x1C l.2)
        | none =>
          if s.choice.nums.isEmpty then
            let t := t.modOp i fun o => { o with kind := .matrix { m with consumed := some (m.tileSeen s 0, m.tileSeen s 1) } }
            .next (match m.tag with | some k => t.setTag o.crew k .ready | none => t)
          else .next (t.modOp i fun o => { o with kind := .matrix (m.takeElems s (s.choice.nums.filter fun k => decide (k < 8192))) })

/-- ACCWR's row (R328). -/
def accwrChain (form : Nat) (ftz : Bool) (tile : List Byte) (i j c : Nat) : Nat :=
  if form = 0 then (if c = 0 then a56 (fvOpt (unpack .f32 ftz (wordAt tile i j))) else 0)
  else ofBytes ((tile.drop (512 * i + 16 * j + 8 * c)).take 8) % 2 ^ 56

/-- The effect of a command at its completion (R323 to R330). -/
def State.matEffect (s : State) (o : Op) (m : MatCmd) : State :=
  let g := s.gang o.gang
  let ftz := s.ftz o.gang
  let rows := o.threads
  let s := (m.writes s ftz g rows).foldl (fun t w => t.writeScratch o.crew m.overlaps w) s
  let s := s.noteTile o m
  match m.kind with
  | .mma =>
    let ab := m.consumed.getD ([], [])
    let s := s.modGang o.gang fun x => x.setRows m.acc rows fun i j c => m.chain ftz g ab.1 ab.2 i j c
    let k := s.coreKey o.crew
    let c := s.coreAt k
    s.setCore k { c with idle := (subarrays rows).foldl (fun l q => insert l q s.clk) c.idle }
  | .accz => s.modGang o.gang fun g => g.setRows m.acc rows fun _ _ _ => 0
  | .accrd =>
    if m.fin then s.modGang o.gang fun x => x.setRows m.acc rows fun i j c => if c = 0 then a56 (g.element m.acc i j) else 0
    else s
  | .accwr =>
    let tile := m.tileSeen s 0
    s.modGang o.gang fun g => g.setRows m.acc rows fun i j c => accwrChain m.form ftz tile i j c
  | _ => s

/-- MATRIX_COMMAND_COMPLETE of the target operation: commands on one tile act in their order (R313). -/
def execMatrixCommandComplete (s : State) : Out :=
  let i := s.choice.target
  match s.opAt i with
  | none => .next s
  | some o =>
    match o.mat with
    | none => .next s
    | some m =>
      if o.captured || !m.started || (m.kind == .mma && m.consumed.isNone) || !(s.tiedBefore i o m).isEmpty then .next s
      else
        let t := if m.kind = .mma then s else s.matMeets o m
        match (if m.kind = .mma then none else t.matLine m o.threads) with
        | some l => .next (t.matFail i o m 0x1C l.2)
        | none =>
          match m.kind with
          | .ctbl =>
            match parseTable (t.tileRead m.a 16) with
            | some y => .next ((t.modGang o.gang fun g => { g with compand := some y }).finish i none 0)
            | none => .next ((t.modGang o.gang fun g => { g with compand := none }).fail i 0x30 m.a.2 o.lane none)
          | _ => .next ((t.matEffect o m).finish i none 0)

end Sys2Proof.Machine
end

