-- ==== Sys2Proof/Machine/Barges.lean ====
section
/-! DEFINITION. Copy tags, barges, rings, WAITY and IOREQ (spec/09_barges.md R237 to R257). -/

namespace Sys2Proof.Machine

/-! ### Tags -/

/-- A tag instruction: its mask names tags the crew holds (R239). -/
def tagInstr (i : Instr) (s : State) (eff : Ctx → State → State) : Out :=
  issueInstr i s fun c t => if c.tagMaskBad (c.u 0) then .trap 0x03 0 255 else .ok (eff c t)

/-- TAGW (R240): it waited at issue. -/
def execTagw (a : Reg) (any : Bool) (s : State) : Out := tagInstr (.tagw a any) s fun _ t => t

/-- The lowest READY tag of a mask, or 64. -/
def Crew.readyTag (c : Crew) (m : Nat) : Nat := ((tagsOf m).find? fun i => c.tag i == .ready).getD 64

def execTagf (d a : Reg) (clr : Bool) (s : State) : Out :=
  tagInstr (.tagf d a clr) s fun c t =>
    let i := c.crew.readyTag (c.u 0)
    let t := c.writeU t d.toNat 1 i
    if clr && decide (i < 64) then t.setTag c.crewId i .clear else t

def execTagclr (a : Reg) (s : State) : Out :=
  tagInstr (.tagclr a) s fun c t =>
    (tagsOf (c.u 0)).foldl (fun t i => if c.crew.tag i == .ready || c.crew.tag i == .held then t.setTag c.crewId i .clear else t) t

/-! ### Rings -/

def State.modAdvances (s : State) (crew : Nat) (f : List Advance → List Advance) : State :=
  s.modCrew crew fun c => { c with advances := f c.advances }

/-- WR passes the advances that are ready, in their order (R250). -/
def State.passAdvances (s : State) (crew off : Nat) : Nat → State
  | 0 => s
  | k + 1 =>
    let wr := ringWr (s.ring crew off)
    if (s.crew crew).advances.any fun a => a.ring == off && a.seq == wr && a.ready && a.held.isNone then
      ((s.setRing crew off 16 ((wr + 1) % 2 ^ 32)).modAdvances crew fun l => l.filter fun a => !(a.ring == off && a.seq == wr)).passAdvances crew off k
    else s

/-- The advance of an operation is ready (R250). -/
def State.advanceReady (s : State) (crew op : Nat) : State :=
  match (s.crew crew).advances.find? (·.op == op) with
  | none => s
  | some a =>
    (s.modAdvances crew fun l => l.map fun x => if x.op = op then { x with ready := true } else x).passAdvances crew a.ring
      ((s.crew crew).advances.length + 1)

/-- An advance arrives at the ring unit for operation `op` (R250): no claimed slot fails it; a barge that restarts a
failed one takes its place. -/
def State.ringAdvance (s : State) (crew off op : Nat) (restart : Option Nat) : State × Bool :=
  let r := s.ring crew off
  let heldBy (a : Advance) : Bool := a.ring == off && restart.isSome && a.held == restart
  match (s.crew crew).advances.find? heldBy with
  | some h => (s.modAdvances crew fun l => l.map fun a => if a = h then { a with held := none, op := op } else a, true)
  | none =>
  if diff32 (ringRes r) (ringProd r) < 2 ^ 31 then (s, false)
  else
    ((s.setRing crew off 12 ((ringRes r + 1) % 2 ^ 32)).modAdvances crew fun l =>
      l ++ [{ ring := off, seq := ringRes r, ready := false, held := none, op := op }], true)

/-- A ring instruction (R238, R249): its operation is counted; a descriptor that is refused fails it. `arrive` acts at
the ring unit, and fails the operation where it answers none. -/
def ringInstr (i : Instr) (o : Ord) (s : State) (kind : State → Nat → Ctx → OpKind) (arrive : State → Nat → Nat → Nat → Option State) : Out :=
  issueInstr i s fun c t =>
    match c.recordAddr t 0 c.lane0 o 64 64 with
    | (_, some (cause, faddr)) => .trap cause faddr c.lane0
    | (ea, none) =>
      let off := ea.toNat
      let id := t.next
      let bad := !t.ringOk c.crewId off
      let t := c.addUni t o (kind t off c)
      let failed := t.modOp id fun p => { p with failed := some (0x20, off) }
      .ok (if bad then failed else (arrive t c.crewId off id).getD failed)

/-- RAWAIT (R250): it claims its index as it arrives. -/
def execRawait (d a : Reg) (free : Bool) (o : Ord) (s : State) : Out :=
  ringInstr (.rawait d a free o) o s
    (fun t off c => .rawait off (if free then ringProd (t.ring c.crewId off) else ringCons (t.ring c.crewId off)) free ⟨d.toNat, 1, c.act⟩)
    fun t crew off _ =>
      let r := t.ring crew off
      some (if free then t.setRing crew off 8 ((ringProd r + 1) % 2 ^ 32) else t.setRing crew off 20 ((ringCons r + 1) % 2 ^ 32))

def execRarel (a : Reg) (o : Ord) (s : State) : Out :=
  ringInstr (.rarel a o) o s (fun _ off _ => .rarel off) fun t crew off _ =>
    if ringRd (t.ring crew off) = ringCons (t.ring crew off) then none else some t

def execRapub (a : Reg) (o : Ord) (s : State) : Out :=
  ringInstr (.rapub a o) o s (fun t off c => .rapub off (ringRes (t.ring c.crewId off))) fun t crew off id =>
    let r := t.ringAdvance crew off id none
    if r.2 then some r.1 else none

/-- RAWAIT_COMPLETE of the target operation (R250). It waits for its own stream edges too (R157), though R250 gives the condition on WR or RD
alone: DEDUCED (notes/assumptions/17.md). -/
def execRawaitComplete (s : State) : Out :=
  let i := s.choice.target
  match s.opAt i with
  | none => .next s
  | some o =>
    match o.kind with
    | .rawait off n free d =>
      let r := s.ring o.crew off
      if o.captured || o.failed.isSome || !s.edgesMet o || !ringPassed r n free then .next s
      else .next (s.finish i (some d) (ringSlotAddr r n))
    | _ => .next s

/-- RAREL_RELEASE of the target operation (R250). -/
def execRarelRelease (s : State) : Out :=
  let i := s.choice.target
  match s.opAt i with
  | none => .next s
  | some o =>
    match o.kind with
    | .rarel off =>
      if o.captured || o.failed.isSome || !s.edgesMet o then .next s
      else .next ((s.setRing o.crew off 24 ((ringRd (s.ring o.crew off) + 1) % 2 ^ 32)).finish i none 0)
    | _ => .next s

/-- ADVANCE_READY of the target RAPUB (R250): it completes when it is ready. -/
def execAdvanceReady (s : State) : Out :=
  let i := s.choice.target
  match s.opAt i with
  | none => .next s
  | some o =>
    match o.kind with
    | .rapub .. =>
      if o.captured || o.failed.isSome || !s.edgesMet o then .next s else .next ((s.advanceReady o.crew i).finish i none 0)
    | _ => .next s

/-- WAITY (R252): it waited at issue. The ring forms check their descriptor as R238 and R249 do. Their traps name the lowest active
lane, those of a tag mask no lane: DESIGN CHOICE (notes/assumptions/54.md). -/
def execWaity (a : Reg) (mode : BitVec 2) (s : State) : Out :=
  issueInstr (.waity a mode) s fun c t =>
    if mode.toNat ≤ 1 then (if c.tagMaskBad (c.u 0) then .trap 0x03 0 255 else .ok t)
    else
      match checkScratch (c.u 0) 64 (t.partition c.crewId) with
      | some (cause, faddr) => .trap cause faddr c.lane0
      | none => if c.ringRefused t (c.u 0) then .trap 0x20 (c.u 0) c.lane0 else .ok t

/-! ### Barges -/

/-- What a failed barge's restart is known by: its tag, or, where it has none, its record (R246, R250, notes/assumptions/18.md). -/
def BargeRec.restart (r : BargeRec) : Nat := match r.tag with | some k => k | none => 64 + r.reca

/-- BARGE (R244). The traps of its record, register-range too, name the lowest active lane: DESIGN CHOICE (notes/assumptions/54.md). -/
def execBarge (a : Reg) (o : Ord) (s : State) : Out :=
  issueInstr (.barge a o) s fun c t =>
    match c.bargeCheck t o with
    | .error (cause, faddr) => .trap cause faddr c.lane0
    | .ok b =>
      let id := t.next
      let t := match b.tag with | some i => t.setTag c.crewId i .pending | none => t
      let t := c.addUni t o (.barge b false)
      match b.ring with
      | none => .ok t
      | some off =>
        let r := t.ringAdvance c.crewId off id (some b.restart)
        .ok (if r.2 then r.1 else t.modOp id fun p => { p with failed := some (0x20, off) })

/-- BARGE_ENGINE_TAKE (R511): the cluster's barges are taken in the order received, two at a time. -/
def execBargeEngineTake (s : State) : Out :=
  let i := s.choice.target
  match s.opAt i with
  | none => .next s
  | some o =>
    let here (p : Op) : Bool := (s.crew p.crew).layer == (s.crew o.crew).layer && (s.crew p.crew).cluster == (s.crew o.crew).cluster && !p.captured
    let all := s.ops.filterMap fun p => match p.2.kind with | .barge _ taken => if here p.2 then some (p.1, taken) else none | _ => none
    match o.kind with
    | .barge b false =>
      if !o.captured && o.failed.isNone && decide ((all.filter (·.2)).length < 2) && all.all (fun p => p.2 || decide (i ≤ p.1)) then
        .next (s.modOp i fun p => { p with kind := .barge b true })
      else .next s
    | _ => .next s

/-- The iterations of the levels below k, as one number. -/
def BargeRec.radix (r : BargeRec) (k : Nat) : Nat := (r.counts.take k).foldl (· * ·) 1

/-- Vectors are numbered in their lexicographic order, i0 least significant (R245): all, the first it moves, the next. -/
def BargeRec.total (r : BargeRec) : Nat := r.radix r.levels
def BargeRec.start (r : BargeRec) : Nat := ((List.range r.levels).map fun k => r.starts.getD k 0 * r.radix k).sum
def BargeRec.first (r : BargeRec) : Nat := r.at_.getD r.start
def BargeRec.ix (r : BargeRec) (v k : Nat) : Nat := v / r.radix k % r.counts.getD k 1

/-- Base plus the strides times the indices of vector v. -/
def BargeRec.addr (r : BargeRec) (base : Nat) (strides : List Int) (v : Nat) : Int :=
  (List.range r.levels).foldl (fun a k => a + (r.ix v k : Int) * strides.getD k 0) base

/-- An address in a barge's space: its place, or its fault (R243, R246). -/
def State.bargePlace (s : State) (o : Op) (acc : Access) (sp field : Nat) (addr : Int) (n : Nat) : Tr :=
  match sp with
  | 0 => if addr < 0 ∨ (2 ^ 57 : Int) < addr + n then .fault 0x10 false else s.translate o.layer (s.viaOf o.crew) acc false addr.toNat
  | 1 => .ok (.scratch o.crew addr.toNat)
  | _ => .ok (.scratch ((s.peerCrew o.crew field).getD o.crew) addr.toNat)

def partitionBase (sp field : Nat) : Nat := if sp = 2 then bits field 23 0 else field

/-- The source and the destination address of vector v. -/
def BargeRec.src (r : BargeRec) (v : Nat) : Int := r.addr (partitionBase r.ssp r.saddr) r.sstr v
def BargeRec.dst (r : BargeRec) (v : Nat) : Int := r.addr (partitionBase r.dsp r.daddr) r.dstr v

/-- The pieces a vector moves: the offset in its source element, the destination address, the length (R245). -/
def BargeRec.moves (r : BargeRec) (v : Nat) : List (Nat × Int × Nat) :=
  if r.tr = 0 then [(0, r.dst v, 2 ^ r.esz)]
  else
    let g := r.tr
    let rr := r.ix v 1 % 8
    (List.range 8).map fun j => (j * g, r.dst v + ((j : Int) - rr) * r.dstr.getD 1 0 + rr * g, g)

/-- A fault of a barge at a vector, with its exact address (R246, R428). -/
structure BargeStop where
  vec : Nat
  cause : Nat
  faddr : Int
  dst : Bool
  replay : Bool
  deriving DecidableEq, Repr

/-- Bytes a barge moves. -/
structure Move where
  src : Place
  dst : Place
  n : Nat
  deriving DecidableEq, Repr

/-- The place j bytes on. -/
def Place.plus : Place → Nat → Place
  | .scratch c o, j => .scratch c (o + j)
  | .home l o k, j => .home l (o + j) k
  | .host p b, j => .host p (b + j)
  | .replica l r o, j => .replica l r (o + j)

/-- What vector v moves as far as its accesses are translated, and the first fault it meets. -/
def State.bargeVec (s : State) (o : Op) (r : BargeRec) (v : Nat) : List Move × Option BargeStop :=
  let n := 2 ^ r.esz
  match s.bargePlace o .read r.ssp r.saddr (r.src v) n with
  | .fault c rp => ([], some ⟨v, c, r.src v, false, rp⟩)
  | .ok p =>
    if s.poisoned p n then ([], some ⟨v, 0x1C, r.src v / 64 * 64, false, false⟩)
    else (r.moves v).foldl (init := ([], none)) fun acc m =>
      match s.bargePlace o .write r.dsp r.daddr m.2.1 m.2.2 with
      | .fault c rp => (acc.1, acc.2.or (some ⟨v, c, m.2.1, true, rp⟩))
      | .ok q => (acc.1 ++ [⟨p.plus m.1, q, m.2.2⟩], acc.2)

/-- What `n` vectors from v move, up to the first fault. -/
def State.bargeScan (s : State) (o : Op) (r : BargeRec) : Nat → Nat → List Move × Option BargeStop
  | _, 0 => ([], none)
  | v, n + 1 =>
    match s.bargeVec o r v with
    | (_, some e) => ([], some e)
    | (l, none) => let x := s.bargeScan o r (v + 1) n; (l ++ x.1, x.2)

/-- The memory keys of n bytes at a place. -/
def State.keysAt (s : State) (p : Place) (n : Nat) : List Nat := (List.range n).map (s.key p + ·)

/-- Bytes moved, all read before any is written. A byte that the barge (`all`) both reads and writes is undefined, and so is what is
read from it; a byte written twice, here or by what went before, ends with one of its values (R245, notes/assumptions/4.md). -/
def State.moveBytes (s : State) (all before l : List Move) : State :=
  let srcs := all.flatMap fun m => s.keysAt m.src m.n
  let dsts := all.flatMap fun m => s.keysAt m.dst m.n
  (l.foldl (init := (s, before.flatMap fun m => s.keysAt m.dst m.n)) fun (acc : State × List Nat) m =>
    let data := s.readAt m.src m.n
    let cur := acc.1.readAt m.dst m.n
    let ks := s.keysAt m.src m.n
    let kd := s.keysAt m.dst m.n
    let r := (List.range m.n).foldl (init := (acc.1, ([] : List Byte))) fun (x : State × List Byte) j =>
      let (b, t) := if srcs.contains (kd.getD j 0) || dsts.contains (ks.getD j 0) then x.1.freeNat 8 else ((data.getD j 0).toNat, x.1)
      let (keep, t) := if acc.2.contains (kd.getD j 0) then t.freeNat 1 else (0, t)
      (t, x.2 ++ [if keep = 1 then cur.getD j 0 else BitVec.ofNat 8 b])
    (r.1.writeAt m.dst r.2, kd ++ acc.2)).1

/-- The bytes a barge's operation moves, for every reader (R166). -/
def State.bargeMoves (s : State) (o : Op) (all before l : List Move) : State :=
  (s.moveBytes all before l).freshen o (l.map fun m => (s.key m.dst, m.n))

/-- What a barge has moved since its START, what it moves up to its first fault, and that fault. -/
def State.bargeAll (s : State) (o : Op) (r : BargeRec) : List Move × List Move × Option BargeStop :=
  let x := s.bargeScan o r r.first (r.total - r.first)
  ((s.bargeScan o r r.start (r.first - r.start)).1, x.1, x.2)

/-- BARGE_COMPLETE of the target operation (R245): where the choice's size names fewer vectors than are left, it moves those and goes
on from the next, so that a capture finds it there (R247). A replayable fault only delays it. -/
def execBargeComplete (s : State) : Out :=
  let i := s.choice.target
  match s.opAt i with
  | none => .next s
  | some o =>
    match o.kind with
    | .barge r true =>
      if o.captured || o.failed.isSome || o.waiting || !s.edgesMet o then .next s
      else
        let all := s.bargeAll o r
        let n := s.choice.size
        if 0 < n ∧ n < r.total - r.first then
          match s.bargeScan o r r.first n with
          | (l, none) =>
            .next (((s.bargeMoves o (all.1 ++ all.2.1) all.1 l).noteCorrected o.layer).modOp i fun o =>
              { o with kind := .barge { r with at_ := some (r.first + n) } true })
          | _ => .next s
        else
          match all with
          | (_, _, some e) =>
            .next (if e.replay then (s.modOp i fun o => { o with waiting := true }).postFault o.layer e.cause (trunc e.faddr 64) else s)
          | (before, l, none) =>
            let t := (s.bargeMoves o (before ++ l) before l).noteCorrected o.layer
            let t := match r.tag with | some k => t.setTag o.crew k .ready | none => t
            .next ((t.advanceReady o.crew i).finish i none 0)
    | _ => .next s

/-- The report of a barge that stopped (R246 Table 3). -/
def BargeRec.report (r : BargeRec) (e : BargeStop) : Nat :=
  let iter := ((List.range 5).map fun k => (if k < r.levels then r.ix e.vec k else 0) * 2 ^ (16 * k)).sum
  trunc e.faddr 57 + iter * 2 ^ 64 + r.reca * 2 ^ 144 + r.tagField * 2 ^ 168 + (if e.dst then 1 else 0) * 2 ^ 174 + e.cause * 2 ^ 176

/-- The stop a barge comes to: the first fault of its own, or an earlier one that reaches it from outside, at the vector
the choice's value numbers, on the destination where its unit is 1, at the piece of it that the choice's lane numbers (R245, R246, R197,
R451). -/
def State.bargeStop (s : State) (o : Op) (r : BargeRec) : Option BargeStop :=
  let h := s.choice
  let own := (s.bargeAll o r).2.2
  let v := h.value
  let dst := h.unit == 1
  let piece := (r.moves v).getD (h.lane % (r.moves v).length) (0, 0, 0)
  let a := if dst then piece.2.1 else r.src v
  let place := if dst then s.bargePlace o .write r.dsp r.daddr a piece.2.2 else s.bargePlace o .read r.ssp r.saddr a (2 ^ r.esz)
  let isHost := match place with | .ok (.host ..) => true | _ => false
  let outside : Option BargeStop :=
    if v < r.first ∨ r.total ≤ v then none
    else match h.answer, h.err with
      | .status _, _ => if isHost then some ⟨v, 0x17, a, dst, false⟩ else none
      | _, .uncorrectable => if dst then none else some ⟨v, 0x1C, a / 64 * 64, false, false⟩
      | _, _ => none
  match outside, own with
  | some e, some f => if e.vec ≤ f.vec then some e else if f.replay then none else some f
  | some e, none => some e
  | none, some f => if f.replay then none else some f
  | none, none => none

/-- What a stopped barge has moved: every vector before the fault, and, of the faulting vector and the later ones, those bytes that
the choice numbers and whose accesses meet no fault (R246). -/
def State.bargePart (s : State) (o : Op) (r : BargeRec) (v : Nat) (later : List Nat) : List Move :=
  (s.bargeScan o r r.first (v - r.first)).1
    ++ later.flatMap fun n =>
        let w := n / 2 ^ r.esz
        if w < v ∨ r.total ≤ w then []
        else (((s.bargeVec o r w).1.flatMap fun m => (List.range m.n).map fun j => (⟨m.src.plus j, m.dst.plus j, 1⟩ : Move))[n % 2 ^ r.esz]?).toList

/-- BARGE_FAULT of the target operation (R246). One that the ring unit refuses, as no slot is claimed (R250), moves nothing: its tag is HELD,
FADDR is the descriptor's offset, and there is no barge report: DESIGN CHOICE (notes/assumptions/18.md). -/
def execBargeFault (s : State) : Out :=
  let i := s.choice.target
  match s.opAt i with
  | none => .next s
  | some o =>
    match o.kind with
    | .barge r taken =>
      if o.captured then .next s
      else
        let held (t : State) : State :=
          let t := match r.tag with | some k => t.setTag o.crew k .held | none => t
          t.modAdvances o.crew fun l => l.map fun a => if a.op = i then { a with held := some r.restart } else a
        match o.failed with
        | some (cause, faddr) => .next ((held s).fail i cause faddr o.lane none)
        | none =>
          if !taken || !s.edgesMet o then .next s
          else match s.bargeStop o r with
          | none => .next s
          | some e =>
            let all := s.bargeAll o r
            let l := s.bargePart o r e.vec s.choice.nums
            let t := s.bargeMoves o (all.1 ++ all.2.1 ++ l) all.1 l
            let t := if s.choice.err = .uncorrectable && e.cause = 0x1C then
                match s.bargePlace o .read r.ssp r.saddr e.faddr 1 with | .ok p => t.poisonLine (t.key p) | .fault .. => t
              else t
            .next ((held t).fail i e.cause (trunc e.faddr 64) o.lane (some (r.report e)))
    | _ => .next s

/-! ### IOREQ -/

/-- IOREQ (R255, R257): one operation for the whole instruction. -/
def execIoreq (p : OPfx) (a : Reg) (o : Ord) (s : State) : Out :=
  issueInstr (.ioreq p a o) s fun c t =>
    c.checked (fun l => (c.recordAddr t 0 l o 32 32).2) <|
      match (lanes c.act).find? fun l => (c.ioRecord t o l).isNone with
      | some l => .trap 0x22 (trunc (c.recordAddr t 0 l o 32 32).1 64) l
      | none => .ok (c.addUni t o (.ioreq ((lanes c.act).filterMap fun l => c.ioRecord t o l) false))

/-- The places of a destination range in the logical device's memory, its fatal refusal (none), or its replayable fault. Home memory
counts wherever it lies, through a peer window or a spread region too (notes/assumptions/49.md). -/
def State.ioRange (s : State) (l : Nat) (r : IoRec) : Except VaFault (Option (List (Place × Nat))) :=
  match s.placesOf l .write r.daddr r.len with
  | .error f => if f.replay then .error f else .ok none
  | .ok ps => .ok (if ps.all fun p => match p.1 with | .home .. => true | _ => false then some ps else none)

/-- The status the part itself gives a request (R257 Table 6), the lowest where several apply (notes/assumptions/49.md): the target,
the length, the destination. -/
def State.ioStatus (s : State) (l : Nat) (r : IoRec) (range : Option (List (Place × Nat))) : Option Nat :=
  match find (s.layer l).iotgts r.tgt with
  | none => some 1
  | some t =>
    if t.kind ≠ r.kind + 1 then some 1
    else if r.kind = 0 ∧ r.len % t.res ≠ 0 then some 2
    else if range.isNone then some 3 else none

/-- The bytes of a request that failed are undefined, as far as its range is mapped (R257, notes/assumptions/4.md). -/
def State.ioScrub (s : State) (l : Nat) (r : IoRec) : State :=
  (piecesOf r.daddr r.len).foldl (init := s) fun t p =>
    match (if 2 ^ 57 < p.1 + p.2 then .fault 0x10 false else s.translate l 0 .write false p.1) with
    | .ok q => let f := t.freeBytes p.2; f.2.writeAt q f.1
    | .fault .. => t

/-- A q25 entry (R257 Table 6). -/
def IoRec.entry (r : IoRec) : Nat := r.cookie * 2 ^ 16 + r.ended.getD 0 * 2 ^ 8 + r.lane

/-- The instruction completes when every lane's request has ended (R257). -/
def State.ioSettle (s : State) (i : Nat) : State :=
  match s.opAt i with
  | none => s
  | some o =>
    match o.kind with
    | .ioreq ls _ =>
      if ls.all (·.ended.isSome) then
        (s.modOp i fun o => { o with kind := .ioreq [] true }).push o.gang 25 (ls.map IoRec.entry) |>.finish i none 0
      else s
    | _ => s

/-- A lane's request ends with a status. -/
def State.ioEnd (s : State) (i : Nat) (ls : List IoRec) (lane status : Nat) : State :=
  (s.modOp i fun o => { o with kind := .ioreq (ls.map fun r => if r.lane = lane then { r with ended := some status } else r) true }).ioSettle i

/-- IOREQ_POST of the target operation (R177, R257). -/
def execIoreqPost (s : State) : Out :=
  let i := s.choice.target
  match s.opAt i with
  | none => .next s
  | some o =>
    match o.kind with
    | .ioreq ls false =>
      if o.captured || o.waiting || !s.edgesMet o then .next s
      else
        match firstSome (fun r => match s.ioRange o.layer r with | .error f => some f | .ok _ => none) ls with
        | some f => .next ((s.modOp i fun o => { o with waiting := true }).postFault o.layer f.cause f.addr)
        | none =>
          let ls' := ls.map fun r => { r with ended := s.ioStatus o.layer r (match s.ioRange o.layer r with | .ok p => p | .error _ => none) }
          let t := s.modOp i fun o => { o with kind := .ioreq ls' true, born := s.clk }
          .next (((ls'.filter (·.ended.isSome)).foldl (fun t r => t.ioScrub o.layer r) t).ioSettle i)
    | _ => .next s

/-- IO_REQUEST_END (R257): the answer of the controller or the remote peer to a lane's request reaches the part. -/
def execIoRequestEnd (s : State) : Out :=
  let i := s.choice.target
  match s.opAt i with
  | none => .next s
  | some o =>
    match o.kind with
    | .ioreq ls true =>
      match ls.find? fun r => r.lane == s.choice.lane && r.ended.isNone with
      | none => .next s
      | some r =>
        match s.choice.answer with
        | .data b =>
          if b.length ≠ r.len then .next s
          else match s.ioRange o.layer r with
          | .ok (some ps) => .next (((s.writePlaces ps b).freshen o (ps.map fun p => (s.key p.1, p.2))).ioEnd i ls r.lane 0)
          | .ok none => .next ((s.ioScrub o.layer r).ioEnd i ls r.lane 3)
          | .error f => .next ((s.modOp i fun o => { o with waiting := true }).postFault o.layer f.cause f.addr)
        | .status c =>
          let ok := if r.kind = 0 then c.toNat == 2 || c.toNat == 4 else c.toNat == 5
          .next (if ok then (s.ioScrub o.layer r).ioEnd i ls r.lane c.toNat else s)
        | .none => .next s
    | _ => .next s

/-- IO_TIMEOUT (R257): a lane's request passes its target's timeout, which is in µs. -/
def execIoTimeout (s : State) : Out :=
  let i := s.choice.target
  match s.opAt i with
  | none => .next s
  | some o =>
    match o.kind with
    | .ioreq ls true =>
      match ls.find? fun r => r.lane == s.choice.lane && r.ended.isNone with
      | none => .next s
      | some r =>
        match find (s.layer o.layer).iotgts r.tgt with
        | none => .next s
        | some t => .next (if t.timeout * s.clkMhz ≤ s.clk - o.born then (s.ioScrub o.layer r).ioEnd i ls r.lane 6 else s)
    | _ => .next s

end Sys2Proof.Machine
end

