-- ==== Sys2Proof/Machine/Context.lean ====
section
/-! DEFINITION. The context array: its layout, saving a crew into its area, and loading it from there
(spec/17_system.md R429, R430, R441 to R443, spec/09_barges.md R253, R254). -/

namespace Sys2Proof.Machine

/-! ### Layout -/

def roundUp (x a : Nat) : Nat := (x + a - 1) / a * a

/-- Caddy nodes of a crew: CADDY × 1024, 4096 for 0 (R21). -/
def Descriptor.caddyNodes (d : Descriptor) : Nat := if d.caddy = 0 then 4096 else 1024 * d.caddy

/-- Bytes of a gang block (R430). -/
def Descriptor.blockSize (d : Descriptor) : Nat := 0x8000 + 0x4000 * d.accs

/-- Z(G, C) (R429). -/
def Descriptor.areaSize (d : Descriptor) (g c : Nat) : Nat :=
  roundUp (0x5000 + g * d.blockSize + 0x800 * d.scratch + 16 * c + 0x2000) 0x1000

/-- The context area of a convoy's crew. -/
def Descriptor.crewArea (d : Descriptor) (ix cvx cvy cvz : Nat) : Nat :=
  d.ctx + 0x1000 + (ix + (d.crews + 1) * (cvx + d.gridx * (cvy + d.gridy * cvz))) * d.areaSize (d.gangs + 1) d.caddyNodes

/-- The context area of a task gang. -/
def Descriptor.taskArea (d : Descriptor) (cluster core slot : Nat) : Nat :=
  d.ctx + 0x1000 + (d.crews + 1) * d.gridx * d.gridy * d.gridz * d.areaSize (d.gangs + 1) d.caddyNodes
    + (256 * cluster + 32 * core + slot) * d.areaSize 1 4096

/-- The gang block of a gang. -/
def State.blockAddr (s : State) (gid : Nat) : Nat :=
  let cr := s.crew (s.gang gid).crew
  cr.ctx + 0x5000 + (s.launch cr.launch).desc.blockSize * (s.gang gid).ix

/-! ### Saving -/

/-- Pieces of bytes at virtual addresses. -/
abbrev Pieces := List (Nat × List Byte)

/-- They are written from stage-one router k, or the FE die. -/
def State.writePieces (s : State) (l : Nat) (k : Option Nat) : Pieces → Except VaFault State
  | [] => .ok s
  | p :: ps => match s.partWrite l p.1 p.2 k with | .error f => .error f | .ok t => t.writePieces l k ps

/-- The gang block (R430 Table 6); registers above the allotment are undefined. -/
def State.gangPieces (s : State) (gid : Nat) : Pieces × State :=
  let g := s.gang gid
  let b := s.blockAddr gid
  let accs := (s.launch (s.crew g.crew).launch).desc.accs
  let ls := List.range 32
  let f := s.freeBytes ((192 - 16 * g.allot) * 128)
  ([(b, (List.range (16 * g.allot)).flatMap fun n => ls.flatMap fun l => toBytes (g.vreg n l) 4),
    (b + 2048 * g.allot, f.1),
    (b + 0x6000, ls.flatMap fun n => toBytes (g.greg n) 4),
    (b + 0x6080, (List.range 12).flatMap fun k => toBytes (g.mask k).toNat 4),
    (b + 0x6100, ls.flatMap fun l => toBytes (g.framePc l) 8)]
    ++ (ls.map fun l => (b + 0x6200 + 128 * l, (g.thread l).stack.reverse.flatMap fun x => toBytes x 8))
    ++ [(b + 0x7200, ls.map fun l => BitVec.ofNat 8 (g.thread l).stack.length),
        (b + 0x7220, ls.map fun l => BitVec.ofNat 8 (g.stateCode l)),
        (b + 0x7240, toBytes g.allot 4 ++ toBytes g.role.toNat 4 ++ toBytes g.level 4
          ++ toBytes (g.sf.foldl (fun a r => a ||| 2 ^ r.tok) 0) 4),
        (b + 0x7250, toBytes g.stamp.toNat 8)]
    ++ ((List.range accs).map fun k => (b + 0x8000 + 0x4000 * k,
          ls.flatMap fun r => ls.flatMap fun j => toBytes (g.chain k r j 0) 8 ++ toBytes (g.chain k r j 1) 8)), f.2)

/-- The first 12 bytes of a context area (R430 Table 5); locked lines are lost on leaving the core (R441, R443). -/
def Crew.header (c : Crew) (state : Nat) : List Byte :=
  toBytes state 4 ++ toBytes ((if c.lost || !c.locked.isEmpty then 1 else 0) + 16 * c.hm.toNat) 4
    ++ toBytes (256 * c.layer + 16 * c.cluster + c.core) 4

/-- The caddy slots (R268): the node each holds. -/
def Crew.slotBytes (c : Crew) : List Byte :=
  (List.range c.caddyC).flatMap fun i =>
    let j := look c.caddy.slots i 0
    match find c.caddy.nodes j with
    | some n => nodeBytes n (look c.caddy.gens j 0)
    | none => nodeBytes ⟨0, 0, 0, 0, 0, 0⟩ (look c.caddy.gens i 0)

/-- The unretired gangs of a crew. -/
def State.liveGangs (s : State) (c : Nat) : List Nat := (s.crew c).gangs.filter fun g => !(s.gang g).retired

/-- Writes the gang blocks and the header of a crew. -/
def State.saveBlocks (s : State) (c state : Nat) : Except VaFault State :=
  let cr := s.crew c
  (s.liveGangs c).foldl (init := s.writePieces cr.layer (some (s.clusterRouter c)) [(cr.ctx, cr.header state)]) fun acc gid =>
    match acc with
    | .error f => .error f
    | .ok t => let p := t.gangPieces gid; p.2.writePieces cr.layer (some (s.clusterRouter c)) p.1

/-- Writes a crew's whole context area (R441): what the implementation keeps in a form of its own is free. -/
def State.saveArea (s : State) (c : Nat) : Except VaFault State :=
  match s.saveBlocks c 2 with
  | .error f => .error f
  | .ok t =>
    let cr := s.crew c
    let d := (s.launch cr.launch).desc
    let own := t.freeBytes 4084
    let cmds := own.2.freeBytes 0x2000
    let a := cr.ctx + 0x5000 + cr.gangs.length * d.blockSize
    cmds.2.writePieces cr.layer (some (s.clusterRouter c))
      [(cr.ctx + 12, own.1), (a, s.readAt (.scratch c 0) (0x800 * d.scratch)), (a + 0x800 * d.scratch, cr.slotBytes),
       (a + 0x800 * d.scratch + 16 * cr.caddyC, cmds.1)]

/-! ### Loading -/

/-- Little-endian values of n bytes each. -/
def chunksOf (n : Nat) (b : List Byte) (k : Nat) : Nat := ofBytes ((b.drop (n * k)).take n)

/-- The registers of a gang block, as the context area holds them (R443), and the releases its masks bring about (R95). A row of a tile that
a matrix command has written since it was saved keeps what the command left (R312). The wait counts are 0, as R83 has it of a restore; of a
return from a yield no rule says: DESIGN CHOICE (notes/assumptions/60.md). A program counter with bits [63:57] or [1:0] set is taken modulo
2^57 and not aligned: DESIGN CHOICE (notes/assumptions/48.md). -/
def Gang.load (g : Gang) (v gr m pc : List Byte) (acc : List (List Byte)) : Gang :=
  let cells (n : Nat) (f : Nat → Nat) : List (Nat × BitVec 32) := (List.range n).filterMap fun k => if f k = 0 then none else some (k, BitVec.ofNat 32 (f k))
  let g := { g with
    v := cells (512 * g.allot) (chunksOf 4 v)
    g := cells 32 (chunksOf 4 gr)
    m := cells 12 fun k => if k = 0 then g.live.toNat else chunksOf 4 m k
    acc := (acc.mapIdx fun t (b : List Byte) =>
      (List.range 2048).filterMap fun k =>
        let x := if g.late.contains (32 * t + k / 64) then (look g.acc (2048 * t + k) 0).toNat else chunksOf 8 b k % 2 ^ 56
        if x = 0 then none else some (2048 * t + k, BitVec.ofNat 56 x)).flatten
    late := [] }
  Gang.releaseAll { g with threads := g.threads.mapIdx fun l t => if hasLane g.live l then { t with pc := chunksOf 8 pc l % 2 ^ 57, count := 0 } else t }

/-- A gang's registers, masks m1 to m11, program counters and tiles loaded from its block (R443). What else software may have changed in
the area - return stacks and their depths, thread states, allotment, role, level, the scratchpad image, caddy slots, the header with HM -
R443 leaves to R4, and it is ignored: DESIGN CHOICE (notes/assumptions/21.md). -/
def State.loadGang (s : State) (gid : Nat) : Except VaFault State :=
  let g := s.gang gid
  let cr := s.crew g.crew
  let b := s.blockAddr gid
  let rd (off n : Nat) := s.partRead cr.layer (b + off) n
  match rd 0 (2048 * g.allot), rd 0x6000 128, rd 0x6080 48, rd 0x6100 256,
      rd 0x8000 (0x4000 * (s.launch cr.launch).desc.accs) with
  | .ok v, .ok gr, .ok m, .ok pc, .ok acc =>
    let accs := (s.launch cr.launch).desc.accs
    .ok ((s.modGang gid fun g => g.load v gr m pc ((List.range accs).map fun k => (acc.drop (0x4000 * k)).take 0x4000)).noteAccess
      cr.layer (some (s.clusterRouter g.crew)) .read b (0x8000 + 0x4000 * accs))
  | .error f, _, _, _, _ => .error f
  | _, .error f, _, _, _ => .error f
  | _, _, .error f, _, _ => .error f
  | _, _, _, .error f, _ => .error f
  | _, _, _, _, .error f => .error f

/-- Every gang of a crew loaded, and STATE := 1. -/
def State.loadCrew (s : State) (c : Nat) : Except VaFault State :=
  let cr := s.crew c
  match (s.liveGangs c).foldl (init := .ok s) fun (acc : Except VaFault State) gid =>
      match acc with | .error f => .error f | .ok t => t.loadGang gid with
  | .error f => .error f
  | .ok t => t.writePieces cr.layer (some (s.clusterRouter c)) [(cr.ctx, toBytes 1 4)]

/-- The gangs of a crew take slots. -/
def State.takeSlots (s : State) (c : Nat) (slots : List Nat) : State :=
  ((s.liveGangs c).zip slots).foldl (fun t p => t.modGang p.1 fun g => { g with slot := p.2 }) s

/-! ### Core-cycles -/

/-- The charge of a crew reaches the deficit of its queue (R30, R469). -/
def State.chargeCrew (s : State) (c : Nat) : State :=
  let cr := s.crew c
  let n := s.launch cr.launch
  let x := s.cq n.layer n.queue
  let due := cr.charged + if cr.status = .resident then (s.clk - cr.since) * (s.liveGangs c).length else 0
  (s.setCq n.layer n.queue { x with deficit := x.deficit - due }).modCrew c fun k => { k with charged := 0, since := s.clk }

/-- A crew leaves its core: its charge, its locked lines, its weir context's place (R441, R446, R253). -/
def State.leaveCore (s : State) (c : Nat) (st : CrewStatus) : State :=
  (s.chargeCrew c).modCrew c fun k => { k with status := st, lost := k.lost || !k.locked.isEmpty, locked := [] }

/-- A crew of a logical device by its context area (R444, R453). -/
def State.crewByArea (s : State) (l a : Nat) (p : Crew → Bool) : Option Nat :=
  ((s.crews.find? fun q => q.2.layer == l && q.2.ctx == a && p q.2)).map (·.1)

end Sys2Proof.Machine
end

