-- ==== Sys2Proof/Machine/Tasks.lean ====
section
/-! DEFINITION. Tasks, bins, register claims and queue lengths (spec/15_tasks.md R373 to R387, R392). -/

namespace Sys2Proof.Machine

/-! ### Claims -/

/-- A grant (R385): n chunks join the top of the gang's allotment, zero in every lane. -/
def Gang.grant (g : Gang) (n : Nat) : Gang :=
  let b := g.allot
  { g with allot := b + n
           v := g.v.filter fun p => !(decide (16 * b ≤ p.1 / 32) && decide (p.1 / 32 < 16 * (b + n))) }

/-- A waiting claim is granted: its lanes move on (R385). -/
def State.grantClaim (s : State) (k : Claim) : State :=
  s.modGang k.gang fun g =>
    (g.grant k.n).modLanes k.lanes fun t => if t.wait = .claim then { t with wait := .none, pc := k.next } else t

/-- The claims `pool` chunks satisfy, in order, each in full; claims of a gang in a handler, or of another role where one
is asked for, are passed over (R385 to R387). The result is what is left of the chunks. -/
def State.grantFrom (s : State) (crew : Nat) (role : Option (BitVec 2)) (pool : Nat) : State × Nat :=
  ((s.crew crew).claims).foldl (init := (s, pool)) fun (acc : State × Nat) k =>
    let g := acc.1.gang k.gang
    if g.handler.isSome || (role.isSome && role != some g.role) || acc.2 < k.n then acc
    else ((acc.1.grantClaim k).modCrew crew fun c => { c with claims := c.claims.filter (· != k) }, acc.2 - k.n)

/-- The pool grants what it can (R385). -/
def State.grantPool (s : State) (crew : Nat) : State :=
  let r := s.grantFrom crew none (s.crew crew).pool
  r.1.modCrew crew fun c => { c with pool := r.2 }

/-- The chunks a crew holds: (GANGS + 1) × REGS (R384). -/
def Ctx.crewChunks (c : Ctx) : Nat :=
  if c.crew.task then c.launch.desc.regs else (c.launch.desc.gangs + 1) * c.launch.desc.regs

/-- The test of CLAIM at issue (R385). -/
def Ctx.claimRefused (c : Ctx) (n : Nat) : Bool :=
  let w := ((c.crew.claims.filter (·.gang == c.gid)).map (·.n)).sum
  let a := c.gang.allot
  decide (12 < a + w + n) || decide (c.crewChunks < n + a + w)

def execClaim (n : BitVec 4) (s : State) : Out :=
  issueInstr (.claim n) s fun c t =>
    if c.claimRefused n.toNat then .trap 0x03 0 255
    else
      let k : Claim := { gang := c.gid, inner := c.gang.handler.isSome, pc := c.pc, next := c.next, lanes := c.run, n := n.toNat }
      let t := (c.park t fun _ => .claim).modCrew c.crewId fun x => { x with claims := x.claims ++ [k] }
      .ok (t.grantPool c.crewId)

def execClaimTry (d : Reg) (n : BitVec 4) (s : State) : Out :=
  issueInstr (.claimTry d n) s fun c t =>
    if c.claimRefused n.toNat then .trap 0x03 0 255
    else if n.toNat ≤ c.crew.pool then
      let t := (t.modCrew c.crewId fun x => { x with pool := x.pool - n.toNat }).modGang c.gid fun g => g.grant n.toNat
      .ok (c.writeU t d.toNat 1 1)
    else .ok (c.writeU t d.toNat 1 0)

/-- The top n chunks leave the allotment; the references they hold are released (R386, R269). -/
def Ctx.takeBack (c : Ctx) (s : State) (n : Nat) : State :=
  let a := c.gang.allot
  let es := (List.range 48).filter fun e => decide (16 * (a - n) ≤ 4 * e) && decide (4 * e < 16 * a)
  let s := es.foldl (fun t e => (List.range 32).foldl (fun t l => t.releaseE c.gid e l) t) s
  s.modGang c.gid fun g => { g with
    allot := a - n
    v := g.v.filter fun p => !(decide (16 * (a - n) ≤ p.1 / 32) && decide (p.1 / 32 < 16 * a)) }

def execGive (n : BitVec 4) (s : State) : Out :=
  issueInstr (.give n) s fun c t =>
    if c.gang.allot ≤ n.toNat then .trap 0x03 0 255
    else .ok (((c.takeBack t n.toNat).modCrew c.crewId fun x => { x with pool := x.pool + n.toNat }).grantPool c.crewId)

def execGiveRole (r : BitVec 2) (n : BitVec 4) (s : State) : Out :=
  issueInstr (.giveRole r n) s fun c t =>
    if c.gang.allot ≤ n.toNat then .trap 0x03 0 255
    else
      let g := (c.takeBack t n.toNat).grantFrom c.crewId (some r) n.toNat
      .ok ((g.1.modCrew c.crewId fun x => { x with pool := x.pool + g.2 }).grantPool c.crewId)

/-! ### Leaving a handler -/

/-- A claim as its gang leaves its handler: of the lanes that wait for it again; one made in the handler has none (R385, R437). -/
def Claim.resume (gid : Nat) (g : Gang) (k : Claim) : Option Claim :=
  if k.gang ≠ gid then some k
  else
    let m := laneSet fun l => hasLane k.lanes l && (g.thread l).wait == Wait.claim
    if k.inner || m == 0 then none else some { k with lanes := m }

/-- What every return does with the frame (R436, R437, R387); a fatal fault on it ends the launch (R429). `after` acts past the
frame's values; a thread at a TKTW tests SERV again (R434). -/
def State.leaveHandler (s : State) (gid : Nat) (h : Handler) (after : State → State) : State :=
  let c := (s.gang gid).crew
  match s.readFrame gid h.frame with
  | .error f => s.killCrew c f.cause f.addr
  | .ok f =>
    let s := (after (s.modGang gid fun g => g.leave f h.waits)).testTickets gid none
    let s := s.modCrew c fun x => { x with claims := x.claims.filterMap (Claim.resume gid (s.gang gid)) }
    ((s.unwind gid).grantPool c).noteAccess (s.crew c).layer (some (s.clusterRouter c)) .read h.frame 1024

/-- The length of the instruction a trap names: as it was fetched; where its fetch failed, as it fetches now, and where it still
does not, a length the manual leaves open (R31, R383, notes/assumptions/4.md). -/
def State.faultLen (s : State) (gid : Nat) (t : Trap) : Nat × State :=
  if t.len ≠ 0 then (t.len, s)
  else match s.fetchWords (s.gang gid).crew t.at_ 0 with
    | .words ws => (4 * ws.length, s)
    | .fault .. => let f := s.freeNat 2; (4 + 4 * f.1, f.2)

/-- Where the resolved lanes resume after their actions (R383): past the faulting instruction for skip, at the entry for retry, whose
v0 and v1 are written by R60. -/
def State.resolve (s : State) (gid : Nat) (h : Handler) (tk : TaskGang) : State :=
  let n := s.faultLen gid h.trap
  h.resolved.foldl (init := n.2) fun s p =>
    match p.2 with
    | 1 => if h.trap.issue then
        s.modGang gid fun g => g.modLanes (laneBit p.1) fun t => { t with pc := look h.trap.past p.1 (h.trap.at_ + n.1), wait := .none }
      else s
    | 2 => (s.writeVs gid 0 2 p.1 (tk.v0.getD p.1 0 + tk.v1.getD p.1 0 * 2 ^ 32)).modGang gid fun g =>
        g.modLanes (laneBit p.1) fun t => { t with pc := tk.entry, wait := .none }
    | _ => s

/-- TDONE (R383): 0 fix, 1 skip, 2 retry, 3 kill. -/
def execTdone (k : BitVec 8) (act : BitVec 2) (s : State) : Out :=
  issueInstr (.tdone k act) s fun c t =>
    match c.gang.handler, c.gang.task with
    | some h, some tk =>
      let done := laneSet fun l => h.resolved.any (·.1 == l)
      let now := h.trap.lanes &&& c.gang.mask k.toNat &&& c.gang.live &&& ~~~ done
      if now = 0 then .ok t
      else
        let h := { h with resolved := h.resolved ++ (lanes now).map fun l => (l, act.toNat) }
        let t := t.modGang c.gid fun g => { g with handler := some h }
        let t := if act = 3 then t.modGang c.gid fun g => g.exit now else t
        let left := h.trap.lanes &&& (t.gang c.gid).live &&& ~~~ (done ||| now)
        if left = 0 then .ok (t.leaveHandler c.gid h fun t => t.resolve c.gid h tk) else .ok t
    | _, _ => .ok t

/-! ### Queue lengths -/

def execQlen (d q : Reg) (room : Bool) (s : State) : Out :=
  issueInstr (.qlen d q room) s fun c t =>
    let n := q.toNat - 224
    .ok (c.writeU t d.toNat 1 (if room then c.pre.qRoom c.gid n else (c.pre.queue c.gid n).length))

/-! ### Bins -/

/-- BIN_CLOSE (R375). -/
def Cluster.close (x : Cluster) (b : Nat) : Cluster :=
  { x with bins := alter x.bins b fun n => { n with closed := true }, ready := x.ready ++ [b] }

def Cluster.openBins (x : Cluster) : List (Nat × Bin) := x.bins.filter fun p => !p.2.closed

/-- The bin unit takes a task of SPAWN `op`: into its open bin, else a free one; with neither, the bin opened earliest closes, once,
and the task waits, ahead of every other, until a bin is free (R375). The number is the task's number in its launch's count. -/
def Cluster.enter (x : Cluster) (op cix launch entry record clk : Nat) : Cluster × Bool :=
  let n := look x.counts launch 0
  let task := (record, cix * 2 ^ 28 + n % 2 ^ 28)
  let x' := { x with counts := insert x.counts launch (n + 1), waits := none }
  match x.openBins.find? fun p => p.2.launch == launch && p.2.entry == entry with
  | some (b, bin) =>
    let y := { x' with bins := insert x.bins b { bin with tasks := bin.tasks ++ [task] } }
    (if bin.tasks.length + 1 = 32 then y.close b else y, true)
  | none =>
    match (List.range 64).find? fun b => (find x.bins b).isNone with
    | some b => ({ x' with bins := insert x.bins b { closed := false, entry := entry, launch := launch, tasks := [task], opened := clk } }, true)
    | none =>
      let y : Cluster := { x with waits := some op }
      match (if x.waits = some op then [] else x.openBins) with
      | [] => (y, false)
      | p :: ps =>
        (y.close (ps.foldl (fun (a q : Nat × Bin) => if q.2.opened < a.2.opened then q else a) p).1, false)

/-- Tasks of a SPAWN enter in order while a bin takes them; the result is how many did (R374). -/
def Cluster.enterAll (x : Cluster) (op cix launch entry base clk : Nat) : Nat → Nat → Cluster × Nat
  | 0, done => (x, done)
  | n + 1, done =>
    match x.enter op cix launch entry (base + 16 * done) clk with
    | (y, true) => y.enterAll op cix launch entry base clk n (done + 1)
    | (y, false) => (y, done)

/-- SPAWN (R374). -/
def execSpawn (x a b : Reg) (o : Ord) (s : State) : Out :=
  issueInstr (.spawn x a b o) s fun c t =>
    let e := c.u 2
    let n := c.u 1
    let base : Int := (c.u 0 : Int) + o.off.toInt * 16
    if badTarget e then .trap 0x05 0 255
    else if n = 0 ∨ 32 < n then .trap 0x24 0 255
    else if 160 < c.launch.desc.scratch then .trap 0x24 0 255
    else if base < 0 ∨ (2 ^ 32 : Int) < base + 16 * n then .trap 0x10 (trunc base 64) 255
    else if base % 16 ≠ 0 then .trap 0x12 (trunc base 64) 255
    else .ok (c.addUni t o (.spawn e base.toNat n))

/-- The SPAWNs whose tasks stand before the bin unit of a cluster: those whose edges are satisfied, in issue order behind the one whose
task waits in the unit (R374, R375). -/
def State.binQueue (s : State) (l cl : Nat) : List (Nat × Op) :=
  let q := s.ops.filter fun p => !p.2.captured && (match p.2.kind with | .spawn .. => true | _ => false)
    && (s.crew p.2.crew).layer == l && (s.crew p.2.crew).cluster == cl && s.edgesMet p.2
  q.filter (fun p => (s.cluster l cl).waits == some p.1) ++ q.filter fun p => (s.cluster l cl).waits != some p.1

/-- The bin unit takes tasks of the first of them. -/
def State.takeTasks (s : State) (l cl : Nat) : State :=
  match (s.binQueue l cl).head? with
  | none => s
  | some (i, o) =>
    match o.kind with
    | .spawn e base n =>
      let r := (s.cluster l cl).enterAll i cl (s.crew o.crew).launch e base s.clk n 0
      let t := s.setCluster l cl r.1
      if r.2 = n then t.finish i none 0
      else t.modOp i fun o => { o with kind := .spawn e (base + 16 * r.2) (n - r.2) }
    | _ => s

/-- SPAWN_TASKS_ENTER (R374) of the target operation, once it stands first before its cluster's bin unit (R375). -/
def execSpawnTasksEnter (s : State) : Out :=
  match s.opAt s.choice.target with
  | none => .next s
  | some o =>
    let cr := s.crew o.crew
    if ((s.binQueue cr.layer cr.cluster).map (·.1)).head? = some s.choice.target then .next (s.takeTasks cr.layer cr.cluster) else .next s

/-- The bin unit receives a BFLUSH after the SPAWNs its gang issued before it, whose tasks enter first as far as bins take them
(R376). -/
def State.beforeFlush (s : State) (gid : Nat) : State :=
  let cr := s.crew (s.gang gid).crew
  if (s.binQueue cr.layer cr.cluster).any fun p => p.2.gang == gid then
    (s.binQueue cr.layer cr.cluster).foldl (fun t _ => if (t.binQueue cr.layer cr.cluster).any fun p => p.2.gang == gid then t.takeTasks cr.layer cr.cluster else t) s
  else s

/-- Closes the open bins of the launch that satisfy p, in ascending order (R376). -/
def Cluster.flush (x : Cluster) (p : Bin → Bool) : Cluster :=
  (x.openBins.filter fun b => p b.2).foldl (fun y b => y.close b.1) x

def execBflush (x : Reg) (s : State) : Out :=
  issueInstr (.bflush x) s fun c t =>
    let t := t.beforeFlush c.gid
    let cl := t.cluster c.layer c.crew.cluster
    .ok (t.setCluster c.layer c.crew.cluster (cl.flush fun b => b.launch == c.crew.launch && b.entry == c.u 0))

def execBflushAll (s : State) : Out :=
  issueInstr .bflushAll s fun c t =>
    let t := t.beforeFlush c.gid
    let cl := t.cluster c.layer c.crew.cluster
    .ok (t.setCluster c.layer c.crew.cluster (cl.flush fun b => b.launch == c.crew.launch))

/-- An open bin's timer expires (R375): BINTIME clk since its first task entered. -/
def execBinTimerExpiry (s : State) : Out :=
  let h := s.choice
  let x := s.cluster h.layer h.cluster
  match find x.bins h.unit with
  | some b =>
    if !b.closed && decide (b.opened + (s.launch b.launch).desc.bintime ≤ s.clk) then
      .next (s.setCluster h.layer h.cluster (x.close h.unit))
    else .next s
  | none => .next s

end Sys2Proof.Machine
end

