-- ==== Sys2Proof/Machine/Weir.lean ====
section
/-! DEFINITION. The weir sequencer (spec/13_weir.md R335 to R348). -/

namespace Sys2Proof.Machine

/-! ### Issue -/

def OpKind.isWeir : OpKind → Bool
  | .weir .. => true
  | _ => false

/-- The weir commands of a crew not yet ended, captured ones among them, in issue order. -/
def State.weirOps (s : State) (crew : Nat) : List (Nat × Op) := s.ops.filter fun p => p.2.crew == crew && p.2.kind.isWeir

/-- The context as the crew's issued commands will leave its configuration (R340). -/
def State.weirAhead (s : State) (crew : Nat) : Weir :=
  (s.weirOps crew).foldl (init := (s.crew crew).weir) fun w p =>
    match p.2.kind with | .weir (.wcfg x) _ => { x with step := w.step } | _ => w

/-- The checks of a scratchpad operand: range, then alignment (R340). -/
def weirOperands (limit : Nat) (l : List (Nat × Nat)) : Option (Nat × Nat) :=
  match l.find? fun p => decide (limit < p.1 + p.2) with
  | some p => some (0x11, p.1)
  | none => (l.find? fun p => p.1 % 32 != 0).map fun p => (0x12, p.1)

/-- A weir instruction issues its command once every active lane passes (R340). -/
def weirInstr (i : Instr) (o : Ord) (s : State) (one : Bool) (bad : Ctx → State → Nat → Option (Nat × Nat)) (kind : Ctx → State → WeirKind)
    (lane : Ctx → Nat → WeirLane) (zero : Option (Nat × Nat)) : Out :=
  issueInstr i s fun c t =>
    let ls := if one then [c.lane0] else lanes c.act
    match firstSome (fun l => (bad c t l).map fun p => (p.1, p.2, l)) ls with
    | some (cause, faddr, l) => .trap cause faddr l
    | none =>
      let k := kind c t
      let t := match zero with | some (d, n) => c.zeroRest t d n | none => t
      .ok (c.addUni t o (.weir k (ls.map (lane c))))

/-- A configuration record (R341 Table 4); none where it breaches the table. -/
def parseWeir (r : Nat) : Option Weir :=
  let thr := bits r 95 64
  let ntile := bits r 111 96
  let thrOk : Bool := match unpack .f32 false thr with
    | .nan .. => false
    | .inf s => !s
    | .fin s m _ => !s || m == 0
  if bits r 255 128 = 0 ∧ 1 ≤ ntile ∧ ntile ≤ 4096 ∧ thrOk ∧ bits r 63 57 = 0 ∧ bits r 5 0 = 0 then
    some { cfg := true, tbase := bits r 56 0, ntile := ntile, thr := thr, maxskip := bits r 127 112 }
  else none

def Ctx.weirRecord (c : Ctx) (t : State) : Option Weir := parseWeir (ofBytes (t.readAt (.scratch c.crewId (c.u 0)) 32))

def execWcfg (p : OPfx) (a : Reg) (o : Ord) (s : State) : Out :=
  weirInstr (.wcfg p a o) o s true
    (fun c t _ => match weirOperands (t.partition c.crewId) [(c.u 0, 32)] with
      | some x => some x
      | none => if (c.weirRecord t).isNone then some (0x31, c.u 0) else none)
    (fun c t => .wcfg ((c.weirRecord t).getD {})) (fun _ l => { lane := l }) none

def execWsig (p : OPfx) (d a : Reg) (o : Ord) (bf : Bool) (s : State) : Out :=
  weirInstr (.wsig p d a o bf) o s false
    (fun c t l => weirOperands (t.partition c.crewId) [(c.val 0 l, if bf then 2048 else 4096), (c.val 1 l, 32)])
    (fun _ _ => .wsig bf) (fun c l => { lane := l, a := c.val 0 l, c := c.val 1 l }) none

def execWtest (p : OPfx) (d x c : Reg) (o : Ord) (n : Reg) (skm : BitVec 4) (s : State) : Out :=
  weirInstr (.wtest p d x c o n skm) o s false
    (fun k t l => match weirOperands (t.partition k.crewId) [(k.val 1 l, 32)] with
      | some e => some e
      | none =>
        let w := t.weirAhead k.crewId
        if !w.cfg then some (0x31, 0) else if w.ntile ≤ k.val 0 l then some (0x31, k.val 0 l) else none)
    (fun _ _ => .wtest d.toNat skm.toNat) (fun k l => { lane := l, a := k.val 0 l, c := k.val 1 l, n := k.val 2 l }) (some (d.toNat, 2))

def execWskip (p : OPfx) (d x : Reg) (o : Ord) (v : BitVec 2) (s : State) : Out :=
  weirInstr (.wskip p d x o v) o s true
    (fun c t _ => if v = 0 && !(t.weirAhead c.crewId).cfg then some (0x31, 0) else none)
    (fun c _ => .wskip v.toNat (if v = 0 then c.u 0 else 0) d.toNat)
    (fun _ l => { lane := l }) (some (d.toNat, if v = 2 then 2 else 1))

def execWstep (p : OPfx) (o : Ord) (s : State) : Out :=
  weirInstr (.wstep p o) o s true (fun _ _ _ => none) (fun _ _ => .wstep none) (fun _ l => { lane := l }) none

def execWstepSet (p : OPfx) (x : Reg) (o : Ord) (s : State) : Out :=
  weirInstr (.wstepSet p x o) o s true (fun _ _ _ => none) (fun c _ => .wstep (some (c.u 0))) (fun _ l => { lane := l }) none

/-! ### Residence -/

/-- The cluster of a crew. -/
def State.crewCluster (s : State) (crew : Nat) : Cluster := s.cluster (s.crew crew).layer (s.crew crew).cluster
def State.modCluster (s : State) (crew : Nat) (f : Cluster → Cluster) : State :=
  s.setCluster (s.crew crew).layer (s.crew crew).cluster (f (s.crewCluster crew))

/-- A command of the crew stands in the weir unit: one that no frame or context holds. -/
def State.weirUsed (s : State) (crew : Nat) : Bool := (s.weirOps crew).any fun p => !p.2.captured

/-- A context is written out into its crew's area, in the part's own form (R336, R430 Table 5). -/
def State.weirOut (s : State) (j : Nat) : Except VaFault State :=
  let f := s.freeBytes 4084
  f.2.partWrite (s.crew j).layer ((s.crew j).ctx + 12) f.1 (some (s.clusterRouter j))

/-- WEIR_CONTEXT_LOAD (R336) of the target crew, which has a command in the unit: it takes a free place, or that of the least
recently used context no command is using, which is written out. A fatal fault there kills that context's crew (R429). -/
def execWeirContextLoad (s : State) : Out :=
  let k := s.choice.target
  let w := (s.crewCluster k).weirs
  if w.contains k || !s.weirUsed k || (s.crew k).status == .saved || (s.crew k).status == .retired then .next s
  else if w.length < 32 then .next (s.modCluster k fun c => { c with weirs := k :: w })
  else match w.reverse.find? fun j => !s.weirUsed j with
    | none => .next s
    | some j =>
      let load (t : State) : State := t.modCluster k fun c => { c with weirs := k :: c.weirs.filter (· != j) }
      match s.weirOut j with
      | .ok t => .next (load t)
      | .error f => .next (s.onFault (s.crew j).layer f fun s => load (s.killCrew j f.cause f.addr))

/-- The command uses its resident context. -/
def State.weirTouch (s : State) (crew : Nat) : State := s.modCluster crew fun c => { c with weirs := crew :: c.weirs.filter (· != crew) }

/-- A command may act: its edges, its context's residence, and its turn among the crew's commands on the context (R348). -/
def State.weirTurn (s : State) (i : Nat) (o : Op) : Bool :=
  !o.captured && !o.waiting && o.failed.isNone && s.edgesMet o && (s.crewCluster o.crew).weirs.contains o.crew
    && (match o.kind with
        | .weir (.wsig _) _ => true
        | _ => (s.weirOps o.crew).all fun p => decide (i ≤ p.1) || (match p.2.kind with | .weir (.wsig _) _ => true | _ => false))

/-! ### Signatures and tests -/

/-- One value of a signature (R342). Of 64 elements that are all −0 it is +0, which R132 does not settle: DESIGN CHOICE
(notes/assumptions/52.md). -/
def sigValue (ftz : Bool) (vs : List Fv) : Nat :=
  if vs.any Fv.isNan then 0x7FC0
  else
    let inf (n : Bool) : Bool := vs.any fun v => v == .inf n
    if inf true && inf false then 0x7FC0
    else if inf true then Fmt.bf16.inf true
    else if inf false then Fmt.bf16.inf false
    else
      match vs.foldl (fun a v => addOpt a (fvOpt v)) (some (Ep.fin 0 0)) with
      | some (.fin m e) => roundInt .bf16 0 ftz false m (e - 6)
      | _ => 0x7FC0

/-- The signature of a tile (R342). -/
def signature (bf ftz : Bool) (tile : List Byte) : List Byte :=
  (List.range 16).flatMap fun k =>
    let vs := (List.range 64).map fun j =>
      let r := 8 * (k / 4) + j / 8
      let c := 8 * (k % 4) + j % 8
      if bf then unpack .bf16 ftz (ofBytes ((tile.drop (64 * r + 2 * c)).take 2)) else unpack .f32 ftz (wordAt tile r c)
    toBytes (sigValue ftz vs) 2

/-- D of two signatures, rounded (R343). -/
def sigDistance (c p : Nat) : Nat :=
  let term (k : Nat) : Option Ep :=
    match fvOpt (unpack .bf16 false (bits c (16 * k + 15) (16 * k))), fvOpt (unpack .bf16 false (bits p (16 * k + 15) (16 * k))) with
    | some x, some y => (x.add y.neg).map fun d => match d with | .inf _ => .inf false | .fin m e => .fin m.natAbs e
    | _, _ => none
  packOpt .f32 0 false ((List.range 16).foldl (fun a k => addOpt a (term k)) (some (.fin 0 0)))

/-- D < THR (R343). -/
def belowThr (d thr : Nat) : Bool :=
  match fvOpt (unpack .f32 false d), fvOpt (unpack .f32 false thr) with
  | some x, some y => !y.le x
  | _, _ => false

/-- A weir-table entry (R337 Table 2). -/
structure WeirEntry where
  step : Nat
  tv : Bool
  dec : Bool
  age : Nat
  lastd : Nat
  out : Nat
  psig : Nat
  deriving DecidableEq, Repr

def parseEntry (e : Nat) : WeirEntry :=
  { step := bits e 415 384, tv := tbit e 369, dec := tbit e 368, age := bits e 367 352, lastd := bits e 351 320
    out := bits e 319 256, psig := bits e 255 0 }

def WeirEntry.bytes (e : WeirEntry) : List Byte :=
  toBytes e.psig 32 ++ toBytes e.out 8 ++ toBytes e.lastd 4 ++ toBytes e.age 2
    ++ toBytes ((if e.dec then 1 else 0) + if e.tv then 2 else 0) 2 ++ toBytes e.step 4 ++ toBytes 0 12

/-- WTEST of one lane (R343): the entry after it, whether it is written, the result, and the no-compute bit. -/
def WeirEntry.test (e : WeirEntry) (w : Weir) (c n : Nat) : WeirEntry × Bool × Nat × Bool :=
  if e.tv && e.step == w.step then (e, false, e.out, true)
  else
    let d := sigDistance c e.psig
    let skip := e.tv && e.out != 0 && belowThr d w.thr && (w.maxskip == 0 || decide (e.age < w.maxskip))
    let e' : WeirEntry :=
      if skip then { e with age := if e.age < 65535 then e.age + 1 else 65535, dec := true }
      else { e with psig := c, out := n, age := 0, dec := false }
    ({ e' with lastd := d, step := w.step, tv := true }, true, e'.out, skip)

/-- WTEST_ENTRY_UPDATE (R344, R346) of the target operation's next lane, in ascending order. -/
def execWtestEntryUpdate (s : State) : Out :=
  let i := s.choice.target
  match s.opAt i with
  | none => .next s
  | some o =>
    match o.kind with
    | .weir (.wtest d skm) ls =>
      match ls.find? fun x => x.got.isNone with
      | none => .next s
      | some x =>
        if !s.weirTurn i o then .next s
        else
          let w := (s.crew o.crew).weir
          let ea := w.tbase + 64 * x.a
          -- A replicated page is unsupported-atomic, whatever the state of its replica and its key (R344, R217).
          match (if 2 ^ 57 < ea + 64 then .fault 0x10 false else s.atomicPlace o.layer (s.viaOf o.crew) ea) with
          | .fault cause true => .next ((s.modOp i fun o => { o with waiting := true }).postFault o.layer cause ea)
          | .fault cause false => .next (s.fail i cause ea x.lane none)
          | .ok (.home l off k) =>
            (match (s.fillTlb o.layer (s.viaOf o.crew) ea).readMeets o (.home l off k) ea 64 with
             | .error (t, cause, faddr) => .next (t.fail i cause faddr x.lane none)
             | .ok t =>
               let r := (parseEntry (ofBytes (t.readAt (.home l off k) 64))).test w (ofBytes (t.readAt (.scratch o.crew x.c) 32)) x.n
               let t := if r.2.1 then (t.writeAt (.home l off k) r.1.bytes).freshen o [(t.key (.home l off k), 64)] else t
               let t := t.modCrew o.crew fun c => { c with weir := { c.weir with map := put c.weir.map x.a r.1.dec false } }
               let ls := ls.map fun y => if y.lane = x.lane then { y with got := some (r.2.2.1, r.2.2.2) } else y
               .next ((t.modOp i fun o => { o with kind := .weir (.wtest d skm) ls }).weirTouch o.crew))
          | .ok _ => .next (s.fail i 0x18 ea x.lane none)
    | _ => .next s

/-- The value of a WSKIP (R347). -/
def Weir.query (w : Weir) (v x : Nat) : Nat :=
  match v with
  | 0 => if x < 128 then ((List.range 32).map fun j => if look w.map (32 * x + j) false then 2 ^ j else 0).sum else 0
  | 1 => w.step
  | 2 => if w.cfg then w.tbase else 0
  | _ => (w.map.filter (·.2)).length

/-- WEIR_COMMAND_COMPLETE of the target operation (R342 to R348). A WSIG reads every tile before it writes a signature, and writes them in
ascending order of lanes, where R342 leaves its accesses without an order: DESIGN CHOICE (notes/assumptions/63.md). -/
def execWeirCommandComplete (s : State) : Out :=
  let i := s.choice.target
  match s.opAt i with
  | none => .next s
  | some o =>
    match o.kind with
    | .weir k ls =>
      if !s.weirTurn i o then .next s
      else
        let t := s.weirTouch o.crew
        let w := (t.crew o.crew).weir
        let set (f : Weir → Weir) : State := t.modCrew o.crew fun c => { c with weir := f c.weir }
        match k with
        | .wcfg x => .next ((set fun w => { x with step := w.step, map := [] }).finish i none 0)
        | .wstep x => .next ((set fun w => { w with step := x.getD ((w.step + 1) % 2 ^ 32), map := [] }).finish i none 0)
        | .wskip v x d =>
          let n := if v = 2 then 2 else 1
          .next (t.finish i (some ⟨d, n, o.threads⟩) (w.query v x))
        | .wsig bf =>
          let size := if bf then 2048 else 4096
          let t := ls.foldl (init := t) fun u l =>
            let overlap := decide (l.a < l.c + 32) && decide (l.c < l.a + size)
            u.writeScratch o.crew overlap (l.c, signature bf (s.ftz o.gang) (s.readAt (.scratch o.crew l.a) size))
          .next (t.finish i none 0)
        | .wtest d skm =>
          if ls.any fun l => l.got.isNone then .next s
          else
            let live := (t.gang o.gang).live
            let t := ls.foldl (init := t) fun u l => u.writeDest o.gang ⟨d, 2, laneBit l.lane⟩ fun _ => (l.got.getD (0, false)).1
            let nc := laneSet fun j => ls.any fun l => l.lane == j && (l.got.getD (0, false)).2
            let t := if skm = 15 then t else t.writeMaskLanes o.gang skm (o.threads &&& live) (hasLane nc ·)
            .next (t.finish i none 0)
    | _ => .next s

end Sys2Proof.Machine
end

