-- ==== Sys2Proof/Machine/Place.lean ====
section
/-! DEFINITION. Room on the cores, placing, yielding, pre-empting and retiring crews, and the work distributor
(spec/01_machine.md R16 to R22, R507, R508, spec/03_control.md R93, spec/09_barges.md R253, R254, spec/15_tasks.md R377 to
R388, spec/17_system.md R441, spec/18_commands.md R469, R470). -/

namespace Sys2Proof.Machine

/-! ### Room -/

/-- What a crew takes of a core, or what a core has (R22). -/
structure Room where
  chunks : Nat := 0
  slots : Nat := 0
  tiles : Nat := 0
  scratch : Nat := 0
  tags : Nat := 0
  deriving DecidableEq, Repr

def Room.add (a b : Room) : Room :=
  ⟨a.chunks + b.chunks, a.slots + b.slots, a.tiles + b.tiles, a.scratch + b.scratch, a.tags + b.tags⟩

def Room.sub (a b : Room) : Room :=
  ⟨a.chunks - b.chunks, a.slots - b.slots, a.tiles - b.tiles, a.scratch - b.scratch, a.tags - b.tags⟩

/-- The need fits the room. -/
def Room.holds (room need : Room) : Bool :=
  decide (need.chunks ≤ room.chunks) && decide (need.slots ≤ room.slots) && decide (need.tiles ≤ room.tiles)
    && decide (need.scratch ≤ room.scratch) && decide (need.tags ≤ room.tags)

/-- An empty core (R11, R22). -/
def emptyCore : Room := ⟨256, 32, 32, 393216, 8⟩

/-- How often a need fits a room. -/
def Room.copies (room need : Room) : Nat :=
  let q (a b : Nat) : Nat := if b = 0 then 64 else a / b
  [q room.slots need.slots, q room.tiles need.tiles, q room.scratch need.scratch, q room.tags need.tags].foldl Nat.min
    (q room.chunks need.chunks)

/-- What a crew of a launch needs (R22), and what its task gang needs (R377). -/
def Descriptor.need (d : Descriptor) (task : Bool) : Room :=
  let g := if task then 1 else d.gangs + 1
  ⟨g * d.regs, g, g * d.accs, 2048 * d.scratch + 16 * (if task then 4096 else d.caddyNodes), d.tags⟩

/-- What a crew's registers, tiles and slots take. -/
def State.crewCompute (s : State) (p : Nat × Crew) : Room :=
  let gs := s.liveGangs p.1
  { chunks := (gs.map fun g => (s.gang g).allot).sum + p.2.pool, slots := gs.length
    tiles := (s.launch p.2.launch).desc.accs * gs.length }

/-- What a crew takes of its core as it stands (R93, R253, R272, R441). -/
def State.crewRoom (s : State) (p : Nat × Crew) : Room :=
  let d := (s.launch p.2.launch).desc
  let kept : Room := { scratch := 2048 * d.scratch + 16 * p.2.caddyC, tags := d.tags }
  if (s.convoy p.2.convoy).status = .saved then {}
  else match p.2.status with
    | .resident => kept.add (s.crewCompute p)
    | .yielded => kept
    | .saved => {}
    | .retired => if p.2.task || (s.convoy p.2.convoy).status = .retired then {} else { scratch := 2048 * d.scratch }

/-- The crews of a core. -/
def State.crewsOn (s : State) (l cl k : Nat) : List (Nat × Crew) :=
  s.crews.filter fun p => p.2.layer == l && p.2.cluster == cl && p.2.core == k

def State.coreRoom (s : State) (l cl k : Nat) : Room :=
  emptyCore.sub ((s.crewsOn l cl k).foldl (fun a p => a.add (s.crewRoom p)) {})

/-- The free gang slots of a core, ascending (R508). -/
def State.freeSlots (s : State) (l cl k : Nat) : List Nat :=
  let used := ((s.crewsOn l cl k).filter fun p => p.2.status == .resident).flatMap fun p =>
    if (s.convoy p.2.convoy).status = .saved then [] else (s.liveGangs p.1).map fun g => (s.gang g).slot
  (List.range Config.slots).filter fun x => !used.contains x

/-- The slots the choice names, where they are free; else the first free ones. -/
def State.pickSlots (s : State) (l cl k n : Nat) (wish : List Nat) : List Nat :=
  let free := s.freeSlots l cl k
  if wish.length = n ∧ wish.Nodup ∧ wish.all free.contains then wish else free.take n

/-! ### Due crews -/

/-- The condition of the WAITY a thread stands at holds (R252). -/
def State.waityMet (s : State) (c g : Nat) (w : AtWaity) : Bool :=
  let x := w.arg (s.gang g)
  if w.mode ≤ 1 then (s.crew c).tagsMet x (w.mode == 1) else s.ringWaitMet c x (w.mode == 3)

/-- What waited for the core has been placed (R388); a crew that has left its core again since then was placed. -/
def State.waitedFor (s : State) (x : Nat × Nat × Nat) : Bool :=
  match x.1 with
  | 0 => (s.crew x.2.1).status != .yielded || (s.crew x.2.1).since != x.2.2
  | 3 => (s.crew x.2.1).status != .saved || (s.crew x.2.1).since != x.2.2
  | 1 => !(s.clusters.any fun q => q.1 == x.2.2 / 2 ^ 64 && (match find q.2.bins x.2.1 with | some b => b.opened == x.2.2 % 2 ^ 64 | none => false))
  | _ => match find s.launches x.2.1 with | some n => decide (x.2.2 < n.placed) | none => true

/-- A yielded crew is due (R254, R388). -/
def State.due (s : State) (c : Nat) : Bool :=
  let cr := s.crew c
  cr.status == .yielded && (s.convoy cr.convoy).status != .preempting && (s.convoy cr.convoy).status != .saved
    && match cr.cyielded with
      | some l => l.all s.waitedFor
      | none => (s.liveGangs c).any fun g => (lanes (s.gang g).live).any fun l =>
          match ((s.gang g).thread l).waity with | some w => s.waityMet c g w | none => false

/-- The cluster's core is offered to task gangs and convoy crews: no due crew stands ahead of them, nor a convoy that CTXLD
asks for (R254, R380, R444). -/
def State.coreOpen (s : State) (l cl k : Nat) : Bool :=
  !((s.crewsOn l cl k).any fun p => s.due p.1 || (s.convoy p.2.convoy).wanted)

/-! ### Placing -/

/-- A gang as it is placed (R84, R507). -/
def newGang (crew ix slot : Nat) (d : Descriptor) (live : BitVec 32) (task : Option TaskGang) (entry : Nat) : Gang :=
  { crew := crew, ix := ix, slot := slot, role := if task.isSome then 0 else BitVec.ofNat 2 (d.rolemap / 2 ^ (2 * ix))
    allot := d.regs, m := put [] 0 live 0, task := task
    threads := (List.range 32).map fun l => if hasLane live l then { pc := entry } else {} }

/-- A crew as it is placed (R507). -/
def newCrew (convoy launch layer cluster core : Nat) (ctx clk : Nat) (d : Descriptor) (task : Bool) : Crew :=
  { convoy := convoy, launch := launch, layer := layer, cluster := cluster, core := core, ix := 0, cvx := 0, cvy := 0, cvz := 0
    stage := 0, ctx := ctx, gangs := [], caddyC := if task then 4096 else d.caddyNodes
    spillS := if task ∨ d.spillsz = 0 then 0 else 2 ^ (d.spillsz + 7), since := clk, wdog := clk, task := task }

/-- A gang joins a crew. -/
def State.addGang (s : State) (c : Nat) (g : Gang) : State :=
  ({ s with gangs := insert s.gangs s.next { g with turned := s.clk }, next := s.next + 1 }).modCrew c fun k => { k with gangs := k.gangs ++ [s.next] }

/-- The area of a crew just placed says so; a fatal fault ends its launch (R429, R430). -/
def State.markPlaced (s : State) (c : Nat) : State :=
  match s.partWrite (s.crew c).layer (s.crew c).ctx ((s.crew c).header 1) with
  | .ok t => t
  | .error f => s.killCrew c f.cause f.addr

/-- A replayable fault that delays the placement of a crew with its area at `ctx`. -/
def State.areaWaits (s : State) (l ctx : Nat) : Option VaFault :=
  match s.partWrite l ctx (toBytes 0 12) with
  | .error f => if f.replay then some f else none
  | .ok _ => none

/-- The cores of a layer, cluster by cluster. -/
def layerCores : List (Nat × Nat) := (List.range Config.clusters).flatMap fun cl => (List.range Config.cores).map fun k => (cl, k)

/-- The ready task gangs of a cluster that fit a room: their bins. -/
def State.readyFits (s : State) (l cl : Nat) (room : Room) : List (Nat × Bin) :=
  (s.cluster l cl).ready.filterMap fun b =>
    match find (s.cluster l cl).bins b with
    | some x => if room.holds ((s.launch x.launch).desc.need true) then some (b, x) else none
    | none => none

/-- A ready task gang takes a core's room ahead of convoy crews: one that fits it, which on the reserved core, and where LIMIT is 0,
is the head alone (R380). -/
def State.taskFirst (s : State) (l cl k : Nat) : Bool :=
  let y := s.cluster l cl
  (s.readyFits l cl (s.coreRoom l cl k)).any fun p =>
    y.ready.head? == some p.1 || ((s.layer l).taskage != 0 && y.reserved != some k)

/-- A core that convoy crews may take: open, not reserved for a task gang, and no task gang there before them (R380). -/
def State.convoyCore (s : State) (l : Nat) (p : Nat × Nat) : Bool :=
  s.coreOpen l p.1 p.2 && (s.cluster l p.1).reserved != some p.2 && !s.taskFirst l p.1 p.2

/-- Every crew of a convoy can be placed on free room of the layer (R469). -/
def State.convoyFits (s : State) (l : Nat) (d : Descriptor) : Bool :=
  decide (d.crews + 1 ≤ ((layerCores.filter (s.convoyCore l)).map fun p => (s.coreRoom l p.1 p.2).copies (d.need false)).sum)

/-- The cores of a convoy's crews, and the slots the choice names there: its core where that serves, else the first with room (R508). A
core with room for several takes as many. -/
def State.convoyPlaces (s : State) (l : Nat) (d : Descriptor) (wish : List Placement) : List (Nat × Nat × List Nat) :=
  let cores := layerCores.filter (s.convoyCore l)
  (List.range (d.crews + 1)).foldl (init := []) fun used ix =>
    let ok (p : Nat × Nat) : Bool :=
      decide ((used.filter fun q => q.1 == p.1 && q.2.1 == p.2).length < (s.coreRoom l p.1 p.2).copies (d.need false))
    match wish[ix]?.filter (fun w => cores.contains (w.cluster, w.core) && ok (w.cluster, w.core)), cores.find? ok with
    | some w, _ => used ++ [(w.cluster, w.core, w.slots)]
    | none, some p => used ++ [(p.1, p.2, [])]
    | none, none => used

/-- The next convoy of a launch is placed whole (R17, R19, R462), on cores chosen before it counts as placed. -/
def State.placeConvoy (s : State) (n : Nat) (wish : List Placement) : State :=
  let x := s.launch n
  let d := x.desc
  let v := s.next
  let cvx := x.placed % d.gridx
  let cvy := x.placed / d.gridx % d.gridy
  let cvz := x.placed / (d.gridx * d.gridy)
  let places := s.convoyPlaces x.layer d wish
  let s := { s with next := v + 1, convoys := insert s.convoys v { launch := n, n := x.placed, crews := [] }
                    launches := alter s.launches n fun y => { y with placed := y.placed + 1 } }
  places.zipIdx.foldl (init := s) fun t p =>
    let slots := t.pickSlots x.layer p.1.1 p.1.2.1 (d.gangs + 1) p.1.2.2
    let c := t.next
    let crew := { newCrew v n x.layer p.1.1 p.1.2.1 (d.crewArea p.2 cvx cvy cvz) t.clk d false with
      ix := p.2, cvx := cvx, cvy := cvy, cvz := cvz, stage := p.2 % (d.stages + 1) }
    let t := ({ t with next := c + 1, crews := insert t.crews c crew }).modConvoy v fun y => { y with crews := y.crews ++ [c] }
    let t := (List.range (d.gangs + 1)).foldl (fun t g => t.addGang c (newGang c g (slots.getD g 0) d (BitVec.allOnes 32) none d.entry)) t
    t.markPlaced c

/-! ### The work distributor -/

def Descriptor.convoys (d : Descriptor) : Nat := d.gridx * d.gridy * d.gridz

/-- The launch of queue q with convoys not yet placed that was begun first (R462, R469). -/
def State.nextLaunch (s : State) (l q : Nat) : Option Nat :=
  ((s.launches.find? fun p => p.2.layer == l && p.2.queue == q && decide (p.2.placed < p.2.desc.convoys))).map (·.1)

/-- The head convoy's launch, and whether the layer drains for it: its count is reached, or a drain has begun (R470, R471). -/
def Layer.head (y : Layer) : Option Nat := y.passed.head?
def Layer.draining (y : Layer) : Bool := y.passed.head?.isSome && (decide (y.cvage ≤ y.passes) || y.drain.isSome)

/-- The distributor may place the next convoy of launch n: pre-empted convoys come first, but for those a drain has pre-empted for
its head; a drain serves its head alone (R470). -/
def State.mayPlace (s : State) (l n : Nat) : Bool :=
  let y := s.layer l
  if y.draining then y.head == some n && y.preempted.all y.drained.contains else y.preempted.isEmpty

/-- A convoy of launch n cannot be placed now: it does not fit, or it waits behind pre-empted ones that no drain has pre-empted. Such a
convoy is passed, by R471 also in the second case: DEDUCED (notes/assumptions/22.md). -/
def State.unplaceable (s : State) (l n : Nat) : Bool :=
  !s.convoyFits l (s.launch n).desc || (!(s.layer l).draining && !(s.layer l).preempted.isEmpty)

/-- No queue's next convoy can be placed as things stand. -/
def State.stalled (s : State) (l : Nat) : Bool :=
  (List.range 32).all fun q => match s.nextLaunch l q with | none => true | some n => s.unplaceable l n || !s.mayPlace l n

/-- Areas of the next convoy's crews that wait on replayable faults. -/
def State.convoyWaits (s : State) (n : Nat) : Option VaFault :=
  let x := s.launch n
  let d := x.desc
  firstSome (fun ix => s.areaWaits x.layer (d.crewArea ix (x.placed % d.gridx) (x.placed / d.gridx % d.gridy) (x.placed / (d.gridx * d.gridy))))
    (List.range (d.crews + 1))

/-- A convoy of launch n has been placed: pass counts, the head, the queue's deficit (R469, R470). -/
def State.placedOf (s : State) (l q n : Nat) : State :=
  let y := s.layer l
  let y := if y.head = some n then { y with passed := y.passed.drop 1, passes := 0, drain := none, drained := [] }
           else { y with passed := y.passed.filter (· != n), passes := if y.head.isSome then y.passes + 1 else y.passes }
  let s := s.setLayer l { y with pointer := (q + 1) % 32 }
  if (s.nextLaunch l q).isNone then
    let x := s.cq l q
    s.setCq l q { x with deficit := if 0 < x.deficit then 0 else x.deficit }
  else s

/-- The visits of one chance to place (R469). -/
def State.visit (s : State) (l : Nat) (wish : List Placement) : List Nat → State
  | [] => s
  | q :: rest =>
    match s.nextLaunch l q with
    | none => s.visit l wish rest
    | some n =>
      let x := s.cq l q
      let cap : Int := 16 * x.quant * 65536
      let d := if cap < x.deficit + x.quant * 65536 then cap else x.deficit + x.quant * 65536
      let s := s.setCq l q { x with deficit := d }
      if d ≤ 0 then s.visit l wish rest
      else if s.unplaceable l n then
        (s.setLayer l { s.layer l with passed := if (s.layer l).passed.contains n then (s.layer l).passed else (s.layer l).passed ++ [n] }).visit l wish rest
      else if !s.mayPlace l n then s.visit l wish rest
      else match s.convoyWaits n with
        | some f => s.layerWait l f.cause f.addr
        | none => (s.placeConvoy n wish).placedOf l q n

/-- CONVOY_PLACE: a chance to place on a layer (R469, R470). -/
def execConvoyPlace (s : State) : Out :=
  let l := s.choice.layer
  if (s.layer l).asleep || !s.ready.getLsbD l then .next s
  else .next (s.visit l s.choice.places ((List.range 32).map fun k => ((s.layer l).pointer + k) % 32))

/-- A drain is to begin: the head has been passed CVAGE times, or, where drains pre-empt, nothing can be placed past it, so that its count
would not rise again. R470 gives the first alone; the second is DEDUCED from R471, which has every convoy placed where DRAINT is not 0
(notes/assumptions/22.md). -/
def State.drainDue (s : State) (l : Nat) : Bool :=
  let y := s.layer l
  y.head.isSome && y.drain.isNone && (decide (y.cvage ≤ y.passes) || (y.draint != 0 && s.stalled l))

/-- DRAIN_START (R470, R471). -/
def execDrainStart (s : State) : Out :=
  let l := s.choice.layer
  .next (if s.drainDue l then s.setLayer l { s.layer l with drain := some s.clk } else s)

/-- The most recently placed resident convoy of a layer. -/
def State.lastConvoy (s : State) (l : Nat) : Option Nat :=
  ((s.convoys.filter fun p => p.2.status == .resident && (s.launch p.2.launch).layer == l).getLast?).map (·.1)

/-- A convoy's pre-emption begins (R441). -/
def State.preempt (s : State) (v : Nat) : State := s.modConvoy v fun y => { y with status := .preempting }

/-! ### Pre-emption and restore -/

/-- Every gang of a convoy has drained but what pre-emption captures (R441, R442). -/
def State.convoyDrained (s : State) (v : Nat) : Bool := (s.convoyGangs v).all fun g => s.drained g true

/-- Requests of some gangs not yet captured, in the order they were posted. -/
def State.openReqs (s : State) (gangs : List Nat) : List Nat := (s.reqs.filter fun p => gangs.contains p.2.gang && !p.2.captured).map (·.1)

/-- What pre-emption captures of a convoy (R442). Its requests are to be posted again in the order they were posted, whichever gang's they
are: DESIGN CHOICE (notes/assumptions/53.md). -/
def State.captureConvoy (s : State) (v : Nat) : State :=
  let gs := s.convoyGangs v
  let ops := gs.flatMap fun g => s.captureSet g true
  let reqs := s.openReqs gs
  let s := (s.capture ops).modConvoy v fun y => { y with ops := ops, reqs := reqs }
  { s with reqs := s.reqs.map fun p => if reqs.contains p.1 then (p.1, { p.2 with captured := true, served := false, due := false, alone := none }) else p }

/-- The crews of a convoy that have not retired. -/
def State.liveCrews (s : State) (v : Nat) : List Nat := (s.convoy v).crews.filter fun c => (s.crew c).status != .retired

/-- Applies a step to every element, up to a fault. -/
def foldFault (f : State → Nat → Except VaFault State) : List Nat → State → Except VaFault State
  | [], s => .ok s
  | x :: xs, s => match f s x with | .error e => .error e | .ok t => foldFault f xs t

/-- A crew of a convoy saved; a fatal fault kills it (R429, R441). The gang blocks of a crew that has yielded are its area's, with what
software has written there and what matrix commands have since written to its tiles (R312, R443). -/
def State.saveCrew (s : State) (c : Nat) : Except VaFault State :=
  let gone (t : State) : State := (t.leaveCore c .saved).modCluster c fun x => { x with weirs := x.weirs.filter (· != c) }
  let full := if (s.crew c).status = .yielded then foldFault State.loadGang (s.liveGangs c) s else .ok s
  match full.bind fun t => t.saveArea c with
  | .ok t => .ok (gone t)
  | .error f => if f.replay then .error f else .ok (gone (s.killCrew c f.cause f.addr))

/-- Every reclamation of a convoy's crews runs to completion (R283). -/
def State.reclaimConvoy (s : State) (v : Nat) : State := (s.liveCrews v).foldl State.reclaimAll s

/-- PREEMPTION of the target convoy, once it has drained and its reclamations and their spill writes are complete (R283, R441). -/
def execPreemption (s : State) : Out :=
  let v := s.choice.target
  if (s.convoy v).status != .preempting || !s.convoyDrained v then .next s
  else
    let s := s.reclaimConvoy v
    if (s.liveCrews v).any fun c => !(s.crew c).caddy.unwritten.isEmpty || (s.reclaimDelay c).isSome then .next s
    else match foldFault State.saveCrew (s.liveCrews v) s with
    | .error f => .next (s.layerWait (s.launch (s.convoy v).launch).layer f.cause f.addr)
    | .ok t => .next ((t.captureConvoy v).modConvoy v fun y => { y with status := .saved, wanted := false })

/-- The pre-empted convoys of a layer that wait to be restored, in their order: a drain in force puts its head before those it has
pre-empted itself (R470). -/
def Layer.restorable (y : Layer) : List Nat := y.preempted.filter fun v => !(y.draining && y.drained.contains v)

/-- A saved convoy may be restored: CTXLD asks for it, or it is the first that a drain or a sleep pre-empted (R444, R470,
R481). -/
def State.restoreDue (s : State) (v : Nat) : Bool :=
  let y := s.layer (s.launch (s.convoy v).launch).layer
  (s.convoy v).status == .saved && !y.asleep && ((s.convoy v).wanted || y.restorable.head? == some v)

/-- A saved convoy waits to be restored, now or after others (R388, R444, R470). -/
def State.awaitsRestore (s : State) (v : Nat) : Bool :=
  (s.convoy v).status == .saved && ((s.convoy v).wanted || (s.layer (s.launch (s.convoy v).launch).layer).preempted.contains v)

/-- What a crew takes when it is restored. -/
def State.restoreRoom (s : State) (c : Nat) : Room :=
  let cr := s.crew c
  let d := (s.launch cr.launch).desc
  if cr.status = .retired then { scratch := 2048 * d.scratch }
  else Room.add { scratch := 2048 * d.scratch + 16 * cr.caddyC, tags := d.tags } (s.crewCompute (c, cr))

/-- What the crews of a pre-empted convoy take of one core when it is restored. -/
def State.restoreNeed (s : State) (v cl k : Nat) : Room :=
  ((s.convoy v).crews.filter fun c => (s.crew c).cluster == cl && (s.crew c).core == k).foldl (fun a c => a.add (s.restoreRoom c)) {}

/-- Every core has the room its crews of the convoy left (R441), after what R380 and R444 put ahead of them. -/
def State.restoreFits (s : State) (v : Nat) : Bool :=
  (s.convoy v).crews.all fun c =>
    let cr := s.crew c
    !((s.crewsOn cr.layer cr.cluster cr.core).any fun p => s.due p.1)
      && ((s.convoy v).wanted || ((s.cluster cr.layer cr.cluster).reserved != some cr.core && !s.taskFirst cr.layer cr.cluster cr.core))
      && (s.coreRoom cr.layer cr.cluster cr.core).holds (s.restoreNeed v cr.cluster cr.core)

/-- What a drain pre-empts for has no room yet: the first convoy that is to be restored before the head, else the head of launch n (R470). -/
def State.headBlocked (s : State) (l n : Nat) : Bool :=
  match (s.layer l).restorable.head? with
  | some v => !s.restoreFits v
  | none => !s.convoyFits l (s.launch n).desc

/-- DRAIN_PREEMPT (R470): one convoy at a time, until the head fits. -/
def execDrainPreempt (s : State) : Out :=
  let l := s.choice.layer
  let y := s.layer l
  match y.drain, y.head, s.lastConvoy l with
  | some t, some n, some v =>
    if y.draint ≠ 0 ∧ t + 1024 * y.draint ≤ s.clk ∧ s.headBlocked l n
        ∧ !(s.convoys.any fun p => p.2.status == .preempting && (s.launch p.2.launch).layer == l) then
      .next ((s.setLayer l { y with preempted := y.preempted ++ [v], drained := y.drained ++ [v] }).preempt v)
    else .next s
  | _, _, _ => .next s

/-- A thread as it resumes: its sleep has ended, and it stands again or tests again (R83, R434). -/
def Thread.resume (t : Thread) : Thread :=
  { t with count := 0, waity := none, wait := match t.wait with | .sleep _ => .none | w => w }

/-- A saved crew loaded from its area and back on its core; a fatal fault kills it. -/
def State.restoreCrew (s : State) (c : Nat) : Except VaFault State :=
  let cr := s.crew c
  let back (t : State) : State :=
    let t := t.takeSlots c (t.pickSlots cr.layer cr.cluster cr.core (t.liveGangs c).length ((t.liveGangs c).map fun g => (t.gang g).slot))
    let t := t.modCrew c fun k => { k with status := .resident, since := s.clk, wdog := s.clk, cyielded := none }
    (t.liveGangs c).foldl (fun t g => (t.modGang g fun x => { x with offer := none, turned := s.clk, moved := 0, threads := x.threads.map Thread.resume }).testTickets g none) t
  match s.loadCrew c with
  | .ok t => .ok (back t)
  | .error f => if f.replay then .error f else .ok ((back s).killCrew c f.cause f.addr)

/-- Requests are posted again in the order they had, those of lanes that have exited let go (R269, R294, R303). -/
def State.repostAll (s : State) (l : List Nat) : State :=
  l.foldl (init := s) fun t i =>
    match find t.reqs i with
    | some r => if hasLane (t.gang r.gang).live r.lane then t.repost i else t.dropReq i
    | none => t

/-- CONVOY_RESTORE of the target convoy (R441, R442). A trap that waited for it is then entered. -/
def execConvoyRestore (s : State) : Out :=
  let v := s.choice.target
  let l := (s.launch (s.convoy v).launch).layer
  if !s.restoreDue v || !s.restoreFits v then .next s
  else
    let y := s.convoy v
    let t := s.modConvoy v fun y => { y with status := .resident, wanted := false, ops := [], reqs := [] }
    match foldFault State.restoreCrew (s.liveCrews v) t with
    | .error f => .next (s.layerWait l f.cause f.addr)
    | .ok t =>
      let t := { t with
        ops := t.ops.map fun (p : Nat × Op) => if y.ops.contains p.1 then (p.1, { p.2 with captured := false }) else p }
      let t := t.repostAll y.reqs
      .next (t.setLayer l { t.layer l with preempted := (t.layer l).preempted.filter (· != v) })

/-! ### Yielding -/

/-- No operation of the crew that writes a register at completion is outstanding (R253). -/
def State.noRegWrites (s : State) (c : Nat) : Bool :=
  (s.crew c).gangs.all fun g =>
    (s.outstanding g).all (fun p => p.2.kind.dests.isEmpty) && (s.gang g).sf.isEmpty && (s.gang g).pend.isNone
      && !(s.reqs.any fun p => p.2.gang == g)

/-- Every live thread of every gang of a resident crew, and there are some. -/
def State.allStand (s : State) (c : Nat) (p : Thread → Bool) : Bool :=
  (s.crew c).status == .resident && (s.convoy (s.crew c).convoy).status == .resident
    && (s.crew c).gangs.any (fun g => (s.gang g).live != 0)
    && (s.crew c).gangs.all fun g => (lanes (s.gang g).live).all fun l => p ((s.gang g).thread l)

/-- A crew yields its registers (R253); a fatal fault on its area kills it. -/
def State.yieldCrew (s : State) (c : Nat) (after : Option (List (Nat × Nat × Nat))) : State :=
  match s.saveBlocks c 3 with
  | .ok t => (t.leaveCore c .yielded).modCrew c fun k => { k with cyielded := after }
  | .error f => s.onFault (s.crew c).layer f fun s => s.killCrew c f.cause f.addr

/-- CREW_YIELD of the target crew (R253). -/
def execCrewYield (s : State) : Out :=
  let c := s.choice.target
  let y := 64 * (s.launch (s.crew c).launch).desc.yieldt
  if y ≠ 0 ∧ s.noRegWrites c
      ∧ s.allStand c fun t => match t.waity with | some w => t.wait == .none && decide (w.since + y ≤ s.clk) | none => false then
    .next (s.yieldCrew c none)
  else .next s

/-- A thread at a CYIELD moves on (R388). -/
def Thread.pastCyield (t : Thread) : Thread := if t.wait = .cyield then { t with wait := .none, pc := t.pc + 4 } else t

def State.passCyield (s : State) (c : Nat) : State :=
  (s.crew c).gangs.foldl (fun t g => t.modGang g fun x => { x with threads := x.threads.map Thread.pastCyield }) s

/-- CREW_RETURN of the target crew to its core (R254, R388). -/
def execCrewReturn (s : State) : Out :=
  let c := s.choice.target
  let cr := s.crew c
  if !s.due c || !(s.coreRoom cr.layer cr.cluster cr.core).holds (s.crewCompute (c, cr)) then .next s
  else match s.loadCrew c with
  | .error f => .next (s.onFault cr.layer f fun s => s.killCrew c f.cause f.addr)
  | .ok t =>
    let t := t.takeSlots c (t.pickSlots cr.layer cr.cluster cr.core (t.liveGangs c).length ((s.choice.places.head?.map (·.slots)).getD []))
    let t := t.modCrew c fun k => { k with status := .resident, since := s.clk, wdog := s.clk, cyielded := none }
    let t := (t.liveGangs c).foldl (fun t g => t.modGang g fun x => { x with offer := none, turned := s.clk, moved := 0, threads := x.threads.map fun y => { y with waity := none } }) t
    .next (t.passCyield c)

/-- CYIELD (R388): the threads of the run stand at it. -/
def execCyield (s : State) : Out := issueInstr .cyield s fun c t => .ok (c.park t fun _ => .cyield)

/-- What waits for a crew's core, each with whether `more` room there than the `now` free lets it, or more of its crews, be placed: due
crews, ready task gangs, pre-empted convoys and the next convoys of the queues (R380, R388). -/
def State.waiting (s : State) (c : Nat) (now more : Room) : List ((Nat × Nat × Nat) × Bool) :=
  let cr := s.crew c
  let y := s.cluster cr.layer cr.cluster
  let helps (need : Room) : Bool := more.holds need && !now.holds need
  ((s.crewsOn cr.layer cr.cluster cr.core).filterMap fun p =>
      if s.due p.1 then some ((0, p.1, p.2.since), helps (s.crewCompute p)) else none)
    ++ (y.ready.filterMap fun b => (find y.bins b).map fun x =>
          ((1, b, (16 * cr.layer + cr.cluster) * 2 ^ 64 + x.opened), helps ((s.launch x.launch).desc.need true)))
    ++ (if (s.layer cr.layer).asleep then [] else
        ((s.crewsOn cr.layer cr.cluster cr.core).filterMap fun p =>
          if p.2.status == .saved && s.awaitsRestore p.2.convoy then
            some ((3, p.1, p.2.since), helps (s.restoreNeed p.2.convoy cr.cluster cr.core))
          else none)
        ++ (List.range 32).filterMap fun q => (s.nextLaunch cr.layer q).map fun n =>
            let d := (s.launch n).desc
            ((2, n, (s.launch n).placed), !s.convoyFits cr.layer d && decide (now.copies (d.need false) < more.copies (d.need false))))

/-- What a crew that gives way lets go first: everything that waits for its core, where some of it waits for room this crew would
give it (R388). -/
def State.waiters (s : State) (c : Nat) : List (Nat × Nat × Nat) :=
  let cr := s.crew c
  let now := s.coreRoom cr.layer cr.cluster cr.core
  let w := s.waiting c now (now.add (s.crewCompute (c, cr)))
  if w.any (·.2) then w.map (·.1) else []

/-- CYIELD_ACT of the target crew (R388). -/
def execCyieldAct (s : State) : Out :=
  let c := s.choice.target
  if !(s.allStand c (·.wait == .cyield) && s.noRegWrites c) then .next s
  else match s.waiters c with
  | [] => .next (s.passCyield c)
  | w => .next (s.yieldCrew c (some w))

/-! ### Task gangs -/

/-- The task gang's crew is placed (R20, R377). -/
def State.placeTask (s : State) (l cl k b : Nat) (x : Bin) (slot : Nat) : State :=
  let d := (s.launch x.launch).desc
  let c := s.next
  let live := BitVec.ofNat 32 (2 ^ x.tasks.length - 1)
  let tk : TaskGang := { entry := x.entry, v0 := x.tasks.map (·.1), v1 := x.tasks.map (·.2), filled := false }
  let crew := newCrew 0 x.launch l cl k (d.taskArea cl k slot) s.clk d true
  let g := newGang c 0 slot d live (some tk) x.entry
  let g := (List.range x.tasks.length).foldl (fun g i => (g.setV 0 i (tk.v0.getD i 0)).setV 1 i (tk.v1.getD i 0)) g
  let g := (g.setG 0 d.args).setG 1 (d.args / 2 ^ 32)
  let s := { s with next := c + 1, crews := insert s.crews c crew }
  let y := s.cluster l cl
  let s := s.setCluster l cl { y with bins := erase y.bins b, ready := y.ready.filter (· != b) }
  (s.addGang c g).markPlaced c

/-- TASK_GANG_PLACE (R377, R380): room on a core is offered to the cluster's ready list. -/
def execTaskGangPlace (s : State) : Out :=
  let h := s.choice
  let y := s.cluster h.layer h.cluster
  let limit := (s.layer h.layer).taskage
  let room := s.coreRoom h.layer h.cluster h.core
  if (s.layer h.layer).asleep || !s.coreOpen h.layer h.cluster h.core || Config.cores ≤ h.core then .next s
  else match y.ready.head?, s.readyFits h.layer h.cluster room with
  | some first, (b, x) :: _ =>
    if b ≠ first ∧ (limit = 0 ∨ y.reserved = some h.core) then .next s
    else
      let slot := (s.pickSlots h.layer h.cluster h.core 1 ((h.places.head?.map (·.slots)).getD [])).headD 0
      match s.areaWaits h.layer ((s.launch x.launch).desc.taskArea h.cluster h.core slot) with
      | some f => .next (s.layerWait h.layer f.cause f.addr)
      | none =>
        let s := s.setCluster h.layer h.cluster
          (if b = first then { y with passes := 0, reserved := none } else { y with passes := y.passes + 1 })
        .next (s.placeTask h.layer h.cluster h.core b x slot)
  | _, _ => .next s

/-- CORE_RESERVE (R380): the core with the most free scratchpad, or the lowest on a tie. -/
def execCoreReserve (s : State) : Out :=
  let l := s.choice.layer
  let cl := s.choice.cluster
  let y := s.cluster l cl
  let limit := (s.layer l).taskage
  let headFits (k : Nat) : Bool := (s.readyFits l cl (s.coreRoom l cl k)).any fun p => some p.1 == y.ready.head?
  let free (k : Nat) := (s.coreRoom l cl k).scratch
  let best := (List.range Config.cores).foldl (fun a k => if free a < free k then k else a) 0
  if y.ready.isEmpty || y.reserved.isSome then .next s
  else if (limit = 0 ∧ !(List.range Config.cores).all headFits) ∨ (limit ≠ 0 ∧ limit ≤ y.passes) then
    .next (s.setCluster l cl { y with reserved := some best })
  else .next s

/-- What a read of the part's own meets from outside (R197, R451): a host's abort, or an error that loses the line. -/
def State.outside (s : State) (l va n : Nat) : Option Nat :=
  match s.placesOf l .read va n with
  | .error _ => none
  | .ok ps =>
    match s.choice.answer, s.choice.err with
    | .status _, _ => if ps.any (fun p => match p.1 with | .host .. => true | _ => false) then some 0x17 else none
    | _, .uncorrectable => some 0x1C
    | _, _ => none

/-- The argument records of a task gang's lanes in q24's order, or the first fault, with its lane (R378): the choice's lane may meet one
from outside. -/
def State.q24Words (s : State) (gid : Nat) (tk : TaskGang) : Except (VaFault × Nat) (List Nat) :=
  let cr := s.crew (s.gang gid).crew
  let args := (s.launch cr.launch).desc.args
  let recs := (lanes (s.gang gid).live).map fun l => (l, args + tk.v0.getD l 0)
  (recs.foldr (init := (.ok [] : Except (VaFault × Nat) (List (List Byte)))) fun p acc =>
      match s.partRead cr.layer p.2 16, (if p.1 = s.choice.lane then s.outside cr.layer p.2 16 else none) with
      | .error f, _ => .error ({ f with addr := p.2 }, p.1)
      | .ok _, some cause => .error (⟨cause, p.2, false⟩, p.1)
      | .ok b, none => acc.map (b :: ·)).map fun bs =>
    (List.range 4).flatMap fun w => bs.map fun b => chunksOf 4 b w

/-- The argument records of a task gang have been read from its cluster (R204). -/
def State.noteRecords (s : State) (gid : Nat) (tk : TaskGang) : State :=
  let c := (s.gang gid).crew
  let cr := s.crew c
  (lanes (s.gang gid).live).foldl
    (fun t l => t.noteAccess cr.layer (some (s.clusterRouter c)) .read ((s.launch cr.launch).desc.args + tk.v0.getD l 0) 16) s

/-- The line in which the choice's lane meets an uncorrectable error from outside, as the records are read, stays poisoned (R451). -/
def State.losesRecord (s : State) (l : Nat) (f : VaFault) (lane : Nat) : State :=
  match s.choice.err, s.placesOf l .read f.addr 16 with
  | .uncorrectable, .ok (p :: _) => if lane = s.choice.lane ∧ f.cause = 0x1C then s.poisonLine (s.key p.1) else s
  | _, _ => s

/-- Bytes of the instruction at an address, 0 where it cannot be fetched. -/
def State.lengthAt (s : State) (crew va level : Nat) : Nat :=
  match s.fetchWords crew va level with | .words ws => 4 * ws.length | .fault .. => 0

/-- Q24_FILL of the target gang (R378). -/
def execQ24Fill (s : State) : Out :=
  let gid := s.choice.target
  let g := s.gang gid
  match g.task with
  | none => .next s
  | some tk =>
    if tk.filled || (s.crew g.crew).status != .resident then .next s
    else
      let t := s.modGang gid fun g => { g with task := some { tk with filled := true } }
      match s.q24Words gid tk with
      | .ok ws => .next ((t.noteRecords gid tk).modGang gid fun g => { g with q24 := ws.map (BitVec.ofNat 32 ·) })
      | .error (f, lane) =>
        if f.replay then .next (s.layerWait (s.crew g.crew).layer f.cause f.addr)
        else .next ((t.losesRecord (s.crew g.crew).layer f lane).raise gid
          { cause := f.cause, faddr := f.addr, flane := lane, lanes := g.live, pfx := 0, insn := 0, fpc := none, rpt := none
            dcause := 0, dlane := 255, dfaddr := 0, counters := [], at_ := tk.entry
            len := s.lengthAt g.crew tk.entry 0, issue := true })

/-! ### Retiring -/

/-- The spill entries a crew has written hold undefined bytes once it retires (R268). -/
def State.freeSpill (s : State) (c : Nat) : State :=
  ((s.crew c).caddy.spilled.map (·.1)).foldl (init := s) fun t i =>
    let f := t.freeBytes 16
    match f.2.writeVa (t.crew c).layer (t.spillAddr c i) f.1 with | .ok u => u | .error _ => t

/-- A convoy retires; one that was being pre-empted no longer waits to be restored (R446, R470). -/
def State.retireConvoy (s : State) (v : Nat) : State :=
  let l := (s.launch (s.convoy v).launch).layer
  (s.modConvoy v fun y => { y with status := .retired, wanted := false }).setLayer l { s.layer l with
    preempted := (s.layer l).preempted.filter (· != v), drained := (s.layer l).drained.filter (· != v) }

/-- A crew retires with the last of its gangs, and a convoy with the last of its crews (R93, R272, R446). -/
def State.retireCrew (s : State) (c : Nat) : State :=
  if !(s.crew c).gangs.all fun g => (s.gang g).retired then s
  else
    let s := (s.freeSpill c).chargeCrew c
    let s := s.modCluster c fun x => { x with weirs := x.weirs.filter (· != c) }
    let s := s.modCrew c fun k =>
      { k with status := .retired, caddy := {}, queues := [], tags := [], advances := [], weir := {}, pool := 0, claims := [], locked := [], lost := false }
    let v := (s.crew c).convoy
    if !(s.crew c).task && (s.convoy v).crews.all fun k => (s.crew k).status == .retired then s.retireConvoy v else s

/-- GANG_RETIRE of the target gang (R93, R231): the references its registers and requests hold are released (R269). What a handler
it never left had captured is counted again, and completes first (R92, R193). -/
def execGangRetire (s : State) : Out :=
  let gid := s.choice.target
  let g := s.gang gid
  let cr := s.crew g.crew
  if (find s.gangs gid).isNone || g.retired || g.live != 0 || cr.status == .saved then .next s
  else if s.ops.any (fun p => p.2.gang == gid && p.2.captured) then .next (s.recount gid)
  else if !(s.outstanding gid).isEmpty || !g.sf.isEmpty then .next s
  else
    let t := ((s.releaseGone g.crew).dropReqs gid).abandonLocks gid
    let t := t.modCrew g.crew fun k => { k with charged := if k.status = .resident then k.charged + (s.clk - k.since) else k.charged }
    let t := t.modGang gid fun x =>
      { x with retired := true, v := [], g := [], hv := [], m := [], acc := [], threads := [], compand := none, q24 := [], pend := none, handler := none }
    .next (t.retireCrew g.crew)

end Sys2Proof.Machine
end

