-- ==== Sys2Proof/Machine/System.lean ====
section
/-! DEFINITION. The system instructions, trap entry, debug and the watchdog (spec/17_system.md R420 to R455). -/

namespace Sys2Proof.Machine

/-! ### Traps and handlers -/

/-- TRAP (R427). -/
def execTrap (n : BitVec 8) (s : State) : Out := issueInstr (.trap n) s fun _ _ => .soft 0x07 n.toNat

/-- BRK (R427): a breakpoint, or under BRKH the halt of its gang past it (R453). -/
def execBrk (n : BitVec 8) (s : State) : Out :=
  issueInstr (.brk n) s fun c t =>
    if (t.layer c.layer).dbgctl % 2 = 1 then
      .ok (t.modCrew c.crewId fun k => { k with hm := k.hm ||| BitVec.ofNat 4 (2 ^ c.gang.role.toNat) })
    else .soft 0x08 n.toNat

/-- ERET (R437). -/
def execEret (s : State) : Out :=
  issueInstr .eret s fun c t =>
    match c.gang.handler with
    | some h => .ok (t.leaveHandler c.gid h id)
    | none => .ok t

/-- ERET.KILL (R438): with the cause and the fault address of the frame. -/
def execEretKill (s : State) : Out :=
  issueInstr .eretKill s fun c t =>
    match c.gang.handler with
    | some h => .ok (t.killCrew c.crewId h.trap.cause h.trap.faddr)
    | none => .ok t

/-- TRAP_ENTRY of the target gang: a trap of refinement is raised at an instruction boundary (R299, R300), and a raised trap
is entered once the gang has drained (R432). -/
def execTrapEntry (s : State) : Out :=
  let gid := s.choice.target
  let g := s.gang gid
  if g.pend.isSome then .next (s.enterTrap gid)
  else if g.refineTrap && s.gangUp gid then .next (s.raiseRefine gid)
  else .next s

/-! ### System registers -/

/-- The value of a system register for lane l (R24, R422, R426). -/
def Ctx.csr (c : Ctx) (n l : Nat) : Nat :=
  let s := c.pre
  let k := c.crew
  let y := s.layer c.layer
  match n with
  | 0x000 => k.cvx
  | 0x001 => k.cvy
  | 0x002 => k.cvz
  | 0x003 => k.ix
  | 0x004 => k.stage
  | 0x005 => c.gang.ix
  | 0x006 => c.gang.role.toNat
  | 0x007 => l
  | 0x008 => k.core
  | 0x009 => k.cluster
  | 0x00A => k.layer
  | 0x010 => c.gang.level
  | 0x011 => k.locked.length + if k.lost then 2 ^ 31 else 0
  | 0x012 => k.ctx % 2 ^ 32
  | 0x013 => bits k.ctx 56 32
  | 0x014 => s.hostPort c.layer
  | 0x020 => 8 * 2 ^ 16 + 64
  | 0x021 => (s.coreAt (s.coreKey c.crewId)).mxidle
  | 0x030 => y.netidle
  | 0x031 => y.netdlt
  | 0x032 => y.netesc
  | 0x033 => y.taskage
  | 0x034 => y.kvec % 2 ^ 32
  | 0x035 => bits y.kvec 56 32
  | 0x036 => y.wdt
  | 0x037 => y.dbgctl
  | 0x038 => s.faultCount c.layer
  | 0x039 => y.rasce
  | 0x03A => y.raslat
  | 0x03B => y.ptb % 2 ^ 32
  | _ => bits y.ptb 51 32

/-- CSRR (R426): LANEIX alone differs from lane to lane. -/
def execCsrr (d : Reg) (n : BitVec 16) (s : State) : Out :=
  issueInstr (.csrr d n) s fun c t => .ok (c.write t d.toNat 1 fun l => c.csr n.toNat l)

/-- A write of a system register (R422, R423); reserved bits are ignored. -/
def Ctx.setCsr (c : Ctx) (s : State) (n x : Nat) : State :=
  let y := s.layer c.layer
  let set (y : Layer) : State := s.setLayer c.layer y
  match n with
  | 0x021 => s.setCore (s.coreKey c.crewId) { s.coreAt (s.coreKey c.crewId) with mxidle := x % 2 ^ 16 }
  | 0x030 => let v := x % 2 ^ 16; set { y with netidle := if v ≠ 0 ∧ v < 64 then 64 else v }
  | 0x031 => let v := x % 2 ^ 16; set { y with netdlt := if v < 1024 then 1024 else v }
  | 0x033 => set { y with taskage := x % 2 ^ 8 }
  | 0x034 => set { y with kvec := y.kvec / 2 ^ 32 * 2 ^ 32 + x }
  | 0x035 => set { y with kvec := x % 2 ^ 25 * 2 ^ 32 + y.kvec % 2 ^ 32 }
  | 0x036 => set { y with wdt := x % 2 ^ 16 }
  | 0x037 => set { y with dbgctl := x % 2 }
  | 0x038 => s.replay c.layer
  | 0x03B => set { y with ptb := y.ptb / 2 ^ 32 * 2 ^ 32 + x / 2 ^ 12 * 2 ^ 12 }
  | 0x03C => set { y with ptb := x % 2 ^ 20 * 2 ^ 32 + y.ptb % 2 ^ 32 }
  | _ => s

/-- CSRW (R426). -/
def execCsrw (x : Reg) (n : BitVec 16) (s : State) : Out :=
  issueInstr (.csrw x n) s fun c t => .ok (c.setCsr t n.toNat (c.u 0 % 2 ^ 32))

/-! ### Translations, keys and contexts: counted operations that act once their edges are satisfied -/

def TlbEntry.covers (e : TlbEntry) (va : Nat) : Bool := decide (e.base ≤ va) && decide (va < e.base + 2 ^ e.log)

/-- The translations of a layer that cover an address, or all (R449). -/
def State.translations (s : State) (l : Nat) (va : Option Nat) : List TlbEntry :=
  (s.layer l).tlb.filter fun e => match va with | none => true | some a => e.covers a

/-- The address of a global access that has been translated. -/
def Op.translated (o : Op) : Option Nat :=
  match o.place, o.kind.access with
  | some (.scratch ..), _ => none
  | some _, some (ea, _, _) => some ea
  | _, _ => none

/-- A global access translated through one of the entries. -/
def Op.through (o : Op) (l : Nat) (es : List TlbEntry) : Bool := o.layer == l && o.translated.any fun ea => es.any (·.covers ea)

/-- An access that has begun to be performed. -/
def Op.begun (o : Op) : Bool :=
  o.visible || o.buffered || o.leaked || o.key.isSome || (match o.kind with | .atomic _ _ _ _ _ _ _ _ got => got.isSome | _ => false)

/-- The accesses `who` names that have been translated and not yet begun are translated again before they are (R449, R450). -/
def State.retranslate (s : State) (who : Op → Bool) : State :=
  { s with ops := s.ops.map fun (p : Nat × Op) =>
      if p.2.translated.isSome && !p.2.begun && who p.2 then (p.1, { p.2 with place := none, sent := none, escaped := [], early := none }) else p }

/-- An access was translated by what no TLB holds any longer, in a page that a TLBI of an address, or of all, may name: pages are of 1 GiB
at most (R447). -/
def State.outlives (s : State) (l : Nat) (va : Option Nat) (o : Op) : Bool :=
  o.layer == l && o.translated.any fun ea => (s.tlbHit l (s.viaOf o.crew) ea).isNone && va.all fun a => a / 2 ^ 30 == ea / 2 ^ 30

/-- Removes translations (R449): accesses not yet begun are translated again; the result names those that were begun. -/
def State.dropTranslations (s : State) (l : Nat) (va : Option Nat) : State × List Nat :=
  let es := s.translations l va
  let left := ((s.ops.filter fun p => p.2.through l es && p.2.begun)).map (·.1)
  ((s.setLayer l { s.layer l with tlb := (s.layer l).tlb.filter fun e => !es.contains e }).retranslate fun o =>
    o.through l es || s.outlives l va o, left)

/-- A place whose lines a key protects: home memory of any layer. -/
def Place.keyed : Place → Bool
  | .home .. => true
  | .replica .. => true
  | _ => false

/-- The keys of the part are now these (R450). Accesses not yet begun meet them. -/
def State.rekey (s : State) (keys : List (Nat × List Byte)) : State :=
  ({ s with keys := keys }).retranslate fun o => o.place.any Place.keyed

/-- KEYLD installs its record (R450): an all-zero one removes the key. -/
def State.installKey (s : State) (ix : Nat) (b : List Byte) : State :=
  s.rekey (if b.all (· == 0) then erase s.keys ix else insert s.keys ix b)

def State.failOp (s : State) (i cause faddr : Nat) : State := s.modOp i fun o => { o with failed := some (cause, faddr) }

/-- The convoy of a crew, where it lies in one. -/
def State.convoyOf (s : State) (c : Nat) : Option Nat := if (s.crew c).task then none else some (s.crew c).convoy

/-- The step of a waiting CTXSV (R444). -/
def State.ctxsvStep (s : State) (i : Nat) (o : Op) (a : Nat) : State :=
  match (s.crewByArea o.layer a fun k => k.status != .retired).bind s.convoyOf with
  | none => s.failOp i 0x20 a
  | some v =>
    match (s.convoy v).status with
    | .resident => if o.visible then s.finish i none 0 else (s.modOp i fun o => { o with visible := true }).preempt v
    | .preempting => s.modOp i fun o => { o with visible := true }
    | _ => s.finish i none 0

/-- The step of a waiting CTXLD (R444). -/
def State.ctxldStep (s : State) (i : Nat) (o : Op) (a : Nat) : State :=
  match s.crewByArea o.layer a fun k => k.status != .retired with
  | none => s.failOp i 0x20 a
  | some c =>
    let v := (s.crew c).convoy
    if (s.convoy v).status = .saved then
      if o.visible then s else (s.modOp i fun o => { o with visible := true }).modConvoy v fun y => { y with wanted := true }
    else if (s.crew c).status = .resident || o.visible then s.finish i none 0
    else s.failOp i 0x20 a

/-- A system operation whose edges are satisfied acts; it completes as its rule says. -/
def State.settleOp (s : State) (i : Nat) : State :=
  match s.opAt i with
  | none => s
  | some o =>
    if o.captured || o.failed.isSome || !s.edgesMet o then s
    else match o.kind with
    | .tlbi va =>
      if o.visible then s.finish i none 0
      else
        let d := s.dropTranslations o.layer va
        if d.2.isEmpty then d.1.finish i none 0 else d.1.modOp i fun o => { o with visible := true, after := d.2 }
    | .keyld ix off =>
      if ix = 0 ∨ 1023 < ix ∨ find s.keyOwner ix ≠ some o.layer then s.failOp i 0x1D ix
      else (s.installKey ix (s.readAt (.scratch o.crew off) 64)).finish i none 0
    | .ctxsv a => s.ctxsvStep i o a
    | .ctxld a => s.ctxldStep i o a
    | _ => s

def OpKind.isSystem : OpKind → Bool
  | .tlbi _ => true
  | .keyld .. => true
  | .ctxsv _ => true
  | .ctxld _ => true
  | _ => false

/-- Every system operation that can act does. -/
def State.settle (s : State) : State :=
  if s.frozen then s else (s.ops.filter fun p => p.2.kind.isSystem).foldl (fun t p => t.settleOp p.1) s

def execTlbiAll (o : Ord) (s : State) : Out := issueInstr (.tlbiAll o) s fun c t => .ok (c.addUni t o (.tlbi none)).settle

def execTlbiVa (a : Reg) (o : Ord) (s : State) : Out :=
  issueInstr (.tlbiVa a o) s fun c t => .ok (c.addUni t o (.tlbi (some (c.u 0)))).settle

def execKeyld (x a : Reg) (o : Ord) (s : State) : Out :=
  issueInstr (.keyld x a o) s fun c t =>
    match c.recordAddr t 0 c.lane0 o 64 64 with
    | (_, some (cause, faddr)) => .trap cause faddr c.lane0
    | (ea, none) => .ok (c.addUni t o (.keyld (c.u 1) ea.toNat)).settle

/-- CTXSV (R444): a crew that is not resident, or of the issuing convoy, fails it. -/
def execCtxsv (a : Reg) (o : Ord) (s : State) : Out :=
  issueInstr (.ctxsv a o) s fun c t =>
    let u := c.addUni t o (.ctxsv (c.u 0))
    match (t.crewByArea c.layer (c.u 0) fun k => k.status == .resident).bind t.convoyOf with
    | none => .ok (u.failOp t.next 0x20 (c.u 0))
    | some v => if !c.crew.task ∧ v = c.crew.convoy then .ok (u.failOp t.next 0x20 (c.u 0)) else .ok u.settle

def execCtxld (a : Reg) (o : Ord) (s : State) : Out :=
  issueInstr (.ctxld a o) s fun c t => .ok (c.addUni t o (.ctxld (c.u 0))).settle

/-! ### The instruction cache -/

/-- The line can be locked: its fetch does not fault; poison is no fault (R445, R452). -/
def State.lineFetches (s : State) (crew line level : Nat) : Bool :=
  decide (line < 2 ^ 57) && (match s.fetchWord crew line line level with | .ok _ => true | .error f => f.cause == 0x1C)

/-- Locked lines of the crew's core (R445). -/
def State.lockedLines (s : State) (crew : Nat) : Nat := ((s.coreCrews crew).flatMap fun p => p.2.locked.map (·.1)).eraseDups.length

/-- One line of an ICLOCK: it is as memory has it now, lost where it is poisoned (R445, R448, R452). -/
def State.lockLine (s : State) (crew level line : Nat) : State :=
  if (find (s.crew crew).locked line).isSome || decide (256 ≤ s.lockedLines crew) || !s.lineFetches crew line level then s
  else
    let b := match s.lockedLine crew line with
      | some b => b
      | none => match s.translate (s.crew crew).layer (s.viaOf crew) .fetch false line with
        | .ok p => if s.poisoned p 64 then none else some (s.readAt p 64)
        | .fault .. => none
    s.modCrew crew fun k => { k with locked := insert k.locked line b }

/-- The lines an ICLOCK or an ICUNLK names. -/
def lineList (a n : Nat) : List Nat := (List.range n).map fun i => a / 64 * 64 + 64 * i

def execIclock (d a b : Reg) (s : State) : Out :=
  issueInstr (.iclock d a b) s fun c t =>
    let ls := lineList (c.u 0) (Nat.min (c.u 1) 256)
    let t := (ls.foldl (fun t x => t.lockLine c.crewId c.gang.level x) t).modCrew c.crewId fun k => { k with lost := false }
    .ok (c.writeU t d.toNat 1 (ls.filter fun x => (find (t.crew c.crewId).locked x).isSome).length)

/-- ICUNLK (R446). -/
def execIcunlk (a b : Reg) (s : State) : Out :=
  issueInstr (.icunlk a b) s fun c t =>
    let first := c.u 0 / 64 * 64
    let named (x : Nat) : Bool := c.u 1 == 0 || (decide (first ≤ x) && decide (x < first + 64 * c.u 1))
    .ok (t.modCrew c.crewId fun k => { k with lost := false, locked := k.locked.filter fun p => !named p.1 })

/-! ### Debug -/

/-- A gang as it stands: on its core, or in its crew's context area (R443). -/
def State.asSaved (s : State) (gid : Nat) : Except VaFault State :=
  if s.seated gid then .ok s else s.loadGang gid

/-- A snapshot of a halted gang: its block, and a frame with DBG = 1 (R453). -/
def State.snapGang (s : State) (gid : Nat) : Except VaFault State :=
  match s.asSaved gid with
  | .error f => .error f
  | .ok u =>
  let g := u.gang gid
  let l := (s.crew g.crew).layer
  let p := u.gangPieces gid
  let t : Trap := { cause := 0, faddr := 0, flane := 255, lanes := 0, pfx := 0, insn := 0, fpc := none, rpt := none, dcause := 0
                    dlane := 255, dfaddr := 0, counters := s.counterList gid, at_ := 0, len := 0, issue := true }
  { s with free := p.2.free }.writePieces l (some (s.clusterRouter g.crew)) (p.1 ++ [(s.frameAddr gid, g.frameBytes t true)])

/-- The halt mask of a crew changes; that of a crew whose context is saved, in its area too (R430, R453). -/
def State.setHalt (s : State) (c : Nat) (hm : BitVec 4) : Except VaFault State :=
  let k := s.crew c
  let t := s.modCrew c fun k => { k with hm := hm }
  if k.status = .resident then .ok t
  else match s.partRead k.layer (k.ctx + 4) 1 with
    | .error f => .error f
    | .ok b => t.partWrite k.layer (k.ctx + 4) (toBytes (ofBytes b % 16 + 16 * hm.toNat) 1) (some (s.clusterRouter c))

/-- A debug operation on a crew (R453): 0 halt, 1 run, 2 step, 3 snap. -/
def State.debugOp (s : State) (c op r : Nat) : Except VaFault State :=
  let k := s.crew c
  let m := BitVec.ofNat 4 r
  let gs := (s.liveGangs c).filter fun g => (s.gang g).halted k.hm && m.getLsbD (s.gang g).role.toNat
  match op with
  | 0 => s.setHalt c (k.hm ||| m)
  | 1 => (s.setHalt c (k.hm &&& ~~~ m)).map fun t => if gs.isEmpty then t else t.modCrew c fun k => { k with wdog := s.clk }
  | 2 => .ok (gs.foldl (fun t g => t.modGang g fun x => { x with stepOnce := true }) s)
  | _ => foldFault State.snapGang (gs.filter fun g => (s.gang g).handler.isNone) s

/-- The crew a debug operation names (R453). -/
def State.debugCrew (s : State) (l a : Nat) : Option Nat := s.crewByArea l (a / 4096 * 4096) fun k => k.status != .retired

/-- DBGH (R453). -/
def execDbgh (a : Reg) (v : BitVec 2) (s : State) : Out :=
  issueInstr (.dbgh a v) s fun c t =>
    match t.debugCrew c.layer (c.u 0) with
    | none => .trap 0x20 (c.u 0) 255
    | some k =>
      match t.debugOp k v.toNat (c.u 0 % 16) with
      | .ok u => .ok u
      | .error f => if f.replay then .wait f.cause f.addr else .ok (t.killCrew k f.cause f.addr)

/-! ### The watchdog -/

/-- The watchdog of a crew has run out (R455). -/
def State.watchdogDue (s : State) (c : Nat) : Bool :=
  let k := s.crew c
  let w := (s.layer k.layer).wdt
  k.status == .resident && w != 0 && decide (k.wdog + w * 2 ^ 20 ≤ s.clk)
    && !((s.liveGangs c).any fun g => (s.gang g).halted k.hm)

/-- WATCHDOG_EXPIRY of the target crew (R455). -/
def execWatchdogExpiry (s : State) : Out :=
  let c := s.choice.target
  if s.watchdogDue c then
    .next ((s.modCrew c fun k => { k with wdog := s.clk }).postLayer (s.crew c).layer { kind := 4, info := (s.crew c).ctx })
  else .next s

end Sys2Proof.Machine
end

