-- ==== Sys2Proof/Machine/Commands.lean ====
section
/-! DEFINITION. The command processors: queues, commands and their completion (spec/18_commands.md R457 to R468,
spec/01_machine.md R21, R22). -/

namespace Sys2Proof.Machine

/-! ### Accesses of the command processor -/

/-- What the choice says of a host's abort and of storage errors is of its access `lane`: 0 a command's entry, 1 its own access. -/
def State.meets (s : State) (k : Nat) : Bool := s.choice.lane == k

/-- Access k of a command, a read at system scope: a host may abort it, and an error met fails it (R197, R451, R458). What the hosts
have written stands in their memory already (`Choice.host`). -/
def State.cpRead (s : State) (k l va n : Nat) : Except VaFault (List Byte × State) :=
  if s.stillWaits l va n then .error ⟨0x13, va, true⟩
  else match s.placesOf l .read va n with
  | .error f => .error f
  | .ok ps =>
    match s.meets k, ps.any (·.1.isHost), s.choice.answer, s.choice.err with
    | true, true, .status _, _ => .error ⟨0x17, va, false⟩
    | true, false, _, .uncorrectable => .error ⟨0x1C, va / 64 * 64, false⟩
    | m, _, _, _ => (s.readVa l va n).map fun x => (x, (if m then s.noteCorrected l else s).noteAccess l none .read va n)

/-- A read that an uncorrectable error has failed leaves its line poisoned (R451). -/
def State.losesLine (s : State) (k l va n : Nat) : State :=
  match s.meets k, s.choice.err, s.placesOf l .read va n with
  | true, .uncorrectable, .ok ((p, _) :: _) => if p.isHost then s else s.poisonLine (s.key p)
  | _, _, _ => s

/-- The places of a write at system scope; a stale replica is no fault (R404). -/
def State.sysPlaces (s : State) (l va n : Nat) : Except VaFault (List (Place × Nat)) :=
  (piecesOf va n).foldr (init := .ok []) fun p rest =>
    if 2 ^ 57 < p.1 + p.2 then .error ⟨0x10, p.1, false⟩
    else match s.translate l 0 .write true p.1 with
    | .fault c r => .error ⟨c, p.1, r⟩
    | .ok pl => rest.map ((pl, p.2) :: ·)

/-- An aqueduct write of n bytes, applied as its first block takes its slot to every member that is awake and not stale: a channel for
each 32-byte block, of the present slot as far as they reach, and of later slots that the layer is offered for the rest (R403, R405). -/
def State.aqWrite (s : State) (l r off n : Nat) (b : List Byte) : State :=
  let t := s.passWrite r (regionMembers (look (s.layer l).regions r 0))
  let u := t.applyWrite l r off b (fun k => (t.isStale k r || !t.awake k) && !t.resyncs r k)
  let blocks := (off % 32 + n + 31) / 32
  let now := if s.channelFor l then Nat.min blocks s.channels else 0
  { u.setLayer l { u.layer l with aqOwed := (u.layer l).aqOwed + (blocks - now) } with aqKey := if now = 0 then u.aqKey else s.nextKey + now }

/-- A write at system scope over places in order, for layer l; in a replicated region it is an aqueduct write (R403). -/
def State.sysWritePlaces (s : State) (l : Nat) : List (Place × Nat) → List Byte → State
  | [], _ => s
  | (p, n) :: ps, b =>
    (((match p with
      | .replica l r off => s.aqWrite l r off n (b.take n)
      | _ => s.writeAt p (b.take n)).freshenLayer l [(p, n)]).notePlace l none p).sysWritePlaces l ps (b.drop n)

/-- Access k, a write at system scope, wholly or not at all. -/
def State.sysWrite (s : State) (l va : Nat) (b : List Byte) (k : Nat := 0) : Except VaFault State :=
  if s.stillWaits l va b.length then .error ⟨0x13, va, true⟩
  else match s.sysPlaces l va b.length with
  | .error f => .error f
  | .ok ps =>
    match s.meets k && ps.any (·.1.isHost), s.choice.answer with
    | true, .status _ => .error ⟨0x17, va, false⟩
    | _, _ => .ok (s.sysWritePlaces l ps b)

/-- An aqueduct operation has its slot and has not written, read or copied: writes at system scope wait their turn (R406, R410). -/
def State.aqBusy (s : State) : Bool := s.ops.any fun p => p.2.key.isSome && !p.2.visible

/-- Layer l's write at system scope, which makes t of s, waits where it needs a channel: behind such an operation, or for the channel
(R405). -/
def State.aqHolds (s t : State) (l : Nat) : Bool :=
  (t.aqKey != s.aqKey || (t.layer l).aqOwed != (s.layer l).aqOwed) && (s.aqBusy || !s.channelFor l)

/-! ### Entries -/

/-- A command entry (R459 Table 3). -/
structure Cmd where
  v : Nat
  a : Nat
  opc : Nat
  bar : Bool
  fl : Nat
  arg : Nat
  deriving DecidableEq, Repr

/-- The fields Table 4 asks for (R459, R460). -/
def Cmd.ok (c : Cmd) (indirect : Bool) : Bool :=
  match c.opc with
  | 0 => c.fl == 0 && c.arg == 0 && c.a == 0 && c.v == 0
  | 1 => c.fl == 0 && c.arg == 0 && c.a % 64 == 0 && c.v == 0
  | 2 => decide (c.fl ≤ 2) && c.arg == 0 && c.a % 8 == 0
  | 3 => decide (c.fl ≤ 3) && decide (c.arg ≤ 2047) && (decide (2 ≤ c.fl) || c.arg == 0) && c.a % 8 == 0
  | 4 => c.fl == 0 && c.arg == 0 && c.a % 32 == 0 && c.v == 0
  | 5 => decide (c.fl ≤ 1) && c.arg == 0 && c.a % 16 == 0
  | 6 => c.fl == 0 && c.arg == 0 && c.a % 16 == 0 && decide (1 ≤ c.v) && decide (c.v ≤ 65536) && !indirect
  | 7 => c.fl == 0 && c.arg == 0 && c.a == 0 && decide (1 ≤ c.v) && decide (c.v ≤ 65535)
  | 8 => c.fl == 0 && c.arg == 0 && c.a % 8 == 0 && c.v == 0
  | 9 => decide (c.fl ≤ 1) && c.arg == 0 && c.v == 0 && (c.fl == 0 || c.a == 0)
  | _ => false

/-- An entry from its 128 bits; none is command-invalid. -/
def parseCmd (e : Nat) (indirect : Bool) : Option Cmd :=
  let c : Cmd := { v := bits e 127 96, a := bits e 88 32, opc := bits e 31 24, bar := tbit e 19, fl := bits e 18 16, arg := bits e 15 0 }
  if bits e 95 89 == 0 && bits e 23 20 == 0 && c.ok indirect then some c else none

/-- Entries of the ring (R457). -/
def Queue.size (x : Queue) : Nat := 2 ^ x.log2n

/-- The address of the entry the queue begins next (R458, R467). -/
def Queue.entryAt (x : Queue) : Option Nat :=
  match x.indirect with
  | some (a, _, i) => some (a + 16 * i)
  | none => if x.qrd = x.qwr then none else some (x.qbase + 16 * (x.qrd % x.size))

/-- The queue past the entry just begun. -/
def Queue.past (x : Queue) : Queue :=
  match x.indirect with
  | some (a, n, i) => { x with state := 1, indirect := if i + 1 < n then some (a, n, i + 1) else none }
  | none => { x with state := 1, qrd := (x.qrd + 1) % 2 ^ 32 }

/-- The command processor serves the queue (R458, R481). -/
def State.queueRuns (s : State) (l q : Nat) : Bool :=
  let x := s.cq l q
  x.en && decide (x.state ≤ 1) && !(s.layer l).asleep && s.ready.getLsbD l && decide (q < 32)

/-- The order rules of R461: SIGNAL, MARK and BAR wait for every earlier command, and every command for a DEPWAIT. -/
def Queue.mayBegin (x : Queue) (c : Cmd) : Bool :=
  !(x.cmds.any fun p => match p.2 with | .depwait .. => true | _ => false) && (x.cmds.isEmpty || !(c.bar || c.opc == 3 || c.opc == 5))

/-- The queue is idle again once nothing is left. -/
def Queue.rest (x : Queue) : Queue :=
  if x.state = 1 ∧ x.cmds.isEmpty ∧ x.indirect.isNone ∧ x.qrd = x.qwr then { x with state := 0 } else x

def State.modCq (s : State) (l q : Nat) (f : Queue → Queue) : State := s.setCq l q (f (s.cq l q))

/-- Begins the next command of the choice's queue where its opcode is `opc`: an entry that cannot be read, or is invalid,
stops the queue whichever command was asked for (R458 to R461, R468). `eff` acts on the state past the entry's read. -/
def beginCmd (opc : Nat) (s : State) (eff : State → Nat → Nat → Cmd → State) : Out :=
  let l := s.choice.layer
  let q := s.choice.unit
  match s.queueRuns l q, (s.cq l q).entryAt with
  | true, some va =>
    match s.cpRead 0 l va 16 with
    | .error f => .next (s.onFault l f fun s => (s.losesLine 0 l va 16).queueError l q 3 f.cause f.addr (s.cq l q).qrd)
    | .ok (b, t) =>
      match parseCmd (ofBytes b) (s.cq l q).indirect.isSome with
      | none => .next (t.queueError l q 1 0 0 (s.cq l q).qrd)
      | some c => if c.opc = opc ∧ (s.cq l q).mayBegin c then .next (eff t l q c) else .next s
  | _, _ => .next s

/-- The queue moves past the command, which completes at once. -/
def State.passCmd (s : State) (l q : Nat) : State := s.modCq l q fun x => x.past.rest

/-- A command begun and not completed joins its queue. -/
def State.addCmd (s : State) (l q : Nat) (k : CmdKind) : State :=
  { s.modCq l q fun x => { x.past with cmds := insert x.cmds s.next k } with next := s.next + 1 }

/-- A command completes. -/
def State.endCmd (s : State) (l q id : Nat) : State := s.modCq l q fun x => { x with cmds := erase x.cmds id }.rest

/-! ### The simple commands -/

def execCommandNop (s : State) : Out := beginCmd 0 s fun t l q _ => t.passCmd l q

def execSetpri (s : State) : Out := beginCmd 7 s fun t l q c => (t.modCq l q fun x => { x with quant := c.v }).passCmd l q

/-- JUMP (R467): QRD passes it as it is begun. -/
def execJump (s : State) : Out :=
  beginCmd 6 s fun t l q c => t.modCq l q fun x => { x.past with indirect := some (c.a, c.v, 0) }

/-- A command that writes at system scope: what it writes, or its fault, ERR 06h (R464, R466, R467, R468). -/
def State.writeCmd (s : State) (l q : Nat) (w : Except VaFault State) (after : State → State) : State :=
  match w with
  | .ok t => if s.aqHolds t l then s else after (t.passCmd l q)
  | .error f => s.onFault l f fun s => (s.passCmd l q).queueError l q 6 f.cause f.addr (s.cq l q).qrd

/-- SIGNAL's ADD: an atomic, a FetchAdd in host memory; it needs no right but an atomic's (R217, R396, R464). -/
def State.signalAdd (s : State) (l a v : Nat) : Except VaFault State :=
  if 2 ^ 57 < a + 8 then .error ⟨0x10, a, false⟩
  else if s.stillWaits l a 8 then .error ⟨0x13, a, true⟩
  else match s.atomicPlace l 0 a with
  | .fault cause r => .error ⟨cause, a, r⟩
  | .ok p =>
    match s.meets 1, p.isHost, s.choice.answer, s.choice.err with
    | true, true, .status _, _ => .error ⟨0x17, a, false⟩
    | true, false, _, .uncorrectable => .error ⟨0x1C, a / 64 * 64, false⟩
    | m, _, _, _ =>
      if s.poisoned p 8 then .error ⟨0x1C, a / 64 * 64, false⟩
      else .ok (((if m then s.noteCorrected l else s).writeAt p (toBytes ((ofBytes (s.readAt p 8) + v) % 2 ^ 64) 8)).freshenLayer l [(p, 8)])

/-- SIGNAL (R464): with IRQ, its message follows the write. -/
def execSignal (s : State) : Out :=
  beginCmd 3 s fun t l q c =>
    t.writeCmd l q (if c.fl % 2 = 0 then t.sysWrite l c.a (toBytes c.v 8) 1 else t.signalAdd l c.a c.v) fun t =>
      if 2 ≤ c.fl then let p := t.hostPort l; t.setPort p { t.port p with msix := c.arg :: (t.port p).msix } else t

/-- MARK (R466). -/
def execMark (s : State) : Out :=
  beginCmd 5 s fun t l q c =>
    t.writeCmd l q (t.sysWrite l c.a (toBytes c.v 4 ++ toBytes (t.cq l q).past.qrd 4 ++ toBytes t.slots 8) 1) fun t =>
      if c.fl = 1 then t.modCq l q fun x => { x with state := 2 } else t

/-- STAMP (R467). -/
def execStamp (s : State) : Out :=
  beginCmd 8 s fun t l q c => t.writeCmd l q (t.sysWrite l c.a (toBytes t.slots 8) 1) id

/-- TLBC (R467): as a TLBI; it is begun when no access translated through what it removes is in progress. -/
def tlbcCmd (all : Bool) (s : State) : Out :=
  beginCmd 9 s fun t l q c =>
    if (c.fl == 1) != all then s
    else
      let d := t.dropTranslations l (if all then none else some c.a)
      if d.2.isEmpty then d.1.passCmd l q else s

def execTlbcVa (s : State) : Out := tlbcCmd false s
def execTlbcAll (s : State) : Out := tlbcCmd true s

/-! ### DEPWAIT -/

/-- R463. -/
def depMet (cond c v : Nat) : Bool :=
  match cond with
  | 0 => decide ((c + 2 ^ 64 - v) % 2 ^ 64 < 2 ^ 63)
  | 1 => c == v
  | _ => c != v

def execDepwait (s : State) : Out :=
  beginCmd 2 s fun t l q c =>
    match t.cpRead 1 l c.a 8 with
    | .error f => t.onFault l f fun t => (t.losesLine 1 l c.a 8).queueError l q 7 f.cause f.addr (t.cq l q).qrd
    | .ok (b, t) => if depMet c.fl (ofBytes b) c.v then t.passCmd l q
                    else t.addCmd l q (.depwait c.fl c.a c.v (t.cq l q).qrd (t.cq l q).indirect)

/-- DEPWAIT_POLL of the target command (R463): a fault names the DEPWAIT. -/
def execDepwaitPoll (s : State) : Out :=
  let l := s.choice.layer
  let q := s.choice.unit
  match find (s.cq l q).cmds s.choice.target with
  | some (.depwait cond a v qrd ind) =>
    match s.cpRead 0 l a 8 with
    | .error f => .next (s.onFault l f fun s =>
        (((s.losesLine 0 l a 8).endCmd l q s.choice.target).modCq l q fun x => { x with qrd := qrd, indirect := ind }).queueError l q 7 f.cause f.addr qrd)
    | .ok (b, t) => .next (if depMet cond (ofBytes b) v then t.endCmd l q s.choice.target else t)
  | _ => .next s

/-! ### COPYC -/

def execCopyc (s : State) : Out :=
  beginCmd 4 s fun t l q c =>
    match t.cpRead 1 l c.a 32 with
    | .error f => t.onFault l f fun t => ((t.losesLine 1 l c.a 32).passCmd l q).queueError l q 4 f.cause f.addr (t.cq l q).qrd
    | .ok (b, t) =>
      let r := ofBytes b
      if bits r 255 192 = 0 ∧ 1 ≤ bits r 191 128 ∧ bits r 191 128 ≤ 2 ^ 40 ∧ bits r 127 121 = 0 ∧ bits r 63 57 = 0 then
        t.addCmd l q (.copy (bits r 63 0) (bits r 127 64) (bits r 191 128) (t.cq l q).qrd t.clk 0)
      else t.queueError l q 1 0 0 (t.cq l q).qrd

/-- Bytes of places that are left open (notes/assumptions/4.md). -/
def State.scrub (s : State) (ps : List (Place × Nat)) : State :=
  ps.foldl (fun t p => let f := t.freeBytes p.2; f.2.writeAt p.1 f.1) s

/-- The places of a range that a write can reach, as far as they translate. -/
def State.reachable (s : State) (l va n : Nat) : List (Place × Nat) :=
  (piecesOf va n).filterMap fun p =>
    if 2 ^ 57 < p.1 + p.2 then none
    else match s.translate l 0 .write false p.1 with | .ok pl => if pl.isReplica then none else some (pl, p.2) | .fault .. => none

/-- The places a copy writes: none lies in a replicated region, whatever the state of its replica and its key (R465). -/
def State.copyPlaces (s : State) (l dst n : Nat) : Except VaFault (List (Place × Nat)) :=
  (piecesOf dst n).foldr (init := .ok []) fun p rest =>
    if 2 ^ 57 < p.1 + p.2 then .error ⟨0x10, p.1, false⟩
    else match s.offReplica l 0 .write 0x1A p.1 with
    | .fault c r => .error ⟨c, p.1, r⟩
    | .ok pl => rest.map ((pl, p.2) :: ·)

/-- What a copy reads, where it writes, or its fault (R465). -/
def State.copyEnds (s : State) (l src dst n : Nat) : Except VaFault (List (Place × Nat) × List Byte × List (Place × Nat)) :=
  match s.placesOf l .read src n, s.partRead l src n, s.copyPlaces l dst n with
  | .ok ps, .ok b, .ok qs => .ok (ps, b, qs)
  | .error f, _, _ => .error f
  | _, .error f, _ => .error f
  | _, _, .error f => .error f

/-- What a copy meets from outside (R197, R451): at the choice's offset a host aborts the read of the source, or, where its lane is 1, the
write of the destination; or an error loses a line of the source. -/
def State.copyMeets (s : State) (l src dst n : Nat) : Option VaFault :=
  let h := s.choice
  let byte (acc : Access) (base : Nat) : Option Place :=
    match s.translate l 0 acc true (base + h.offset) with | .ok p => if h.offset < n then some p else none | .fault .. => none
  match h.answer, h.err with
  | .status _, _ =>
    let at_ := if h.lane = 1 then (Access.write, dst) else (Access.read, src)
    if (byte at_.1 at_.2).any Place.isHost then some ⟨0x17, at_.2 + h.offset, false⟩ else none
  | _, .uncorrectable => if (byte .read src).any (!·.isHost) then some ⟨0x1C, (src + h.offset) / 64 * 64, false⟩ else none
  | _, _ => none

/-- Two lists of places share a byte. -/
def State.placesMeet (s : State) (a b : List (Place × Nat)) : Bool :=
  a.any fun p => b.any fun q => decide (s.key p.1 < s.key q.1 + q.2) && decide (s.key q.1 < s.key p.1 + p.2)

/-- COPY_COMPLETE of the target command (R465). -/
def execCopyComplete (s : State) : Out :=
  let l := s.choice.layer
  let q := s.choice.unit
  let id := s.choice.target
  match find (s.cq l q).cmds id with
  | some (.copy src dst n qrd _ _) =>
    let fail (f : VaFault) (s : State) : State := ((s.scrub (s.reachable l dst n)).endCmd l q id).queueError l q 4 f.cause f.addr qrd
    match s.copyEnds l src dst n with
    | .error f => .next (s.onFault l f (fail f))
    | .ok (ps, b, qs) =>
      match s.copyMeets l src dst n with
      | some f => .next (fail f (if f.cause = 0x1C then s.losesLine s.choice.lane l f.addr 1 else s))
      | none => .next (((if s.placesMeet ps qs then s.scrub qs else s.writePlaces qs b).freshenLayer l qs).noteCorrected l |>.endCmd l q id)
  | _ => .next s

/-! ### LAUNCH -/

/-- A launch descriptor from its 512 bits; none is descriptor-invalid (R21, R22). -/
def parseDescriptor (r : Nat) : Option Descriptor :=
  let d : Descriptor :=
    { entry := bits r 56 0, args := bits r 120 64, gridx := bits r 143 128, gridy := bits r 159 144, gridz := bits r 175 160
      crews := bits r 181 176, gangs := bits r 185 182, regs := bits r 189 186, scratch := bits r 199 192, caddy := bits r 204 200
      accs := bits r 208 205, tags := bits r 212 209, stages := bits r 215 213, ftz := tbit r 216, undec := tbit r 217
      rolemap := bits r 255 224, ctx := bits r 312 256, spill := bits r 376 320, spillsz := bits r 380 377
      bintime := bits r 399 384, yieldt := bits r 415 400 }
  let reserved := bits r 511 416 == 0 && bits r 383 381 == 0 && bits r 319 313 == 0 && bits r 223 218 == 0 && bits r 191 190 == 0
    && bits r 127 121 == 0 && bits r 63 57 == 0
  let ranges := d.bintime != 0 && (d.spillsz == 0 || d.spill % 64 == 0) && d.ctx % 4096 == 0 && decide (d.tags ≤ 8) && decide (d.accs ≤ 8)
    && decide (d.caddy ≤ 24) && decide (d.scratch ≤ 192) && decide (1 ≤ d.regs) && decide (d.regs ≤ 12) && d.gridx != 0 && d.gridy != 0
    && d.gridz != 0 && d.args % 16 == 0 && d.entry % 4 == 0
  if reserved && ranges && emptyCore.holds (d.need false) then some d else none

/-- LAUNCH (R462). -/
def execLaunch (s : State) : Out :=
  beginCmd 1 s fun t l q c =>
    match t.cpRead 1 l c.a 64 with
    | .error f => t.onFault l f fun t => (t.losesLine 1 l c.a 64).queueError l q 3 f.cause f.addr (t.cq l q).qrd
    | .ok (b, t) =>
      match parseDescriptor (ofBytes b) with
      | none => t.queueError l q 2 0 0 (t.cq l q).qrd
      | some d =>
        let n := t.next
        let t := { t with next := n + 1, launches := insert t.launches n { layer := l, queue := q, cmd := (t.cq l q).qrd, desc := d } }
        t.addCmd l q (.launch n)

/-- The crews of a launch. -/
def State.launchCrews (s : State) (n : Nat) : List (Nat × Crew) := s.crews.filter fun p => p.2.launch == n

/-- Every convoy has been placed, every crew and task gang has retired, no task of it waits, and every write is visible
(R462). -/
def State.launchDone (s : State) (n : Nat) : Bool :=
  decide ((s.launch n).desc.convoys ≤ (s.launch n).placed) && (s.launchCrews n).all (fun p => p.2.status == .retired)
    && !(s.clusters.any fun p => p.2.bins.any fun b => b.2.launch == n) && !(s.ops.any fun p => (s.crew p.2.crew).launch == n)

/-- LAUNCH_COMPLETE of the target launch (R462): its records leave the state. -/
def execLaunchComplete (s : State) : Out :=
  let n := s.choice.target
  match find s.launches n with
  | none => .next s
  | some x =>
    if !s.launchDone n then .next s
    else
      let crews := (s.launchCrews n).map (·.1)
      let t := { s with
        launches := erase s.launches n
        convoys := s.convoys.filter fun p => p.2.launch != n
        crews := s.crews.filter fun p => p.2.launch != n
        gangs := s.gangs.filter fun p => !crews.contains p.2.crew
        clusters := s.clusters.map fun (p : Nat × Cluster) => (p.1, { p.2 with counts := erase p.2.counts n }) }
      match ((s.cq x.layer x.queue).cmds.find? fun p => p.2 == .launch n) with
      | some p => .next (t.endCmd x.layer x.queue p.1)
      | none => .next t

/-! ### What the hosts write -/

/-- The port serves the layer (R457). -/
def State.serves (s : State) (port l : Nat) : Bool := port == s.hostPort l && decide (l < Config.layers)

/-- QWR_DOORBELL (R458): a count more than N ahead stops the queue. -/
def execQwrDoorbell (s : State) : Out :=
  let h := s.choice
  let x := s.cq h.layer h.unit
  if !s.serves h.port h.layer || 32 ≤ h.unit then .next s
  else
    let v := h.value % 2 ^ 32
    let t := s.setCq h.layer h.unit { x with qwr := v }
    .next (if x.size < diff32 v x.qrd then t.queueError h.layer h.unit 8 0 0 x.qrd else t)

/-- A write of QCFG (R457 Table 2). RESET leaves an indirect buffer begun to go on. -/
def Queue.writeCfg (x : Queue) (v : Nat) : Queue :=
  let n := bits v 4 0
  let x := if x.en then (if tbit v 8 then x else { x with en := false })
    else
      let x := { x with log2n := n }
      if tbit v 8 ∧ 4 ≤ n ∧ n ≤ 20 then { x with en := true, quant := 16 } else x
  let x := if tbit v 9 then { x with qrd := x.qwr, err := 0, state := 0 } else x
  if tbit v 10 ∧ 2 ≤ x.state then { x with state := 1 } else x

/-- The acts of a QCFG write, told apart by the bits it carries. -/
def qcfgWrite (s : State) (p : Nat → Bool) : Out :=
  let h := s.choice
  if s.serves h.port h.layer && decide (h.unit < 32) && p h.value then
    .next (s.modCq h.layer h.unit fun x => (x.writeCfg h.value).rest)
  else .next s

def execQueueEnable (s : State) : Out := qcfgWrite s fun v => !tbit v 9 && !tbit v 10
def execQueueReset (s : State) : Out := qcfgWrite s fun v => tbit v 9
def execResume (s : State) : Out := qcfgWrite s fun v => tbit v 10

/-- EVRD_WRITE (R473): freed room takes the fault events that waited, as room from a write of EVCFG does. -/
def execEvrdWrite (s : State) : Out :=
  let h := s.choice
  .next ((s.setPort h.port { s.port h.port with evrd := h.value % 2 ^ 32 }).postOwed h.port)

/-- A 64-bit register after a write of 4 or 8 bytes at an offset into it. -/
def half64 (old off size v : Nat) : Nat :=
  if size = 8 then v % 2 ^ 64 else if off = 0 then old / 2 ^ 32 * 2 ^ 32 + v % 2 ^ 32 else v % 2 ^ 32 * 2 ^ 32 + old % 2 ^ 32

/-- A register of queue q written (R457): QBASE and QRD while EN = 0. -/
def Queue.writeReg (x : Queue) (off size v : Nat) : Queue :=
  if x.en then x
  else match off with
  | 0x00 => { x with qbase := half64 x.qbase 0 size v % 2 ^ 57 / 4096 * 4096 }
  | 0x04 => { x with qbase := half64 x.qbase 4 size v % 2 ^ 57 / 4096 * 4096 }
  | 0x0C => { x with qrd := v % 2 ^ 32 }
  | _ => x

/-- A register of a layer written (R457, R470, R474, R478). -/
def State.writeLayerReg (s : State) (l off size v : Nat) : State :=
  let y := s.layer l
  if 0x1000 ≤ off ∧ off < 0x1800 then s.modCq l ((off - 0x1000) / 0x40) fun x => x.writeReg (off % 0x40) size v
  else match off with
  | 0x00 => s.setLayer l { y with draint := bits v 31 16, cvage := bits v 7 0 }
  | 0x08 => s.setLayer l { y with kcall := half64 y.kcall 0 size v % 2 ^ 57 }
  | 0x0C => s.setLayer l { y with kcall := half64 y.kcall 4 size v % 2 ^ 57 }
  | 0x10 => s.setLayer l { y with apbase := half64 y.apbase 0 size v % 2 ^ 57 }
  | 0x14 => s.setLayer l { y with apbase := half64 y.apbase 4 size v % 2 ^ 57 }
  | _ => s

/-- Bytes of the mailbox written; 1 at its doorbell word posts the call (R474). -/
def Port.writeMail (p : Port) (off : Nat) (b : List Byte) (clk : Nat) : Port :=
  let p := { p with mailbox := Memory.write p.mailbox off b }
  if off = 60 ∧ b = toBytes 1 4 then { p with rung := some clk } else p

/-- REGISTER_WRITE (R457, R473, R474, R478): a host's write of BAR0; an offset no rule names, and a read-only register,
ignore it. A CTO outside its range is open. -/
def execRegisterWrite (s : State) : Out :=
  let h := s.choice
  let p := s.port h.port
  let v := h.value
  let set (p : Port) : Out := .next (s.setPort h.port p)
  if 2 ≤ h.port ∨ (h.size ≠ 4 ∧ h.size ≠ 8) ∨ h.offset % 4 ≠ 0 then .next s
  else if 0x8000 ≤ h.offset ∧ h.offset + h.size ≤ 0x9000 then set (p.writeMail (h.offset - 0x8000) (toBytes v h.size) s.clk)
  else if 0x100000 ≤ h.offset ∧ h.offset < 0x180000 then
    let l := (h.offset - 0x100000) / 0x10000
    .next (if s.serves h.port l then s.writeLayerReg l (h.offset % 0x10000) h.size v else s)
  else match h.offset with
  | 0x20 =>
    if 100 ≤ v % 2 ^ 16 then set { p with cto := v % 2 ^ 16 }
    else let f := s.freeNat 16; .next (f.2.setPort h.port { p with cto := 100 + f.1 % 65436 })
  | 0x40 => set { p with evbase := half64 p.evbase 0 h.size v / 4096 * 4096 }
  | 0x44 => set { p with evbase := half64 p.evbase 4 h.size v / 4096 * 4096 }
  | 0x48 => .next ((s.setPort h.port { p with evcfg := bits v 26 16 * 2 ^ 16 + bits v 4 0 }).postOwed h.port)
  | _ => .next s

/-! ### What the hosts read -/

/-- The 32-bit word at offset `off` of a 64-bit register. -/
def word32 (x off : Nat) : Nat := x / 2 ^ (8 * off) % 2 ^ 32

/-- A word of queue q's registers (R457 Tables 1 and 2): RESUME, RESET and the reserved bits read 0. -/
def Queue.readReg (x : Queue) (off : Nat) : Nat :=
  match off with
  | 0x00 => word32 x.qbase 0
  | 0x04 => word32 x.qbase 4
  | 0x08 => (if x.en then 2 ^ 8 else 0) + x.log2n % 32
  | 0x0C => x.qrd
  | 0x10 => x.qwr
  | 0x14 => x.err % 256 * 2 ^ 8 + x.state % 4
  | 0x18 => x.quant
  | 0x20 => word32 (trunc x.deficit 64) 0
  | 0x24 => word32 (trunc x.deficit 64) 4
  | _ => 0

/-- A word of a layer's registers (R457, R470, R474, R478). -/
def State.readLayerReg (s : State) (l off : Nat) : Nat :=
  let y := s.layer l
  if 0x1000 ≤ off ∧ off < 0x1800 then (s.cq l ((off - 0x1000) / 0x40)).readReg (off % 0x40)
  else match off with
  | 0x00 => y.draint * 2 ^ 16 + y.cvage
  | 0x08 => word32 y.kcall 0
  | 0x0C => word32 y.kcall 4
  | 0x10 => word32 y.apbase 0
  | 0x14 => word32 y.apbase 4
  | _ => 0

/-- What a host's read of the word at an offset of BAR0 returns (R457, R473, R474, R478, R480, R482, R483): an offset no rule names
reads as zero, and so do the registers of a layer at the other port; so do RESET and FREEZE, of which the manual names only writes
(notes/assumptions/50.md). -/
def State.bar0Word (s : State) (port off : Nat) : Nat :=
  let p := s.port port
  if 0x8000 ≤ off ∧ off < 0x9000 then ofBytes (Memory.read p.mailbox (off - 0x8000) 4)
  else if 0x100000 ≤ off ∧ off < 0x180000 then
    let l := (off - 0x100000) / 0x10000
    if s.serves port l then s.readLayerReg l (off % 0x10000) else 0
  else if 0x80 ≤ off ∧ off < 0xA0 then look s.temps ((off - 0x80) / 4) 0
  else match off with
  | 0x00 => word32 s.ready.toNat 0
  | 0x04 => word32 s.ready.toNat 4
  | 0x08 => s.hostmap.toNat
  | 0x20 => p.cto
  | 0x40 => word32 p.evbase 0
  | 0x44 => word32 p.evbase 4
  | 0x48 => p.evcfg
  | 0x4C => p.evwr
  | 0x50 => p.evrd
  | 0x54 => p.evlost
  | 0xA0 => s.power
  | 0xA4 => s.clkMhz
  | 0xA8 => s.throt
  | _ => 0

/-- What a host's read through an aperture returns (R478): its data, or the fault of an Unsupported Request. -/
def State.apertureRead (s : State) (l off n : Nat) : Except VaFault (List Byte) := s.readVa l ((s.layer l).apbase + off) n

/-- HOST_APERTURE_ACCESS (R478): the choice's data is written, or, with none, `size` bytes are read, and the completion goes to the
host. A fault drops a write, completes a read as Unsupported Request, and posts an event. -/
def execHostApertureAccess (s : State) : Out :=
  let h := s.choice
  let va := (s.layer h.layer).apbase + h.offset
  if !s.serves h.port h.layer || 2 ^ 33 < h.offset + h.size then .next s
  else match h.answer with
  | .data b =>
    match s.sysPlaces h.layer va b.length with
    | .ok ps => let t := s.sysWritePlaces h.layer ps b; .next (if s.aqHolds t h.layer then s else t)
    | .error f => .next (s.postFault h.layer f.cause f.addr)
  | _ =>
    let done (t : State) (x : Option (List Byte)) : Out := .next (t.setPort h.port { t.port h.port with completion := some x })
    match s.apertureRead h.layer h.offset h.size with
    | .ok b => done (s.noteAccess h.layer none .read va h.size) (some b)
    | .error f => done (s.postFault h.layer f.cause f.addr) none

end Sys2Proof.Machine
end

