-- ==== Sys2Proof/Machine/Firmware.lean ====
section
/-! DEFINITION. The firmware calls but the loading of code (spec/18_commands.md R474 to R477, R481, spec/16_stack.md R393 to
R401, spec/09_barges.md R256). -/

namespace Sys2Proof.Machine

/-! ### Records -/

/-- A record's arguments (R475 Table 12). -/
def fwArg (r k : Nat) : Nat := if k = 0 then bits r 63 32 else bits r (64 * k + 63) (64 * k)

def fwCode (r : Nat) : Nat := bits r 7 0

/-- The 64 bytes of a caller's record; none where a kernel's slot cannot be read. -/
def State.fwRecord (s : State) : Caller → Option (List Byte)
  | .host p => some (Memory.read (s.port p).mailbox 0 64)
  | .kernel l => match s.readVa l (s.layer l).kcall 64 with | .ok b => some b | .error _ => none

def State.rungAt (s : State) : Caller → Option Nat
  | .host p => (s.port p).rung
  | .kernel l => (s.layer l).rung

def State.unring (s : State) : Caller → State
  | .host p => s.setPort p { s.port p with rung := none }
  | .kernel l => s.setLayer l { s.layer l with rung := none }

/-- Bytes of a caller's record written, visible at system scope. -/
def State.fwWrite (s : State) (c : Caller) (off : Nat) (b : List Byte) : State :=
  match c with
  | .host p => s.setPort p { s.port p with mailbox := Memory.write (s.port p).mailbox off b }
  | .kernel l => match s.sysWrite l ((s.layer l).kcall + off) b with | .ok t => t | .error _ => s

/-- The call ends (R475): RES0, then STATUS. -/
def State.fwEnd (s : State) (c : Caller) (status res : Nat) : State :=
  (((s.fwWrite c 40 (toBytes res 8)).fwWrite c 1 (toBytes status 1)).unring c)

/-- The logical device a call concerns (R475); 8 for none. -/
def fwLayer (c : Caller) (r : Nat) : Nat :=
  match c with
  | .kernel l => l
  | .host _ =>
    match fwCode r with
    | 8 => bits r 26 24
    | 9 => bits (fwArg r 0) 10 8
    | 11 => 8
    | _ => bits (fwArg r 0) 2 0

/-- The argument bits Table 13 uses, ARG0 to ARG4 (R476). -/
def fwMasks (r : Nat) : List Nat :=
  let all := 2 ^ 64 - 1
  match fwCode r with
  | 1 => [0x03FFFF07, all, all, 0, 0]
  | 2 => [0, all, 2 ^ 57 - 1, all, 0]
  | 3 => [0, all, 0, 0, 0]
  | 4 => [0x3F, all, all, all, all]
  | 5 => [0x3F, 0, 0, 0, 0]
  | 6 =>
    match bits (fwArg r 0) 9 8 with
    | 0 => [0x3FF, 0, 0, 0, 0]
    | 1 => [0x3FF, 2 ^ 16 - 1, 2 ^ 32 - 1, 0, 2 ^ 32 - 1]
    | 2 => [0x3FF, 2 ^ 27 - 1, all, all, 2 ^ 32 - 1]
    | _ => [0x3FF, all, all, all, all]
  | 7 => [0x107, 0x3FF, 0x7FF, 0, 0]
  | 9 => [0x7F3, all, 0, 0, 0]
  | 10 => [0x107, 0, 0, 0, 0]
  | 11 => [0xFFFF, 0, 0, 0, 0]
  | _ => [0x7, 2 ^ 57 - 1, all, 0, 0]

/-- No bit outside a mask. -/
def within (x m : Nat) : Bool := x &&& m == x

/-- A record the call accepts (R475): its code, its caller, its reserved fields and its unused arguments. Call 08h has a
record of its own (R491). -/
def fwWellFormed (c : Caller) (r : Nat) : Bool :=
  let k := fwCode r
  (match c with | .kernel _ => decide (1 ≤ k) && decide (k ≤ 6) | .host _ => decide (7 ≤ k) && decide (k ≤ 12))
    && bits r 479 384 == 0
    && (k == 8 || (bits r 31 16 == 0 && (List.range 5).all fun i => within (fwArg r i) ((fwMasks r).getD i 0)))

/-- Every caller. -/
def callers : List Caller := [.host 0, .host 1] ++ (List.range Config.layers).map .kernel

/-- A call that concerns the same logical device has rung earlier (R475). -/
def State.fwBehind (s : State) (c : Caller) (r t : Nat) : Bool :=
  fwLayer c r != 8 && callers.any fun d => d != c && match s.rungAt d, s.fwRecord d with
    | some u, some b => decide (u < t) && fwLayer d (ofBytes b) == fwLayer c r
    | _, _ => false

/-- What a call comes to: its status and output over a state, or a wait with the call still pending. -/
inductive FwOut where
  | done (status res : Nat) (s : State)
  | wait (s : State)

/-- Performs the pending call of the choice's caller where `mine` accepts its record; a malformed one is refused by
whichever act meets it (R475). -/
def firmwareCall (s : State) (mine : Nat → Bool) (run : State → Caller → Nat → FwOut) : Out :=
  let c := s.choice.caller
  match s.rungAt c, s.fwRecord c with
  | some t, some b =>
    let r := ofBytes b
    if bits r 15 8 ≠ 0xFF ∨ s.fwBehind c r t then .next s
    else if !fwWellFormed c r then .next (s.fwEnd c 1 0)
    else if !mine r then .next s
    else match run s c r with
    | .done status res u => .next (if status = 0 then u.fwEnd c 0 res else s.fwEnd c status 0)
    | .wait u => .next u
  | _, _ => .next s

/-- The first refusal that applies, in ascending order of STATUS. -/
def refusal (l : List (Nat × Bool)) : Option Nat := (l.find? (·.2)).map (·.1)

/-- A call made by a layer kernel, and one made by a host. -/
def kernelCall (s : State) (code : Nat) (run : State → Nat → Nat → FwOut) : Out :=
  firmwareCall s (fun r => fwCode r == code) fun t c r => match c with | .kernel l => run t l r | .host _ => .done 1 0 t
def hostCall (s : State) (mine : Nat → Bool) (run : State → Nat → Nat → FwOut) : Out :=
  firmwareCall s mine fun t c r => match c with | .host p => run t p r | .kernel _ => .done 1 0 t

/-! ### Exports and windows -/

def bigPage : Nat := 2 ^ 21

/-- A set of layers names one of the other host (R26). -/
def State.otherHost (s : State) (l set : Nat) : Bool := (List.range Config.layers).any fun k => tbit set k && s.hostPort k != s.hostPort l

/-- A key index the logical device may name. -/
def State.keyAssigned (s : State) (l kix : Nat) : Bool := kix == 0 || find s.keyOwner kix == some l

/-- The free export-table entry the firmware takes: the choice's, else the lowest (R393). -/
def State.freeExport (s : State) (l : Nat) : Option Nat :=
  let free (k : Nat) : Bool := decide (k < 2048) && (match find (s.layer l).exports k with | some e => !e.current | none => true)
  if free s.choice.unit then some s.choice.unit else (List.range 2048).find? free

/-- EXPORT (R393, R394, R476). -/
def execExport (s : State) : Out :=
  kernelCall s 1 fun s l r =>
    let a := fwArg r 0
    let base := fwArg r 1
    let size := fwArg r 2
    let k := s.freeExport l
    match refusal [(2, base % bigPage != 0 || size % bigPage != 0 || size == 0 || decide (homeSize < base + size)),
                   (3, s.otherHost l (bits a 15 8)), (4, k.isNone), (5, !s.keyAssigned l (bits a 25 16))], k with
    | some st, _ => .done st 0 s
    | none, none => .done 4 0 s
    | none, some k =>
      let gen := match find (s.layer l).exports k with | some e => e.gen | none => 0
      let e : Export := { gen := gen, current := true, base := base, size := size, r := tbit a 0, w := tbit a 1, a := tbit a 2
                          importers := bits a 15 8, kix := bits a 25 16 }
      .done 0 (l * 2 ^ 61 + gen * 2 ^ 51 + k * 2 ^ 40) (s.setLayer l { s.layer l with exports := insert (s.layer l).exports k e })

/-- The export a handle names, while it is current (R394). -/
def State.handle (s : State) (h : Nat) : Option (Nat × Nat × Export) :=
  match find (s.layer (bits h 63 61)).exports (bits h 50 40) with
  | some e => if bits h 39 0 = 0 ∧ e.current ∧ e.gen = bits h 60 51 then some (bits h 63 61, bits h 50 40, e) else none
  | none => none

/-- The level-1 table that maps an address, where the tables above it stand (R447). -/
def State.tableFor (s : State) (l va : Nat) : Nat → Nat → Option Nat
  | 0, tbl => some tbl
  | k + 1, tbl =>
    let e := ofBytes (s.readAt (.home l (tbl + 8 * (va / 2 ^ (12 + 9 * (k + 2)) % 512)) 0) 8)
    if tbit e 63 && !tbit e 41 then s.tableFor l va k (pteAddr e * 2 ^ 12) else none

/-- The entries of 2 MiB pages that name a window, written where their tables stand (R395). -/
def State.mapWindow (s : State) (l base size win : Nat) (e : Export) : State :=
  let pte := 2 ^ 63 + 3 * 2 ^ 60 + 2 ^ 41 + (if e.w || e.a then 2 ^ 43 else 0) + (if e.r || e.a then 2 ^ 42 else 0) + win
  (List.range (size / bigPage)).foldl (init := s) fun t i =>
    let va := base + i * bigPage
    match if (t.layer l).ptb = 0 then none else t.tableFor l va 3 (t.layer l).ptb with
    | some tbl => t.writeAt (.home l (tbl + 8 * (va / bigPage % 512)) 0) (toBytes pte 8)
    | none => t

/-- IMPORT (R395, R476). -/
def execImport (s : State) : Out :=
  kernelCall s 2 fun s l r =>
    let base := fwArg r 2
    let size := fwArg r 3
    match s.handle (fwArg r 1) with
    | none => .done 2 0 s
    | some (el, ix, e) =>
      let win := (List.range 256).find? fun k => (find (s.layer l).windows k).isNone
      match refusal [(3, !tbit e.importers l || s.hostPort el != s.hostPort l), (4, win.isNone),
                     (5, base % bigPage != 0 || size % bigPage != 0 || size == 0 || decide (e.size < size))], win with
      | some st, _ => .done st 0 s
      | none, none => .done 4 0 s
      | none, some k =>
        let x : Window := { layer := el, eix := ix, gen := e.gen, base := base, size := size, revoked := false }
        .done 0 k ((s.setLayer l { s.layer l with windows := insert (s.layer l).windows k x }).mapWindow l base size k e)

/-- Accesses in flight whose page satisfies p: those begun, and the rest failed (R397, R476). -/
def State.cutOff (s : State) (cause : Nat) (p : Nat → Nat → Bool) : State × Bool :=
  let hit (o : Op) : Bool := !o.captured && (match o.place, o.kind.access with
    | some (.scratch ..), _ => false
    | some _, some (ea, _, _) => (match s.leafOf o.layer (s.viaOf o.crew) ea with | .leaf _ _ pte => p o.layer pte | _ => false)
    | _, _ => false)
  ({ s with ops := s.ops.map fun (q : Nat × Op) =>
      if hit q.2 && !q.2.begun then
        (q.1, { q.2 with place := none, early := none, failed := q.2.kind.access.map fun a => (cause, a.1) })
      else q }, s.ops.any fun q => hit q.2 && q.2.begun)

/-- A page-table entry of layer k names a window of the export. -/
def State.windowOf (s : State) (el ix : Nat) (k pte : Nat) : Bool :=
  pteKind pte == 3 && (match find (s.layer k).windows (bits pte 7 0) with | some w => w.layer == el && w.eix == ix | none => false)

/-- REVOKE (R397, R476). -/
def execRevoke (s : State) : Out :=
  kernelCall s 3 fun s l r =>
    match s.handle (fwArg r 1) with
    | none => .done 2 0 s
    | some (el, ix, e) =>
      if el ≠ l then .done 2 0 s
      else
        let c := s.cutOff 0x1B (s.windowOf l ix)
        if c.2 then .wait s
        else
          let t := c.1.setLayer l { c.1.layer l with exports := insert (c.1.layer l).exports ix { e with current := false, gen := (e.gen + 1) % 1024 } }
          .done 0 0 { t with layers := t.layers.map fun (p : Nat × Layer) => (p.1, { p.2 with
            windows := p.2.windows.map fun w => if w.2.layer = l ∧ w.2.eix = ix then (w.1, { w.2 with revoked := true }) else w
            tlb := p.2.tlb.filter fun x => !s.windowOf l ix p.1 x.pte }) }

/-! ### Regions -/

/-- Table 2, R400 and R401. -/
def regionOk (e : Nat) : Bool :=
  let kind := regionKind e
  let gx := bits e 196 196
  let gy := bits e 197 197
  let cells := tiledCells e
  let th := if bits e 235 224 = 0 then 4096 else bits e 235 224
  let pitch := bits e 223 208
  let twb := bits e 207 200
  let unused := (List.range 4).all fun n => cells.contains (n / 2, n % 2) || bits e (3 * n + 186) (3 * n + 184) == 0
  kind != 0 && bits e 255 236 == 0 && bits e 199 198 == 0 && bits e 183 176 == 0 && bits e 69 0 == 0
    && regionSet e != 0 && bits e 151 136 != 0
    && (kind == 2 || (bits e 235 200 == 0 && bits e 197 184 == 0))
    && (kind == 1 || bits e 175 172 == 0) && (kind == 3 || bits e 135 121 == 0)
    && (kind != 1 || decide (bits e 175 172 ≤ 8))
    && (kind != 2 || (pitch != 0 && twb != 0 && pitch % (twb * (gx + 1)) == 0 && unused
          && (regionMembers e).all (fun k => cells.any fun c => tiledCell e c.1 c.2 == k)
          && cells.all (fun c => tbit (regionSet e) (tiledCell e c.1 c.2))
          && regionSize e % (pitch * 64 * th * (gy + 1)) == 0))

/-- The ranges of member k's home memory that a region takes (R400, R401, R403). -/
def regionRanges (e k : Nat) : List (Nat × Nat) :=
  let n := (regionMembers e).length
  if !tbit (regionSet e) k then []
  else match regionKind e with
  | 1 => let sz := 2 ^ (bits e 175 172 + 12); [(regionPbase e, (regionSize e + n * sz - 1) / (n * sz) * sz)]
  | 2 => [(regionPbase e, tiledShare e * ((tiledCells e).filter fun c => tiledCell e c.1 c.2 == k).length)]
  | 3 => (regionPbase e, regionSize e) :: if (regionMembers e).headD 0 = k then [(regionRbase e, regionSize e)] else []
  | _ => []

def rangesMeet (a b : List (Nat × Nat)) : Bool :=
  a.any fun p => b.any fun q => decide (p.1 < q.1 + q.2) && decide (q.1 < p.1 + p.2)

/-- What stands in member k's home memory already. -/
def State.takenRanges (s : State) (k : Nat) : List (Nat × Nat) :=
  ((s.layer k).exports.filter (·.2.current)).map (fun p => (p.2.base, p.2.size))
    ++ (List.range Config.layers).flatMap fun j =>
        ((s.layer j).regions.filter fun p => regionKind p.2 != 0).flatMap fun p => regionRanges p.2 k

/-- CREATE_REGION (R398, R476). -/
def execCreateRegion (s : State) : Out :=
  kernelCall s 4 fun s l r =>
    let ix := fwArg r 0
    let e := fwArg r 1 + fwArg r 2 * 2 ^ 64 + fwArg r 3 * 2 ^ 128 + fwArg r 4 * 2 ^ 192
    let ms := regionMembers e
    match refusal [(2, !regionOk e || !tbit (regionSet e) l), (3, s.otherHost l (regionSet e)),
                   (4, ms.any fun k => regionKind (look (s.layer k).regions ix 0) != 0),
                   (5, ms.any fun k => rangesMeet (regionRanges e k) (s.takenRanges k))] with
    | some st => .done st 0 s
    | none => .done 0 0 (ms.foldl (fun t k => t.setLayer k { t.layer k with regions := insert (t.layer k).regions ix e }) s)

/-- FREE_REGION (R476). -/
def execFreeRegion (s : State) : Out :=
  kernelCall s 5 fun s l r =>
    let ix := fwArg r 0
    let e := look (s.layer l).regions ix 0
    if regionKind e = 0 ∨ !tbit (regionSet e) l then .done 2 0 s
    else
      let c := s.cutOff 0x15 fun k pte => pteKind pte == 2 && bits pte 5 0 == ix && tbit (regionSet e) k
      if c.2 then .wait s
      else .done 0 0 ((regionMembers e).foldl (fun t k => t.setLayer k { t.layer k with regions := erase (t.layer k).regions ix }) c.1)

/-! ### I/O targets, keys, debug -/

/-- An IOREQ that names the entry is outstanding. -/
def State.ioBusy (s : State) (l ix : Nat) : Bool :=
  s.ops.any fun p => p.2.layer == l && (match p.2.kind with | .ioreq ls _ => ls.any fun r => r.tgt == ix && r.ended.isNone | _ => false)

/-- WRITE_IO_TARGET_ENTRY (R256, R476): the controller, the namespace and the peer are found outside the part; the choice
brings the refusal, or the LBA size or queue pair as its value. -/
def execWriteIoTargetEntry (s : State) : Out :=
  kernelCall s 6 fun s l r =>
    let a := fwArg r 0
    let ix := bits a 7 0
    let kind := bits a 9 8
    let res := s.choice.value
    let answers (k : Nat) : Bool := match s.choice.answer with | .status c => c.toNat == k | _ => false
    let timeout := fwArg r 4
    match refusal [(1, (kind == 1 || kind == 2) && decide (timeout < 100)),
                   (2, kind == 3 || (kind != 0 && answers 2)),
                   (3, kind == 1 && (answers 3 || !(res == 512 || res == 4096))),
                   (4, kind == 2 && (answers 4 || s.hostmap.getLsbD (8 + bits (fwArg r 1) 26 24) != (s.hostPort l == 1))),
                   (5, s.ioBusy l ix)] with
    | some st => .done st 0 s
    | none =>
      let y := s.layer l
      if kind = 0 then .done 0 0 (s.setLayer l { y with iotgts := erase y.iotgts ix })
      else
        let res := if kind = 2 then res % 2 ^ 24 else res
        let x : IoTarget := { kind := kind, arg1 := fwArg r 1, arg2 := fwArg r 2, arg3 := fwArg r 3, timeout := timeout, res := res }
        .done 0 res (s.setLayer l { y with iotgts := insert y.iotgts ix x })

/-- The indices of call 07h. -/
def keyRange (r : Nat) : List Nat := (List.range (bits (fwArg r 2) 10 0)).map (fwArg r 1 + ·)

/-- ASSIGN_KEY_INDICES (R476). -/
def execAssignKeyIndices (s : State) : Out :=
  hostCall s (fun r => fwCode r == 7 && !tbit (fwArg r 0) 8) fun s p r =>
    let l := bits (fwArg r 0) 2 0
    let ks := keyRange r
    match refusal [(1, fwArg r 2 == 0 || decide (1023 < fwArg r 2)), (2, ks.any fun k => k == 0 || decide (1023 < k)),
                   (3, ks.any fun k => match find s.keyOwner k with | some j => j != l | none => false), (6, !s.serves p l)] with
    | some st => .done st 0 s
    | none => .done 0 0 { s with keyOwner := ks.foldl (fun m k => insert m k l) s.keyOwner }

/-- UNASSIGN_KEY_INDICES (R476): their keys go with them. -/
def execUnassignKeyIndices (s : State) : Out :=
  hostCall s (fun r => fwCode r == 7 && tbit (fwArg r 0) 8) fun s p r =>
    let l := bits (fwArg r 0) 2 0
    let ks := keyRange r
    match refusal [(1, fwArg r 2 == 0 || decide (1023 < fwArg r 2)), (2, ks.any fun k => k == 0 || decide (1023 < k)),
                   (3, ks.any fun k => find s.keyOwner k != some l), (6, !s.serves p l)] with
    | some st => .done st 0 s
    | none => .done 0 0 (({ s with keyOwner := ks.foldl erase s.keyOwner }).rekey (ks.foldl erase s.keys))

/-- A debug call (R453, R454, R476). -/
def debugCall (s : State) (op : Nat) : Out :=
  hostCall s (fun r => fwCode r == 9 && bits (fwArg r 0) 1 0 == op) fun s p r =>
    let a := fwArg r 0
    let l := bits a 10 8
    match s.crewByArea l (fwArg r 1) (fun k => k.status != .retired), s.serves p l with
    | none, _ => .done 2 0 s
    | some _, false => .done 6 0 s
    | some c, true =>
      match s.debugOp c op (bits a 7 4) with
      | .ok t => .done 0 0 t
      | .error f => if f.replay then .wait (s.layerWait l f.cause f.addr) else .done 0 0 (s.killCrew c f.cause f.addr)

def execDebugHalt (s : State) : Out := debugCall s 0
def execDebugRun (s : State) : Out := debugCall s 1
def execDebugStep (s : State) : Out := debugCall s 2
def execDebugSnap (s : State) : Out := debugCall s 3

/-! ### Sleeping, assignment, kernel state -/

/-- READY written, with its event (R473, R480). -/
def State.setReady (s : State) (f : BitVec 64 → BitVec 64) : State :=
  let t := { s with ready := f s.ready }
  if t.ready = s.ready then s else t.postAll { kind := 6, info := t.ready.toNat }

/-- LDV and AQR of a layer (R480 Table 11). -/
def layerBits (l : Nat) : BitVec 64 := BitVec.ofNat 64 (2 ^ l + 2 ^ (28 + l))

/-- SLEEP_DEVICE (R481). -/
def execSleepDevice (s : State) : Out :=
  hostCall s (fun r => fwCode r == 10 && !tbit (fwArg r 0) 8) fun s p r =>
    let l := bits (fwArg r 0) 2 0
    match refusal [(2, (s.layer l).asleep), (6, !s.serves p l)] with
    | some st => .done st 0 s
    | none =>
      let vs := (s.convoys.filter fun v => v.2.status == .resident && (s.launch v.2.launch).layer == l).map (·.1)
      let t := s.setLayer l { s.layer l with asleep := true, preempted := (s.layer l).preempted ++ vs }
      .done 0 0 ((vs.foldl State.preempt t).setReady fun b => b &&& ~~~ layerBits l)

/-- WAKE_DEVICE (R481): the convoys are restored in their order. -/
def execWakeDevice (s : State) : Out :=
  hostCall s (fun r => fwCode r == 10 && tbit (fwArg r 0) 8) fun s p r =>
    let l := bits (fwArg r 0) 2 0
    match refusal [(2, !(s.layer l).asleep), (6, !s.serves p l)] with
    | some st => .done st 0 s
    | none => .done 0 0 ((s.setLayer l { s.layer l with asleep := false }).setReady fun b => b ||| layerBits l)

/-- The assignment the next start puts in force (R477). -/
def State.nextMap (s : State) : BitVec 16 :=
  match (s.port 0).proposal, (s.port 1).proposal with
  | some a, some b => if a = b then BitVec.ofNat 16 a else s.hostmap
  | some a, none => if (s.port 1).link then s.hostmap else BitVec.ofNat 16 a
  | none, some b => if (s.port 0).link then s.hostmap else BitVec.ofNat 16 b
  | none, none => s.hostmap

/-- ASSIGN_LAYERS_AND_PORTS (R477). -/
def execAssignLayersAndPorts (s : State) : Out :=
  hostCall s (fun r => fwCode r == 11) fun s p r =>
    let t := s.setPort p { s.port p with proposal := some (fwArg r 0) }
    .done 0 t.nextMap.toNat t

/-- SET_KERNEL_STATE (R424, R476). -/
def execSetKernelState (s : State) : Out :=
  hostCall s (fun r => fwCode r == 12) fun s p r =>
    let l := fwArg r 0
    let kvec := fwArg r 1
    let ptb := fwArg r 2
    match refusal [(2, kvec % 4 != 0 || ptb % 4096 != 0 || decide (homeSize ≤ ptb)),
                   (3, (s.crews.any fun c => c.2.layer == l && c.2.status == .resident) || (s.layer l).queues.any fun q => q.2.en),
                   (6, !s.serves p l)] with
    | some st => .done st 0 s
    | none =>
      let d := s.dropTranslations l none
      if d.2.isEmpty then .done 0 0 (d.1.setLayer l { d.1.layer l with kvec := kvec, ptb := ptb }) else .wait s

end Sys2Proof.Machine
end

