-- ==== Sys2Proof/Machine/Integer.lean ====
section
/-! DEFINITION. Integer, address, bit and cross-lane instructions (spec/04_integer.md R104 to R129). -/

namespace Sys2Proof.Machine

/-- A source by its type, as an integer (R104). -/
def extT (t x : Nat) : Int := if isSigned t then sext x (typeBits t) else ((x % 2 ^ typeBits t : Nat) : Int)

/-- A result written by its type (R104): narrow types saturate, the others wrap. -/
def putT (t : Nat) (r : Int) : Nat :=
  let w := typeBits t
  if w < 32 then (if isSigned t then trunc (satI r w) 32 else trunc (satN r w) 32) else trunc r w

/-- ADDC (R108): the sum and the carry out in the odd register. -/
def addcOf (a b c : Nat) : Nat := (a + b + c % 2) % 2 ^ 33

/-- MULH (R109). -/
def mulhOf (t a b : Nat) : Nat := trunc (extT t a * extT t b / ((2 ^ typeBits t : Nat) : Int)) (typeBits t)

/-- DIV (R110). -/
def divOf (t a b : Nat) : Nat :=
  if extT t b = 0 then 2 ^ typeBits t - 1 else trunc (Int.tdiv (extT t a) (extT t b)) (typeBits t)

/-- REM (R110). -/
def remOf (t a b : Nat) : Nat :=
  if extT t b = 0 then trunc (extT t a) (typeBits t) else trunc (Int.tmod (extT t a) (extT t b)) (typeBits t)

def minI (a b : Int) : Int := if b < a then b else a
def maxI (a b : Int) : Int := if a < b then b else a

/-- SHL (R113). -/
def shlOf (w a n : Nat) : Nat := if w ≤ n then 0 else a * 2 ^ n % 2 ^ w

/-- SHR (R113): arithmetic under the signed types. -/
def shrOf (t a n : Nat) : Nat :=
  let w := typeBits t
  if isSigned t then (if w ≤ n then (if sext a w < 0 then 2 ^ w - 1 else 0) else trunc (sext a w / ((2 ^ n : Nat) : Int)) w)
  else if w ≤ n then 0 else a % 2 ^ w / 2 ^ n

/-- FSH (R114). -/
def fshOf (a b c : Nat) : Nat := (a * 2 ^ 32 + b) / 2 ^ Nat.min c 32 % 2 ^ 32

/-- The position and length of a field descriptor (R115). -/
def fieldOf (b : Nat) : Nat × Nat := (b % 32, Nat.min (bits b 13 8) (32 - b % 32))

/-- BFX (R115). -/
def bfxOf (t a b : Nat) : Nat :=
  let (pos, len) := fieldOf b
  if len = 0 then 0
  else
    let f := a / 2 ^ pos % 2 ^ len
    if t = 3 then trunc (sext f len) 32 else f

/-- BFI (R115). -/
def bfiOf (a b c : Nat) : Nat :=
  let (pos, len) := fieldOf b
  c % 2 ^ pos + a % 2 ^ len * 2 ^ pos + c / 2 ^ (pos + len) * 2 ^ (pos + len)

/-- Counts and reversal over w bits (R116). -/
def popcOf (w a : Nat) : Nat := ((List.range w).filter (tbit a ·)).length
def clzOf (w a : Nat) : Nat := w - bitLen (a % 2 ^ w)
def ctzOf (w a : Nat) : Nat := ((List.range w).find? (tbit a ·)).getD w
def brevOf (w a : Nat) : Nat := (List.range w).foldl (fun r i => 2 * r + (if tbit a i then 1 else 0)) 0

/-- LEA (R121). -/
def leaOf (t a b : Nat) : Nat :=
  trunc ((a : Int) + (if isSigned t then sext b 32 else ((b % 2 ^ 32 : Nat) : Int)) * ((typeBits t / 8 : Nat) : Int)) 64

/-- PERM (R128). -/
def permOf (a b c : Nat) : Nat :=
  (List.range 4).foldl (fun r i =>
    let s := bits c (4 * i + 3) (4 * i)
    let v := if 8 ≤ s then 0 else if s < 4 then bits a (8 * s + 7) (8 * s) else bits b (8 * (s - 4) + 7) (8 * (s - 4))
    r + v * 2 ^ (8 * i)) 0

def execAdd (p : OPfx) (d a b : Reg) (s : State) : Out :=
  let t := effType p 3
  resultInstr (.add p d a b) s d (pairN t) fun c l => putT t (extT t (c.val 0 l) + extT t (c.val 1 l))

def execSub (p : OPfx) (d a b : Reg) (s : State) : Out :=
  let t := effType p 3
  resultInstr (.sub p d a b) s d (pairN t) fun c l => putT t (extT t (c.val 0 l) - extT t (c.val 1 l))

/-- ADDC (R108). With a q destination the sum and the carry are two entries of that one queue, the sum first: DESIGN CHOICE
(notes/assumptions/59.md). -/
def execAddc (p : OPfx) (d a b : Reg) (s : State) : Out :=
  resultInstr (.addc p d a b) s d 2 fun c l => addcOf (c.val 0 l) (c.val 1 l) (c.val 2 l)

def execMul (p : OPfx) (d a b : Reg) (s : State) : Out :=
  let t := effType p 3
  resultInstr (.mul p d a b) s d (pairN t) fun c l => putT t (extT t (c.val 0 l) * extT t (c.val 1 l))

def execMulh (p : OPfx) (d a b : Reg) (s : State) : Out :=
  let t := effType p 3
  resultInstr (.mulh p d a b) s d (pairN t) fun c l => mulhOf t (c.val 0 l) (c.val 1 l)

def execMad (p : OPfx) (d a b : Reg) (s : State) : Out :=
  let t := effType p 3
  resultInstr (.mad p d a b) s d (pairN t) fun c l => putT t (extT t (c.val 0 l) * extT t (c.val 1 l) + extT t (c.val 2 l))

def execDiv (p : OPfx) (d a b : Reg) (s : State) : Out :=
  let t := effType p 3
  resultInstr (.div p d a b) s d (pairN t) fun c l => divOf t (c.val 0 l) (c.val 1 l)

def execRem (p : OPfx) (d a b : Reg) (s : State) : Out :=
  let t := effType p 3
  resultInstr (.rem p d a b) s d (pairN t) fun c l => remOf t (c.val 0 l) (c.val 1 l)

def execMin (p : OPfx) (d a b : Reg) (s : State) : Out :=
  let t := effType p 3
  resultInstr (.min p d a b) s d (pairN t) fun c l => putT t (minI (extT t (c.val 0 l)) (extT t (c.val 1 l)))

def execMax (p : OPfx) (d a b : Reg) (s : State) : Out :=
  let t := effType p 3
  resultInstr (.max p d a b) s d (pairN t) fun c l => putT t (maxI (extT t (c.val 0 l)) (extT t (c.val 1 l)))

def execAbs (p : OPfx) (d a : Reg) (s : State) : Out :=
  let t := effType p 3
  resultInstr (.abs p d a) s d (pairN t) fun c l => putT t (((extT t (c.val 0 l)).natAbs : Nat) : Int)

def execAnd (p : OPfx) (d a b : Reg) (s : State) : Out :=
  let t := effType p 9
  resultInstr (.and p d a b) s d (pairN t) fun c l => c.val 0 l &&& c.val 1 l

def execOr (p : OPfx) (d a b : Reg) (s : State) : Out :=
  let t := effType p 9
  resultInstr (.or p d a b) s d (pairN t) fun c l => c.val 0 l ||| c.val 1 l

def execXor (p : OPfx) (d a b : Reg) (s : State) : Out :=
  let t := effType p 9
  resultInstr (.xor p d a b) s d (pairN t) fun c l => c.val 0 l ^^^ c.val 1 l

def execAndn (p : OPfx) (d a b : Reg) (s : State) : Out :=
  let t := effType p 9
  resultInstr (.andn p d a b) s d (pairN t) fun c l => c.val 0 l &&& (2 ^ typeBits t - 1 - c.val 1 l)

def execShl (p : OPfx) (d a b : Reg) (s : State) : Out :=
  let t := effType p 9
  resultInstr (.shl p d a b) s d (pairN t) fun c l => shlOf (typeBits t) (c.val 0 l) (c.val 1 l)

def execShr (p : OPfx) (d a b : Reg) (s : State) : Out :=
  let t := effType p 7
  resultInstr (.shr p d a b) s d (pairN t) fun c l => shrOf t (c.val 0 l) (c.val 1 l)

def execFsh (p : OPfx) (d a b : Reg) (s : State) : Out :=
  resultInstr (.fsh p d a b) s d 1 fun c l => fshOf (c.val 0 l) (c.val 1 l) (c.val 2 l)

def execBfx (p : OPfx) (d a b : Reg) (s : State) : Out :=
  resultInstr (.bfx p d a b) s d 1 fun c l => bfxOf (effType p 7) (c.val 0 l) (c.val 1 l)

def execBfi (p : OPfx) (d a b : Reg) (s : State) : Out :=
  resultInstr (.bfi p d a b) s d 1 fun c l => bfiOf (c.val 0 l) (c.val 1 l) (c.val 2 l)

def execPopc (p : OPfx) (d a : Reg) (s : State) : Out :=
  let t := effType p 9
  resultInstr (.popc p d a) s d (1) fun c l => popcOf (typeBits t) (c.val 0 l)

def execClz (p : OPfx) (d a : Reg) (s : State) : Out :=
  let t := effType p 9
  resultInstr (.clz p d a) s d (1) fun c l => clzOf (typeBits t) (c.val 0 l)

def execCtz (p : OPfx) (d a : Reg) (s : State) : Out :=
  let t := effType p 9
  resultInstr (.ctz p d a) s d (1) fun c l => ctzOf (typeBits t) (c.val 0 l)

def execBrev (p : OPfx) (d a : Reg) (s : State) : Out :=
  let t := effType p 9
  resultInstr (.brev p d a) s d (pairN t) fun c l => brevOf (typeBits t) (c.val 0 l)

def execSel (p : OPfx) (d a b : Reg) (s : State) : Out :=
  let t := effType p 9
  resultInstr (.sel p d a b) s d (pairN t) fun c l => if c.val 2 l = 0 then c.val 1 l else c.val 0 l

def execCmpm (p : OPfx) (cc k : BitVec 4) (a b : Reg) (s : State) : Out :=
  let t := effType p 3
  issueInstr (.cmpm p cc k a b) s fun c u =>
    .ok (u.writeMaskLanes c.gid k.toNat c.act fun l => icond cc.toNat (extT t (c.val 0 l)) (extT t (c.val 1 l)))

/-- MOVI (R119). -/
def execMovi (p : OPfx) (d : Reg) (imm : BitVec 16) (s : State) : Out :=
  let t := effType p 3
  resultInstr (.movi p d imm) s d (pairN t) fun _ _ => if isSigned t then trunc imm.toInt (typeBits t) else imm.toNat

/-- MOVH (R119). -/
def execMovh (p : OPfx) (d : Reg) (imm : BitVec 16) (s : State) : Out :=
  resultInstr (.movh p d imm) s d 1 fun c l => imm.toNat * 2 ^ 16 + c.val 0 l % 2 ^ 16

def execAddi (p : OPfx) (d : Reg) (imm : BitVec 16) (s : State) : Out :=
  let t := effType p 3
  resultInstr (.addi p d imm) s d (pairN t) fun c l => putT t (extT t (c.val 0 l) + imm.toInt)

def execMov (p : OPfx) (d a : Reg) (s : State) : Out :=
  let t := effType p 9
  resultInstr (.mov p d a) s d (pairN t) fun c l => c.val 0 l

def execLea (p : OPfx) (d a b : Reg) (s : State) : Out :=
  resultInstr (.lea p d a b) s d 2 fun c l => leaOf (effType p 1) (c.val 0 l) (c.val 1 l)

/-! ### Uniform (R122, R123) -/

def execUadd (d a b : Reg) (s : State) : Out :=
  issueInstr (.uadd d a b) s fun c t => .ok (c.writeU t d.toNat 1 ((c.u 0 + c.u 1) % 2 ^ 32))

def execUsub (d a b : Reg) (s : State) : Out :=
  issueInstr (.usub d a b) s fun c t => .ok (c.writeU t d.toNat 1 ((2 ^ 32 + c.u 0 - c.u 1) % 2 ^ 32))

def execUmul (d a b : Reg) (s : State) : Out :=
  issueInstr (.umul d a b) s fun c t => .ok (c.writeU t d.toNat 1 (c.u 0 * c.u 1 % 2 ^ 32))

def execUand (d a b : Reg) (s : State) : Out :=
  issueInstr (.uand d a b) s fun c t => .ok (c.writeU t d.toNat 1 (c.u 0 &&& c.u 1))

def execUor (d a b : Reg) (s : State) : Out :=
  issueInstr (.uor d a b) s fun c t => .ok (c.writeU t d.toNat 1 (c.u 0 ||| c.u 1))

def execUxor (d a b : Reg) (s : State) : Out :=
  issueInstr (.uxor d a b) s fun c t => .ok (c.writeU t d.toNat 1 (c.u 0 ^^^ c.u 1))

def execUshl (d a b : Reg) (s : State) : Out :=
  issueInstr (.ushl d a b) s fun c t => .ok (c.writeU t d.toNat 1 (shlOf 32 (c.u 0) (c.u 1)))

def execUshr (d a b : Reg) (s : State) : Out :=
  issueInstr (.ushr d a b) s fun c t => .ok (c.writeU t d.toNat 1 (shrOf 7 (c.u 0) (c.u 1)))

def execUmovi (d : Reg) (imm : BitVec 16) (s : State) : Out :=
  issueInstr (.umovi d imm) s fun c t => .ok (c.writeU t d.toNat 1 (trunc imm.toInt 32))

def execUmovh (d : Reg) (imm : BitVec 16) (s : State) : Out :=
  issueInstr (.umovh d imm) s fun c t => .ok (c.writeU t d.toNat 1 (imm.toNat * 2 ^ 16 + c.u 0 % 2 ^ 16))

/-! ### Cross-lane (R124 to R129) -/

/-- The source position of a shuffle and whether it is out of range (R126): 0 index, 1 up, 2 down, 3 xor. -/
def shuffleSrc (kind w pos x : Nat) : Nat × Bool :=
  match kind with
  | 0 => (x, decide (w ≤ x))
  | 1 => (pos - x, decide (pos < x))
  | 2 => (pos + x, decide (w ≤ pos + x))
  | _ => (pos ^^^ x, decide (w ≤ x))

/-- The lane a shuffle reads for lane l, and its flag (R126): its own lane where the source is out of range or not live. -/
def Ctx.shuffleLane (c : Ctx) (kind w l : Nat) : Nat × Bool :=
  let (sp, out) := shuffleSrc kind w (l % w) (c.val 1 l)
  let src := l - l % w + sp
  if out || !hasLane c.gang.live src then (l, true) else (src, false)

/-- A shuffle (R126). -/
def shuffleInstr (i : Instr) (kind : Nat) (p : OPfx) (d : Reg) (wid : BitVec 3) (flg : BitVec 4) (s : State) : Out :=
  issueInstr i s fun c t =>
    let w := 2 ^ wid.toNat
    let t := c.write t d.toNat (pairN (effType p 9)) fun l => c.val 0 (c.shuffleLane kind w l).1
    .ok (if flg = 15 then t else t.writeMaskLanes c.gid flg.toNat c.act fun l => (c.shuffleLane kind w l).2)

def execShfi (p : OPfx) (d a : Reg) (wid : BitVec 3) (flg : BitVec 4) (s : State) : Out :=
  shuffleInstr (.shfi p d a wid flg) 0 p d wid flg s

def execShfu (p : OPfx) (d a : Reg) (wid : BitVec 3) (flg : BitVec 4) (s : State) : Out :=
  shuffleInstr (.shfu p d a wid flg) 1 p d wid flg s

def execShfd (p : OPfx) (d a : Reg) (wid : BitVec 3) (flg : BitVec 4) (s : State) : Out :=
  shuffleInstr (.shfd p d a wid flg) 2 p d wid flg s

def execShfx (p : OPfx) (d a : Reg) (wid : BitVec 3) (flg : BitVec 4) (s : State) : Out :=
  shuffleInstr (.shfx p d a wid flg) 3 p d wid flg s

/-- A sort key by its type (R127). -/
def keyOf (t x : Nat) : Int := if t = 12 then totalKey (x % 2 ^ 32) else extT t (x % 2 ^ 32)

/-- Whether lane l exchanges with its partner (R127). -/
def cxsSwaps (t : Nat) (act : BitVec 32) (rev : Bool) (k j : Nat) (v : Nat → Nat) (l : Nat) : Bool :=
  let p := l ^^^ j
  let lo := Nat.min l p; let hi := Nat.max l p
  let up := ((l &&& k) == 0) != rev
  hasLane act p && (if up then decide (keyOf t (v hi) < keyOf t (v lo)) else decide (keyOf t (v lo) < keyOf t (v hi)))

/-- CXS (R127). With a q destination key and payload are two entries of that one queue, the key first: DESIGN CHOICE
(notes/assumptions/59.md). -/
def execCxs (p : OPfx) (d a : Reg) (rev : Bool) (lk lj : BitVec 3) (s : State) : Out :=
  resultInstr (.cxs p d a rev lk lj) s d 2 fun c l =>
    if cxsSwaps (effType p 7) c.act rev (2 ^ lk.toNat) (2 ^ lj.toNat) (c.val 0) l then c.val 0 (l ^^^ 2 ^ lj.toNat) else c.val 0 l

def execPerm (p : OPfx) (d a b : Reg) (s : State) : Out :=
  resultInstr (.perm p d a b) s d 1 fun c l => permOf (c.val 0 l) (c.val 1 l) (c.val 2 l)

/-- A scan's operation and identity (R129): 0 add, 1 min, 2 max, 3 xor, on bit patterns of type t. -/
def scanOp (op t a b : Nat) : Nat :=
  match op with
  | 0 => (a + b) % 2 ^ typeBits t
  | 1 => if extT t b < extT t a then b else a
  | 2 => if extT t a < extT t b then b else a
  | _ => a ^^^ b

def scanId (op t : Nat) : Nat :=
  let w := typeBits t
  match op with
  | 1 => if isSigned t then 2 ^ (w - 1) - 1 else 2 ^ w - 1
  | 2 => if isSigned t then 2 ^ (w - 1) else 0
  | _ => 0

/-- SCAN (R129). -/
def scanOf (op t w : Nat) (ex : Bool) (act : BitVec 32) (v : Nat → Nat) (l : Nat) : Nat :=
  (((lanes act).filter fun j => j / w == l / w && (if ex then decide (j < l) else decide (j ≤ l))).map v).foldl (scanOp op t) (scanId op t)

def execScan (p : OPfx) (d a : Reg) (wid : BitVec 3) (ex : Bool) (op : BitVec 2) (s : State) : Out :=
  let t := effType p 3
  resultInstr (.scan p d a wid ex op) s d (pairN t) fun c l => scanOf op.toNat t (2 ^ wid.toNat) ex c.act (c.val 0) l

end Sys2Proof.Machine
end

