-- ==== Sys2Proof/Machine/Sf.lean ====
section
/-! DEFINITION. The special functions (spec/05_float.md R152): each result correctly rounded, from fixed-point
enclosures at rising precision. -/

namespace Sys2Proof.Machine.Sf

/-- The sum of the series whose next term is `step k t`, from term t of index k; stops at a zero term. -/
def series (step : Nat → Nat → Nat) : Nat → Nat → Nat → Nat
  | 0, _, _ => 0
  | fuel + 1, k, t => if t = 0 then 0 else t + series step fuel (k + 1) (step k t)

/-- A lower bound of e^y at N fraction bits, for y at N bits below 1; short by less than `slack N`. -/
def expLow (N y : Nat) : Nat := series (fun k t => t * y / 2 ^ N / (k + 1)) (N + 8) 0 (2 ^ N)

/-- What a series of at most N + 8 terms, each cut by less than 3 units, can be short by. -/
def slack (N : Nat) : Nat := 4 * N + 64

/-- A lower bound of 2 artanh z at N bits, z at N bits and at most 1/2. -/
def atanhLow (N z : Nat) : Nat :=
  let zz := z * z / 2 ^ N
  let rec go : Nat → Nat → Nat → Nat
    | 0, _, _ => 0
    | fuel + 1, k, p => if p = 0 then 0 else p / (2 * k + 1) + go fuel (k + 1) (p * zz / 2 ^ N)
  2 * go (N + 8) 0 z

/-- ln 2 at N bits: [ln2 N, ln2 N + slack]. -/
def ln2 (N : Nat) : Nat := atanhLow N (2 ^ N / 3)

/-- arctan of 1/q at N bits, short or long by less than `slack N`. -/
def atanInv (N q : Nat) : Int :=
  let rec go : Nat → Nat → Nat → Int
    | 0, _, _ => 0
    | fuel + 1, k, p => if p = 0 then 0 else
        (if k % 2 = 0 then ((p / (2 * k + 1) : Nat) : Int) else -((p / (2 * k + 1) : Nat) : Int)) + go fuel (k + 1) (p / (q * q))
  go (N + 8) 0 (2 ^ N / q)

/-- π at N bits, within 20 slack. -/
def pi (N : Nat) : Nat := (16 * atanInv N 5 - 4 * atanInv N 239).toNat

/-- An enclosure of e^u at N fraction bits, for u at N bits. -/
def expBox (N u : Nat) : Nat × Nat :=
  let lo := ln2 N
  let hi := lo + slack N
  let n := u / hi
  let r0 := u - n * hi
  let r1 := u - n * lo + 1
  (expLow N r0 * 2 ^ n, (expLow N r1 + slack N) * 2 ^ n)

/-- An enclosure of sin and cos of y, y in [y0, y1] at N bits, below 1: Taylor series with alternating signs. -/
def trigLow (N y : Nat) (first : Nat) : Int :=
  let rec go : Nat → Nat → Nat → Bool → Int
    | 0, _, _, _ => 0
    | fuel + 1, k, t, neg => if t = 0 then 0 else
        (if neg then -(t : Int) else t) + go fuel (k + 2) (t * y / 2 ^ N / (k + 1) * y / 2 ^ N / (k + 2)) (!neg)
  go (N + 8) first (if first = 0 then 2 ^ N else y) false

/-- A box rounded: some pattern when both ends round to it. -/
def agree (ftz s : Bool) (lo hi : Nat) (e : Int) : Option Nat :=
  let a := roundFin .f32 0 ftz s lo e
  if a = roundFin .f32 0 ftz s hi e then some a else none

/-- The first precision at which the box decides. -/
def ladder (f : Nat → Option Nat) : Option Nat := firstSome f [64, 128, 256, 512]

/-- m 2^e at N bits, cut. -/
def fixed (m : Nat) (e : Int) (N : Nat) : Nat :=
  if 0 ≤ e + N then m * 2 ^ (e + N).toNat else m / 2 ^ (-(e + N)).toNat

/-- 2^x for x = ±m 2^e within [-160, 129]. -/
def ex2 (ftz s : Bool) (m : Nat) (e : Int) : Option Nat :=
  -- an integral x has an exact result, which can be a tie
  if m % 2 ^ (-e).toNat = 0 then some (roundFin .f32 0 ftz false 1 (signed s (m * 2 ^ e.toNat / 2 ^ (-e).toNat)))
  else ladder fun N =>
    let u := fixed m e N
    -- |x| lies in [u, u + 1]; x = n + f with f in [0, 1)
    let x0 : Int := if s then -((u : Int) + 1) else u
    let x1 : Int := x0 + 1
    let n := x0 / (2 ^ N : Nat)
    let f0 := (x0 - n * (2 ^ N : Nat)).toNat
    let f1 := (x1 - n * (2 ^ N : Nat)).toNat
    let a := expLow N (f0 * ln2 N / 2 ^ N)
    let b := expLow N (f1 * (ln2 N + slack N) / 2 ^ N + 1) + slack N
    agree ftz false a b (n - (N : Int))

/-- log₂ of m 2^e, m > 0, not a power of two. -/
def lg2 (ftz : Bool) (m : Nat) (e : Int) : Option Nat :=
  let k := e + (Nat.log2 m : Int)
  ladder fun N =>
    let y := fixed m (e - k) N                     -- exact for N ≥ 24: in [1, 2)
    let z := (y - 2 ^ N) * 2 ^ N / (y + 2 ^ N)
    let l0 := atanhLow N z * 2 ^ N / (ln2 N + slack N)
    let l1 := (atanhLow N (z + 1) + slack N) * 2 ^ N / ln2 N + 1
    let a : Int := k * (2 ^ N : Nat) + l0
    let b : Int := k * (2 ^ N : Nat) + l1
    if 0 < a then agree ftz false a.toNat b.toNat (-(N : Int))
    else if b < 0 then agree ftz true (-b).toNat (-a).toNat (-(N : Int))
    else none

/-- sin(π t) for t = p 2^-N exact, 0 < t ≤ 1/4, or cos(π t) for 0 ≤ t < 1/4. -/
def trigPi (N p : Nat) (isCos : Bool) : Nat × Nat :=
  let P := pi N
  let y0 := p * (P - 20 * slack N) / 2 ^ N
  let y1 := p * (P + 20 * slack N) / 2 ^ N + 1
  if isCos then ((trigLow N y1 0 - slack N).toNat, (trigLow N y0 0 + slack N).toNat)
  else ((trigLow N y0 1 - slack N).toNat, (trigLow N y1 1 + slack N).toNat)

/-- ±sin(π t), t = p 2^-K in [0, 1): the sign and the exact or rounded magnitude. -/
def sinFold (ftz s : Bool) (p K : Nat) : Option Nat :=
  -- t in (0, 1): fold to (0, 1/2]
  let h := if 2 * p ≤ 2 ^ K then p else 2 ^ K - p
  if 2 * h = 2 ^ K then some (roundFin .f32 0 ftz s 1 0)
  else ladder fun N =>
    if N < K then none
    else
      let q := h * 2 ^ (N - K)
      let box := if 4 * q ≤ 2 ^ N then trigPi N q false else trigPi N (2 ^ N / 2 - q) true
      agree ftz s box.1 box.2 (-(N : Int))

/-- The fraction bits of m 2^e, at least 2. -/
def fracBits (e : Int) : Nat := if e < -2 then (-e).toNat else 2

/-- sin(πx) and cos(πx) of a finite x = (-1)^s m 2^e. -/
def sinpi (ftz s : Bool) (m : Nat) (e : Int) : Option Nat :=
  let K := fracBits e
  let w : Nat := m * 2 ^ (e + (K : Int)).toNat                     -- |x| = w 2^-K
  let r := w % 2 ^ (K + 1)
  if r % 2 ^ K = 0 then some (Fmt.f32.zero s)
  else sinFold ftz (s != decide (2 ^ K ≤ r)) (r % 2 ^ K) K

def cospi (ftz : Bool) (m : Nat) (e : Int) : Option Nat :=
  let K := fracBits e
  let w : Nat := m * 2 ^ (e + (K : Int)).toNat + 2 ^ K / 2         -- cos(πx) = sin(π(|x| + 1/2))
  let r := w % 2 ^ (K + 1)
  if r % 2 ^ K = 0 then some (Fmt.f32.zero false)
  else sinFold ftz (decide (2 ^ K ≤ r)) (r % 2 ^ K) K

/-- tanh of |x| = m 2^e < 16. -/
def tanh (ftz s : Bool) (m : Nat) (e : Int) : Option Nat :=
  ladder fun N =>
    let u := fixed m (e + 1) N
    let lo := (expBox N u).1
    let hi := (expBox N (u + 1)).2
    let one : Nat := 2 ^ N
    agree ftz s ((lo - one) * one / (lo + one)) ((hi - one) * one / (hi + one) + 1) (-(N : Int))

/-- 1 / (1 + e^-x). -/
def sigm (ftz s : Bool) (m : Nat) (e : Int) : Option Nat :=
  ladder fun N =>
    let u := fixed m e N
    let lo := (expBox N u).1
    let hi := (expBox N (u + 1)).2
    let one : Nat := 2 ^ N
    if s then agree ftz false (one * one / (hi + one)) (one * one / (lo + one) + 1) (-(N : Int))
    else agree ftz false (lo * one / (lo + one)) (hi * one / (hi + one) + 1) (-(N : Int))

/-- 1 / √x of m 2^e. -/
def rsq (ftz : Bool) (m : Nat) (e : Int) : Nat :=
  let odd : Nat := if e % 2 = 0 then 0 else 1
  let w := m * 2 ^ odd                                -- x = w 2^(e - odd)
  let j := bitLen w + 30
  let q := isqrt (2 ^ (2 * j) / w)
  let st := if q * q * w = 2 ^ (2 * j) then 0 else 1
  roundFin .f32 0 ftz false (2 * q + st) (-((e - (odd : Int)) / 2) - (j : Int) - 1)

/-- |x| = m 2^e is at least k. -/
def atLeast (m : Nat) (e : Int) (k : Nat) : Bool := 0 < (addExact false m e true k 0).1 || (addExact false m e true k 0).1 == 0

/-- The function fn at a binary32 pattern (R152 Tables 5 and 6). -/
def eval (fn : Nat) (ftz : Bool) (x : Nat) : Nat :=
  let one := roundFin .f32 0 ftz false 1 0
  let back (o : Option Nat) : Nat :=
    match o with | some r => r | none => (Config.freeSf fn (BitVec.ofNat 32 x)).toNat
  match unpack .f32 ftz x with
  | .nan s fr fb => carryNan .f32 s fr fb
  | .inf s =>
    match fn with
    | 0 => Fmt.f32.zero s
    | 1 | 3 => if s then Fmt.f32.nan else if fn = 1 then 0 else Fmt.f32.inf false
    | 2 => if s then 0 else Fmt.f32.inf false
    | 4 | 5 => Fmt.f32.nan
    | 6 => if s then fneg .f32 one else one
    | _ => if s then 0 else one
  | .fin s m e =>
    if m = 0 then
      match fn with
      | 0 | 1 => Fmt.f32.inf s
      | 2 => one
      | 3 => Fmt.f32.inf true
      | 4 | 6 => Fmt.f32.zero s
      | 5 => one
      | _ => roundFin .f32 0 ftz false 1 (-1)
    else
      match fn with
      | 0 => fdiv .f32 0 ftz one x
      | 1 => if s then Fmt.f32.nan else rsq ftz m e
      | 2 =>
        if atLeast m e 160 then (if s then roundFin .f32 0 ftz false 1 (-170) else Fmt.f32.inf false)
        else back (ex2 ftz s m e)
      | 3 =>
        if s then Fmt.f32.nan
        else if m = 2 ^ Nat.log2 m then roundInt .f32 0 ftz false (e + (Nat.log2 m : Int)) 0
        else back (lg2 ftz m e)
      | 4 => back (sinpi ftz s m e)
      | 5 => back (cospi ftz m e)
      | 6 => if atLeast m e 16 then (if s then fneg .f32 one else one) else back (tanh ftz s m e)
      | _ =>
        if s && atLeast m e 110 then 0
        else if !s && atLeast m e 20 then one
        else back (sigm ftz s m e)

end Sys2Proof.Machine.Sf
end

