-- ==== Sys2Proof/Machine/Float.lean ====
section
/-! DEFINITION. Floating-point, conversion and special-function instructions (spec/05_float.md R130 to R152). -/

namespace Sys2Proof.Machine

/-- The rounding mode in force: 0 rn, 1 rz, 2 rp, 3 rm (R42). -/
def rndOf (p : OPfx) : Nat := match p with | none => 0 | some q => q.rnd.toNat

/-- The format in force; a 16-bit result has bits [31:16] zero (R130). -/
def fmtOf (p : OPfx) : Fmt := Fmt.ofType (effType p 12)

/-- A source's own bits. -/
def Ctx.fval (c : Ctx) (f : Fmt) (k l : Nat) : Nat := c.val k l % 2 ^ f.width

/-- Two packed halves (R140). -/
def halves (f : Nat → Nat → Nat → Nat) (a b c : Nat) : Nat :=
  f (a % 2 ^ 16) (b % 2 ^ 16) (c % 2 ^ 16) + f (a / 2 ^ 16 % 2 ^ 16) (b / 2 ^ 16 % 2 ^ 16) (c / 2 ^ 16 % 2 ^ 16) * 2 ^ 16

/-- The packed format: binary16, or bfloat16 under .bf16 (R140). -/
def packedFmt (p : OPfx) : Fmt := Fmt.ofType (effType p 10)

def execFadd (p : OPfx) (d a b : Reg) (s : State) : Out :=
  let f := fmtOf p
  resultInstr (.fadd p d a b) s d (pairN (effType p 12)) fun c l => fadd f (rndOf p) c.ftz (c.fval f 0 l) (c.fval f 1 l)

def execFsub (p : OPfx) (d a b : Reg) (s : State) : Out :=
  let f := fmtOf p
  resultInstr (.fsub p d a b) s d (pairN (effType p 12)) fun c l => fsub f (rndOf p) c.ftz (c.fval f 0 l) (c.fval f 1 l)

def execFmul (p : OPfx) (d a b : Reg) (s : State) : Out :=
  let f := fmtOf p
  resultInstr (.fmul p d a b) s d (pairN (effType p 12)) fun c l => fmul f (rndOf p) c.ftz (c.fval f 0 l) (c.fval f 1 l)

def execFfma (p : OPfx) (d a b : Reg) (s : State) : Out :=
  let f := fmtOf p
  resultInstr (.ffma p d a b) s d (pairN (effType p 12)) fun c l => ffma f (rndOf p) c.ftz (c.fval f 0 l) (c.fval f 1 l) (c.fval f 2 l)

def execFmin (p : OPfx) (d a b : Reg) (s : State) : Out :=
  let f := fmtOf p
  resultInstr (.fmin p d a b) s d (pairN (effType p 12)) fun c l => fminmax f c.ftz false (c.fval f 0 l) (c.fval f 1 l)

def execFmax (p : OPfx) (d a b : Reg) (s : State) : Out :=
  let f := fmtOf p
  resultInstr (.fmax p d a b) s d (pairN (effType p 12)) fun c l => fminmax f c.ftz true (c.fval f 0 l) (c.fval f 1 l)

def execFdiv (p : OPfx) (d a b : Reg) (s : State) : Out :=
  let f := fmtOf p
  resultInstr (.fdiv p d a b) s d (pairN (effType p 12)) fun c l => fdiv f (rndOf p) c.ftz (c.fval f 0 l) (c.fval f 1 l)

def execFscl (p : OPfx) (d a b : Reg) (s : State) : Out :=
  let f := fmtOf p
  resultInstr (.fscl p d a b) s d (pairN (effType p 12)) fun c l => fscl f (rndOf p) c.ftz (c.fval f 0 l) (sext (c.val 1 l) 32)

def execFabs (p : OPfx) (d a : Reg) (s : State) : Out :=
  let f := fmtOf p
  resultInstr (.fabs p d a) s d (pairN (effType p 12)) fun c l => fabs f (c.fval f 0 l)

def execFneg (p : OPfx) (d a : Reg) (s : State) : Out :=
  let f := fmtOf p
  resultInstr (.fneg p d a) s d (pairN (effType p 12)) fun c l => fneg f (c.fval f 0 l)

def execFrnd (p : OPfx) (d a : Reg) (s : State) : Out :=
  let f := fmtOf p
  resultInstr (.frnd p d a) s d (pairN (effType p 12)) fun c l => frnd f (rndOf p) c.ftz (c.fval f 0 l)

def execFsqrt (p : OPfx) (d a : Reg) (s : State) : Out :=
  let f := fmtOf p
  resultInstr (.fsqrt p d a) s d (pairN (effType p 12)) fun c l => fsqrt f (rndOf p) c.ftz (c.fval f 0 l)

def execFclass (p : OPfx) (d a : Reg) (s : State) : Out :=
  let f := fmtOf p
  resultInstr (.fclass p d a) s d (1) fun c l => fclass f (c.fval f 0 l)

def execFcmp (p : OPfx) (cc k : BitVec 4) (a b : Reg) (s : State) : Out :=
  let f := fmtOf p
  issueInstr (.fcmp p cc k a b) s fun c u =>
    .ok (u.writeMaskLanes c.gid k.toNat c.act fun l => fcond f c.ftz cc.toNat (c.fval f 0 l) (c.fval f 1 l))

/-- FCVT (R143): TYPE names the destination, the B field the source. -/
def execFcvt (p : OPfx) (d a : Reg) (st : BitVec 8) (s : State) : Out :=
  let f := Fmt.ofType st.toNat
  resultInstr (.fcvt p d a st) s d (pairN (effType p 12)) fun c l => fcvt (fmtOf p) f (rndOf p) c.ftz (c.fval f 0 l)

/-- FCVTI (R144). -/
def execFcvti (p : OPfx) (d a : Reg) (st : BitVec 8) (s : State) : Out :=
  let t := effType p 3
  let f := Fmt.ofType st.toNat
  resultInstr (.fcvti p d a st) s d (pairN t) fun c l =>
    putT t (fcvti f (rndOf p) c.ftz (typeBits t) (isSigned t) (c.fval f 0 l))

/-- ICVTF (R145). -/
def execIcvtf (p : OPfx) (d a : Reg) (st : BitVec 8) (s : State) : Out :=
  resultInstr (.icvtf p d a st) s d (pairN (effType p 12)) fun c l =>
    icvtf (fmtOf p) (rndOf p) c.ftz (extT st.toNat (c.val 0 l))

def execFadd2 (p : OPfx) (d a b : Reg) (s : State) : Out :=
  let f := packedFmt p
  resultInstr (.fadd2 p d a b) s d 1 fun c l =>
    halves (fun x y _ => fadd f (rndOf p) c.ftz x y) (c.val 0 l) (c.val 1 l) 0

def execFmul2 (p : OPfx) (d a b : Reg) (s : State) : Out :=
  let f := packedFmt p
  resultInstr (.fmul2 p d a b) s d 1 fun c l =>
    halves (fun x y _ => fmul f (rndOf p) c.ftz x y) (c.val 0 l) (c.val 1 l) 0

def execFfma2 (p : OPfx) (d a b : Reg) (s : State) : Out :=
  let f := packedFmt p
  resultInstr (.ffma2 p d a b) s d 1 fun c l => halves (ffma f (rndOf p) c.ftz) (c.val 0 l) (c.val 1 l) (c.val 2 l)

/-- SFQ (R147): the operands are captured in a request. -/
def execSfq (p : OPfx) (d a : Reg) (tok fn : BitVec 4) (s : State) : Out :=
  issueInstr (.sfq p d a tok fn) s fun c t =>
    let r : SfReq := { tok := tok.toNat, fn := fn.toNat, d := d.toNat, lanes := c.act, vals := (lanes c.act).map fun l => (l, c.val 0 l)
                       born := c.pre.clk }
    .ok ((c.zeroRest t d.toNat 1).modGang c.gid fun g => { g with sf := g.sf ++ [r] })

/-- SFWAIT (R150): it waited at issue. -/
def execSfwait (p : OPfx) (m : BitVec 16) (s : State) : Out := issueInstr (.sfwait p m) s fun _ t => .ok t

/-- The latency of a function (R152 Table 5). -/
def sfLatency (fn : Nat) : Nat := if fn ≤ 1 then 12 else if fn ≤ 3 then 16 else if fn ≤ 5 then 24 else 28

/-- The unit takes the requests of a queue in order of acceptance: none completes before an earlier one whose latency is not
longer (R148). -/
def State.sfFirst (s : State) (gid : Nat) (r : SfReq) : Bool :=
  (s.sfQueue gid).all fun x => decide (r.born ≤ x.born) || decide (sfLatency r.fn < sfLatency x.fn)

/-- The target gang's request on a token completes (R147): live lanes are written, the token clears. -/
def execSfqComplete (s : State) : Out :=
  let g := s.choice.target
  match (s.gang g).sf.find? (·.tok == s.choice.unit) with
  | none => .next s
  | some r =>
    if !s.sfFirst g r then .next s
    else
      let t := s.modGang g fun x => { x with sf := x.sf.filter (·.tok != r.tok) }
      let t := (r.vals.filter fun v => hasLane (s.gang g).live v.1).foldl (init := t) fun t v =>
        t.writeVs g r.d 1 v.1 (Sf.eval r.fn (s.ftz g) v.2)
      .next (t.enterTrap g)

end Sys2Proof.Machine
end

