-- ==== Sys2Proof/Machine/Intervals.lean ====
section
/-! DEFINITION. Interval instructions, ECMP, ESGN and the refinement engine (spec/10_intervals.md R259 to R282,
spec/11_decisions.md R286 to R303). -/

namespace Sys2Proof.Machine

/-! ### Bounds -/

/-- −0 is written as +0 (R260). -/
def posZero (x : Nat) : Nat := if x = 2 ^ 31 then 0 else x

/-- rd (mode 3) and ru (mode 2) of an exact bound (R276). -/
def Ep.f32 (mode : Nat) : Ep → Nat
  | .inf s => Fmt.f32.inf s
  | .fin m e => posZero (roundInt .f32 mode false false m e)

/-- Bounds as written, and whether the domain was left (R276). -/
structure IvRes where
  lo : Nat
  hi : Nat
  dom : Bool := false
  deriving DecidableEq, Repr

def IvRes.whole (dom : Bool) : IvRes := ⟨Fmt.f32.inf true, Fmt.f32.inf false, dom⟩

/-- rd and ru of exact bounds; where one has no form, the whole line. -/
def ivBounds (lo hi : Option Ep) : IvRes :=
  match lo, hi with
  | some l, some h => ⟨l.f32 3, h.f32 2, false⟩
  | _, _ => .whole false

/-- The lower, or the upper, of rounded bounds. -/
def lower (a b : Nat) : Nat := if (f32Ep a).le (f32Ep b) then a else b
def upper (a b : Nat) : Nat := if (f32Ep a).le (f32Ep b) then b else a

/-- The bounds of an operator's result (R276); the operator's code is its node's (R265). -/
def ivOp (op : Nat) (a b c : IvSrc) : IvRes :=
  match op with
  | 1 => ivBounds (a.l.add b.l) (a.h.add b.h)
  | 2 => ivBounds (a.l.add b.h.neg) (a.h.add b.l.neg)
  | 3 => let p := Iv.products (a.l, a.h) (b.l, b.h); ivBounds (some p.1) (some p.2)
  | 4 =>
    if Iv.hasZero (b.l, b.h) then .whole true
    else
      let q (mode x y : Nat) : Nat := fdiv .f32 mode false x y
      let all (mode : Nat) : List Nat := [q mode a.lo b.lo, q mode a.lo b.hi, q mode a.hi b.lo, q mode a.hi b.hi]
      if (all 3).any fun x => (unpack .f32 false x).isNan then .whole false
      else ⟨posZero ((all 3).tail.foldl lower ((all 3).headD 0)), posZero ((all 2).tail.foldl upper ((all 2).headD 0)), false⟩
  | 5 =>
    if a.h.sign < 0 then .whole true
    else if a.l.sign < 0 then ⟨0, posZero (fsqrt .f32 2 false a.hi), true⟩
    else ⟨posZero (fsqrt .f32 3 false a.lo), posZero (fsqrt .f32 2 false a.hi), false⟩
  | 6 => ivBounds (some a.h.neg) (some a.l.neg)
  | 7 =>
    let x := a.l.mul a.l; let y := a.h.mul a.h
    ivBounds (some (if Iv.hasZero (a.l, a.h) then .fin 0 0 else Ep.min x y)) (some (Ep.max x y))
  | _ => let p := Iv.products (a.l, a.h) (b.l, b.h); ivBounds (p.1.add c.l) (p.2.add c.h)

def infBound (x : Nat) : Bool := bits x 30 23 == 255

/-- The flag word (R259). -/
def ivWord (ex opq sqr dom : Bool) (lo hi : Nat) : Nat :=
  let b (x : Bool) (k : Nat) := if x then 2 ^ k else 0
  1 + b ex 1 + b opq 2 + b sqr 3 + b dom 4 + b (infBound lo || infBound hi) 5

/-- An operand's flag; a bare one has OPQ alone (R261). -/
def IvSrc.flag (x : IvSrc) (k : Nat) : Bool := if x.hv then tbit x.word k else k == 2

/-! ### Nodes -/

/-- The e register receives an interval with a reference; its old reference is released first (R60, R276). -/
def State.putE (s : State) (gid e l lo hi handle word : Nat) : State :=
  (s.releaseE gid e l).modGang gid fun g =>
    let g := (((g.setV (4 * e) l lo).setV (4 * e + 1) l hi).setV (4 * e + 2) l handle).setV (4 * e + 3) l word
    { g with hv := put g.hv (32 * e + l) (tbit word 0) false }

/-- The handle of a live node (R263). -/
def State.handleOf (s : State) (crew i : Nat) : Nat := look (s.crew crew).caddy.gens i 0 * 2 ^ 22 + i

/-- The node of an operand, an opaque leaf for a bare one (R261). -/
def State.operandNode (s : State) (crew : Nat) (x : IvSrc) : State × Nat × Option VaFault :=
  if x.hv then (s, x.ix, none) else s.alloc crew { opc := 0x13, rc := 0, val := x.lo + x.hi * 2 ^ 32 }

def orFault (a b : Option VaFault) : Option VaFault := match a with | some _ => a | none => b

/-- An operator's node and those of its bare operands, whose one reference is their parent's (R266, R269). -/
def State.opNode (s : State) (crew op : Nat) (xs : List IvSrc) : State × Nat × Option VaFault :=
  let r := xs.foldl (init := (s, ([] : List Nat), (none : Option VaFault))) fun acc x =>
    let n := acc.1.operandNode crew x
    (n.1, acc.2.1 ++ [n.2.1], orFault acc.2.2 n.2.2)
  let k := r.2.1
  let n := r.1.alloc crew { opc := op, rc := 0, a := k.getD 0 0, b := k.getD 1 0, c := k.getD 2 0 }
  let t := (xs.zip k).foldl (fun t p => if p.1.hv then t else t.release crew p.2) n.1
  (t, n.2.1, orFault r.2.2 n.2.2)

/-- The lanes of an interval instruction act in ascending order, once every lane passes its checks (R266, R275, R279):
`bad` gives a lane's own trap, `need` the nodes it needs, `act` its effect with the fault of its spill writes. A replayable fault of a
read of the caddy unit delays it: `delay`, of its own reads, or that of a reclamation it waits for (R268). -/
def Ctx.ivLanes (c : Ctx) (t : State) (bad : Nat → Option Nat) (need : State → Nat → Nat) (act : State → Nat → State × Option VaFault)
    (delay : Option VaFault := none) : Effect :=
  let ls := lanes c.act
  -- An instruction that may need nodes first lets the reclamations due run to completion (R271, R279).
  let some_ := (ls.map (need t)).sum != 0
  let t := if some_ then t.reclaimAll c.crewId else t
  match orFault delay (if some_ then t.reclaimDelay c.crewId else none) with
  | some f => .wait f.cause f.addr
  | none =>
  let r := ls.foldl (init := (t, (none : Option (Nat × VaFault)))) fun acc l =>
    match acc.2 with
    | some _ => acc
    | none => let x := act acc.1 l; (x.1, x.2.map fun f => (l, f))
  let free := t.freeNodes c.crewId
  let lane (x : Option Nat) : Nat := x.getD 32
  let badLane := lane (ls.find? fun l => (bad l).isSome)
  let spillLane := lane (r.2.map (·.1))
  let spentLane := lane (ls.find? fun l => decide (free < ((ls.filter (· ≤ l)).map (need t)).sum))
  if badLane < 32 ∧ badLane ≤ spillLane ∧ badLane ≤ spentLane then .trap ((bad badLane).getD 0) 0 badLane
  else if spillLane < 32 ∧ spillLane ≤ spentLane then
    match r.2 with
    | some f => if f.2.replay then .wait f.2.cause f.2.addr else .trap 0x2A f.2.addr spillLane
    | none => .ok r.1
  else if spentLane < 32 then .trap 0x2B 0 spentLane
  else .ok r.1

/-! ### Arithmetic -/

/-- EADD to EFMA (R276), by the operator's code. -/
def ivArith (i : Instr) (op arity : Nat) (d : Reg) (s : State) : Out :=
  issueInstr i s fun c t =>
    let xs (l : Nat) : List IvSrc := (List.range arity).map fun k => c.iv k l
    match c.ivLanes t
      (fun l => if (xs l).any IvSrc.bad then some 0x28 else none)
      (fun _ l => 1 + ((xs l).filter fun x => !x.hv).length)
      (fun t l =>
        let x := xs l
        let z : IvSrc := ⟨0, 0, 0, 0, false⟩
        let n := t.opNode c.crewId op x
        let r := ivOp op (x.getD 0 z) (x.getD 1 z) (x.getD 2 z)
        let any (k : Nat) : Bool := x.any fun y => y.flag k
        let ex := x.all (fun y => y.flag 1) && r.lo == r.hi
        (n.1.putE c.gid (d.toNat / 4) l r.lo r.hi (n.1.handleOf c.crewId n.2.1)
          (ivWord ex (any 2) (any 3 || op == 5) (any 4 || r.dom) r.lo r.hi), n.2.2)) with
    | .ok t => .ok (c.zeroRest t d.toNat 4)
    | e => e

def execEadd (p : OPfx) (d a b : Reg) (s : State) : Out := ivArith (.eadd p d a b) 1 2 d s
def execEsub (p : OPfx) (d a b : Reg) (s : State) : Out := ivArith (.esub p d a b) 2 2 d s
def execEmul (p : OPfx) (d a b : Reg) (s : State) : Out := ivArith (.emul p d a b) 3 2 d s
def execEdiv (p : OPfx) (d a b : Reg) (s : State) : Out := ivArith (.ediv p d a b) 4 2 d s
def execEsqrt (p : OPfx) (d a : Reg) (s : State) : Out := ivArith (.esqrt p d a) 5 1 d s
def execEneg (p : OPfx) (d a : Reg) (s : State) : Out := ivArith (.eneg p d a) 6 1 d s
def execEsq (p : OPfx) (d a : Reg) (s : State) : Out := ivArith (.esq p d a) 7 1 d s
def execEfma (p : OPfx) (d a b : Reg) (s : State) : Out := ivArith (.efma p d a b) 8 3 d s

/-! ### Leaves -/

/-- A leaf for a value (R277): its node's code and VAL, and the exact value. -/
def Ctx.leaf (c : Ctx) (t : State) (d : Reg) (bad : Nat → Option Nat) (opc : Nat) (val : Nat → Nat) (v : Nat → Ep) : Effect :=
  match c.ivLanes t bad (fun _ _ => 1) (fun t l =>
    let n := t.alloc c.crewId { opc := opc, rc := 0, val := val l }
    let lo := (v l).f32 3; let hi := (v l).f32 2
    (n.1.putE c.gid (d.toNat / 4) l lo hi (n.1.handleOf c.crewId n.2.1) (ivWord (lo == hi) false false false lo hi), n.2.2)) with
  | .ok t => .ok (c.zeroRest t d.toNat 4)
  | e => e

def execEleaf (p : OPfx) (d x : Reg) (s : State) : Out :=
  issueInstr (.eleaf p d x) s fun c t =>
    let f := Fmt.ofType (effType p 12)
    let v (l : Nat) : Fv := unpack f false (c.val 0 l % 2 ^ f.width)
    c.leaf t d (fun l => match v l with | .fin .. => none | _ => some 0x28) 0x10 (fun l => pack .f64 0 false (v l)) (fun l => fvEp (v l))

def execEleafi (p : OPfx) (d x : Reg) (s : State) : Out :=
  issueInstr (.eleafi p d x) s fun c t =>
    let ty := effType p 3
    let v (l : Nat) : Int := if ty = 4 then sext (c.val 0 l) 64 else if ty = 7 then ((c.val 0 l % 2 ^ 32 : Nat) : Int) else sext (c.val 0 l) 32
    c.leaf t d (fun _ => none) 0x11 (fun l => trunc (v l) 64) (fun l => .fin (v l) 0)

/-! ### Copy, adoption, reading back -/

/-- The handle names a live node of its generation (R263). -/
def State.current (s : State) (crew h : Nat) : Bool :=
  let i := h % 2 ^ 22
  let cr := s.crew crew
  i != 0 && decide (i < cr.nodeSpace) && (find cr.caddy.nodes i).isSome && look cr.caddy.gens i 0 == h / 2 ^ 22

/-- What EMOV `.adopt` finds at the node a bare operand's handle names (R268, R278): the fault of the read of a spilled one; a fatal one
leaves its content undefined. -/
def Ctx.adoptFault (c : Ctx) (t : State) (l : Nat) : Option VaFault :=
  let x := c.iv 0 l
  if x.hv || !wellFormedIv x.lo x.hi then none else t.spillMeets c.crewId x.ix

/-- The handle that EMOV `.adopt` takes names no live node of its generation; after a fatal spill read the answer is free (R268). -/
def Ctx.adoptStale (c : Ctx) (t : State) (l : Nat) : Bool :=
  match c.adoptFault t l with
  | none => !t.current c.crewId (c.iv 0 l).handle
  | some f => !f.replay && ((Config.freeWord (t.free + l)).getLsbD 0 || !t.current c.crewId (c.iv 0 l).handle)

/-- EMOV (R278). Its free values come first. -/
def execEmov (p : OPfx) (d a : Reg) (adopt : Bool) (s : State) : Out :=
  issueInstr (.emov p d a adopt) s fun c t =>
    let takes (x : IvSrc) : Bool := x.hv || adopt
    match c.ivLanes { t with free := if adopt then t.free + 32 else t.free }
      (fun l =>
        let x := c.iv 0 l
        if x.hv || !adopt then none
        else if !wellFormedIv x.lo x.hi then some 0x28 else if c.adoptStale t l then some 0x29 else none)
      (fun _ _ => 0)
      (fun t l =>
        let x := c.iv 0 l
        if d = a && (x.hv || !adopt) then (t, none)
        else
          let waits := if adopt then (c.adoptFault c.pre l).filter (·.replay) else none
          let t := if takes x then t.retain c.crewId x.ix else t
          let w := if takes x then bits x.word 5 1 * 2 + 1 else x.word / 2 * 2
          (t.putE c.gid (d.toNat / 4) l x.lo x.hi x.handle w, waits)) with
    | .ok t => .ok (c.zeroRest t d.toNat 4)
    | e => e

/-- EBND `.val` (R280). -/
def State.leafVal (s : State) (crew : Nat) (x : IvSrc) : Nat :=
  match x.hv, find (s.crew crew).caddy.nodes x.ix with
  | true, some n =>
    if n.opc = 0x10 ∨ n.opc = 0x12 then n.val
    else if n.opc = 0x11 then
      let y := roundInt .f64 1 false false (sext n.val 64) 0
      if roundInt .f64 2 false false (sext n.val 64) 0 = roundInt .f64 3 false false (sext n.val 64) 0 then y else Fmt.f64.nan
    else Fmt.f64.nan
  | _, _ => Fmt.f64.nan

/-- The fault of lane l's read of a spilled node by EBND `.val` (R268). -/
def Ctx.valFault (c : Ctx) (l : Nat) : Option VaFault := if (c.iv 0 l).hv then c.pre.spillMeets c.crewId (c.iv 0 l).ix else none

/-- EBND `.val` in lane l; after a fatal spill read the node's content is undefined (R268, R280). -/
def Ctx.valOf (c : Ctx) (l : Nat) : Nat :=
  match c.valFault l with
  | none => c.pre.leafVal c.crewId (c.iv 0 l)
  | some _ => (Config.freeWord (c.pre.free + l)).toNat

/-- EBND (R280). A replayable fault of the read of a spilled node only delays it (R268). A zero that rounding gives keeps the sign of
its bound, as one that stands in the register does: DESIGN CHOICE (notes/assumptions/52.md). -/
def execEbnd (p : OPfx) (d a : Reg) (v : BitVec 2) (s : State) : Out :=
  issueInstr (.ebnd p d a v) s fun c t =>
    if v = 2 then
      match firstSome (fun l => (c.valFault l).filter (·.replay)) (lanes c.act) with
      | some f => .wait f.cause f.addr
      | none => .ok { c.write t d.toNat 2 c.valOf with free := (c.write t d.toNat 2 c.valOf).free + 32 }
    else
      let ty := effType p 12
      .ok (c.write t d.toNat (pairN ty) fun l =>
        fcvt (Fmt.ofType ty) .f32 (if v = 0 then 3 else 2) false (if v = 0 then (c.iv 0 l).lo else (c.iv 0 l).hi))

def Ep.abs : Ep → Ep
  | .inf _ => .inf false
  | .fin m e => .fin m.natAbs e

/-- EWID's value in a lane (R281). -/
def ivWidth (x : IvSrc) (rel : Bool) : Nat :=
  let inf := Fmt.f32.inf false
  if x.bad then Fmt.f32.nan
  else if infBound x.lo || infBound x.hi || (!rel && tbit x.word 5) then inf
  else match x.h.add x.l.neg with
  | none => inf
  | some w =>
    if !rel then w.f32 2
    else match w, Ep.max x.l.abs x.h.abs with
    | .fin m e, .fin n k =>
      if n = 0 then 0
      else if m = 0 then 0
      else
        let sh := 64 + bitLen n.natAbs - bitLen m.natAbs
        let num := m.natAbs * 2 ^ sh
        let q := num / n.natAbs
        -- A sticky bit below the quotient keeps the one rounding exact.
        roundFin .f32 2 false false (2 * q + if num % n.natAbs = 0 then 0 else 1) (e - k - sh - 1)
    | _, _ => inf

/-- EWID; a bare operand appends no leaf (notes/assumptions/51.md). -/
def execEwid (p : OPfx) (d a : Reg) (rel : Bool) (s : State) : Out :=
  resultInstr (.ewid p d a rel) s d 1 fun c l => ivWidth (c.iv 0 l) rel

/-! ### Severing -/

/-- The leaf ESEVER leaves, and the bounds and flags of its register (R282). -/
def severed (x : IvSrc) (opaq : Bool) : Node × Nat × Nat × Nat :=
  if opaq then
    let lo := posZero x.lo; let hi := posZero x.hi
    ({ opc := 0x13, rc := 1, val := x.lo + x.hi * 2 ^ 32 }, lo, hi, ivWord false true false false lo hi)
  else
    let m : Nat := match x.l, x.h with
      | .fin m e, .fin n k =>
        (match (Ep.fin m e).add (.fin n k) with | some (.fin y z) => roundInt .f64 0 false false y (z - 1) | _ => 0)
      | .fin m e, _ => roundInt .f64 0 false false m e
      | _, .fin m e => roundInt .f64 0 false false m e
      | _, _ => 0
    let v := fvEp (unpack .f64 false m)
    let lo := v.f32 3; let hi := v.f32 2
    ({ opc := 0x12, rc := 1, val := m }, lo, hi, ivWord (lo == hi) false false false lo hi)

/-- The node may be replaced in place: ed = ea, and RC is 1 (R282). -/
def State.severInPlace (s : State) (crew : Nat) (x : IvSrc) (same : Bool) : Bool :=
  x.hv && same && (match find (s.crew crew).caddy.nodes x.ix with | some n => n.rc == 1 | none => false)

/-- The fault of the read ESEVER makes, under ed = ea, of lane l's node, whose RC and children lie in its entry where it is spilled (R268,
R282). -/
def Ctx.severFault (c : Ctx) (t : State) (same : Bool) (l : Nat) : Option VaFault :=
  if (c.iv 0 l).hv && same then t.entryFault c.crewId (c.iv 0 l).ix else none

/-- Lane l's node is replaced in place; after a fatal read the answer is free (R268, R282, notes/assumptions/4.md). -/
def Ctx.severs (c : Ctx) (t : State) (same : Bool) (l : Nat) : Bool :=
  match c.severFault t same l with
  | none => t.severInPlace c.crewId (c.iv 0 l) same
  | some _ => (Config.freeWord (c.pre.free + l)).getLsbD 0

/-- ESEVER of one lane (R282). -/
def State.sever (s : State) (c : Ctx) (d a : Reg) (l : Nat) (opaq : Bool) : State × Option VaFault :=
  let x := c.iv 0 l
  let r := severed x opaq
  let e := d.toNat / 4
  if c.severs s (d == a) l then
    let old := ((find (s.crew c.crewId).caddy.nodes x.ix).map Node.children).getD []
    let t := s.modCaddy c.crewId fun k => { k with gens := put k.gens x.ix ((look k.gens x.ix 0 + 1) % 1024) 0 }
    let t := t.modNode c.crewId x.ix fun _ => r.1
    let t := t.releaseChildren c.crewId x.ix old (c.severFault s (d == a) l).isSome
    (t.modGang c.gid fun g =>
      (((g.setV (4 * e) l r.2.1).setV (4 * e + 1) l r.2.2.1).setV (4 * e + 2) l (t.handleOf c.crewId x.ix)).setV (4 * e + 3) l r.2.2.2, none)
  else
    let n := s.alloc c.crewId { r.1 with rc := 0 }
    (n.1.putE c.gid e l r.2.1 r.2.2.1 (n.1.handleOf c.crewId n.2.1) r.2.2.2, n.2.2)

def execEsever (p : OPfx) (d a : Reg) (opaq : Bool) (s : State) : Out :=
  issueInstr (.esever p d a opaq) s fun c t =>
    match c.ivLanes { t with free := t.free + 32 } (fun l => if (c.iv 0 l).bad then some 0x28 else none)
      (fun t l => if c.severs t (d == a) l then 0 else 1)
      (fun t l => t.sever c d a l opaq) (firstSome (fun l => (c.severFault t (d == a) l).filter (·.replay)) (lanes c.act)) with
    | .ok t => .ok (c.zeroRest t d.toNat 4)
    | e => e

/-- RECLAMATION (R271) of the node `unit` of the target crew; the references of exited threads are released here (R269). A replayable
fault of the read of a spilled node delays it (R268, R448). -/
def execReclamation (s : State) : Out :=
  let c := s.choice.target
  let i := s.choice.unit
  let t := s.releaseGone c
  match (if (find (t.crew c).caddy.nodes i).any (·.rc == 0) then t.entryDelay c i else none) with
  | some f => .next (t.layerWait (t.crew c).layer f.cause f.addr)
  | none => .next (t.reclaim c i)

/-! ### ECMP and ESGN -/

/-- The request of an open lane (R290, R293): each node operand gains a reference. -/
def State.postReq (s : State) (c : Ctx) (l : Nat) (cmp : Option (Nat × Nat)) (d u : Nat) : State :=
  let xs := (List.range (if cmp.isSome then 2 else 1)).map fun k => (c.iv k l, (c.srcs.getD k (0, 0)).1 / 4)
  let r : RefReq :=
    { gang := c.gid, crew := c.crewId, lane := l, next := c.next, pfx := (c.pre.issue.map (·.pfx)).getD 0, cmp := cmp, d := d, u := u
      operands := xs.map fun x => if x.1.hv then .node x.1.ix else .bare x.1.lo x.1.hi, eregs := xs.map (·.2) }
  let s := { s with reqs := insert s.reqs s.next r, next := s.next + 1 }
  xs.foldl (fun t x => if x.1.hv then t.retain c.crewId x.1.ix else t) s

/-- ECMP and ESGN at issue (R290): `decide` writes the results of the lanes the bounds settle. -/
def signInstr (i : Instr) (cmp : Option (Nat × Nat)) (d u : Nat) (s : State) (settle : Ctx → State → BitVec 32 → (Nat → Int) → State) : Out :=
  issueInstr i s fun c t =>
    c.checked (fun l => if c.ivBad cmp.isSome l then some (0x28, 0) else none) <|
      let op := c.openLanes cmp.isSome
      let sg (l : Nat) : Int := (signByBounds (c.iv 0 l) (c.iv2 cmp.isSome l)).getD 0
      let t := t.modGang c.gid fun g => g.modLanes op fun th => { th with wait := .parked, pc := c.pc }
      let t := (lanes op).foldl (fun t l => t.postReq c l cmp d u) t
      .ok (settle c t (c.act &&& ~~~ op) sg)

def execEcmp (p : OPfx) (cc k : BitVec 4) (a : Reg) (u : BitVec 4) (s : State) : Out :=
  signInstr (.ecmp p cc k a u) (some (cc.toNat, k.toNat)) 0 u.toNat s fun c t ls sg =>
    if ls = 0 then t else t.writeMaskLanes c.gid k.toNat ls fun l => icond cc.toNat (sg l) 0

def execEsgn (p : OPfx) (d a : Reg) (u : BitVec 4) (s : State) : Out :=
  signInstr (.esgn p d a u) none d.toNat u.toNat s fun c t ls sg =>
    c.zeroRest ((lanes ls).foldl (fun t l => t.writeVs c.gid d.toNat 1 l (trunc (sg l) 32)) t) d.toNat 1

/-! ### The engine -/

/-- REFINEMENT_ADMIT of the target request (R294, R299): the first of its cluster's queue, into a free slot. -/
def execRefinementAdmit (s : State) : Out :=
  match find s.reqs s.choice.target with
  | none => .next s
  | some r =>
    let all := s.engineReqs r.crew
    let first := (all.find? fun p => !p.2.served && p.2.alone.isNone).map (·.1)
    if !r.captured && first == some s.choice.target && decide ((all.filter (·.2.served)).length < 16) && all.all (·.2.alone.isNone) then
      .next { s with reqs := alter s.reqs s.choice.target fun r => { r with served := true } }
    else .next s

/-- The end of a request (R291): the references are released, and what `f` gives the lane. -/
def State.endReq (s : State) (i : Nat) (r : RefReq) (f : State → State) : State :=
  let s := { s with reqs := erase s.reqs i }
  f (r.operands.foldl (fun t o => match o with | .node n => t.release r.crew n | .bare .. => t) s)

/-- The lane goes on after its result (R291). -/
def State.unpark (s : State) (r : RefReq) : State :=
  s.modGang r.gang fun g => g.modLanes (laneBit r.lane) fun t => { t with wait := .none, pc := r.next }

/-- A request's outcome delivered (R291). -/
def State.deliver (s : State) (i : Nat) (r : RefReq) (x : Settled) : State :=
  let undec := (s.launch (s.crew r.crew).launch).desc.undec
  let b := laneBit r.lane
  s.endReq i r fun t =>
    match x with
    | .decided sg =>
      let t := t.unpark r
      (match r.cmp with
       | some (cc, k) => t.writeMaskLanes r.gang k b fun _ => icond cc sg 0
       | none => t.writeVs r.gang r.d 1 r.lane (trunc sg 32))
    | .undecided sub =>
      if undec then
        let t := t.unpark r
        let t := match r.cmp with
          | some (_, k) => t.writeMaskLanes r.gang k b fun _ => false
          | none => t.writeVs r.gang r.d 1 r.lane 2
        t.writeMaskLanes r.gang r.u b fun _ => true
      else t.modGang r.gang fun g => { g with undecided := insert g.undecided r.lane (sub, r.next, r.pfx) }

/-- The first fault of a request's reads of spilled nodes (R268, R299); a replayable one holds until REPLAY (R448). -/
def State.spillRead (s : State) (r : RefReq) (g : Graph) : Option VaFault :=
  firstSome (s.entryFault r.crew) g.order

/-- REFINEMENT_END of the target request (R291, R295 to R299). One that needs more than its slot's store leaves the slot,
and is served alone once the slots in service have emptied. -/
def execRefinementEnd (s : State) : Out :=
  let i := s.choice.target
  match find s.reqs i with
  | none => .next s
  | some r =>
    let all := s.engineReqs r.crew
    let turn : Bool := match r.alone with
      | none => r.served
      | some k => all.all fun p => !p.2.served && (match p.2.alone with | some j => decide (k ≤ j) | none => true)
    if r.captured || !turn then .next s
    else
      let g := r.graph (s.crew r.crew)
      match s.spillRead r g with
      | some f =>
        if f.replay then .next (s.layerWait (s.crew r.crew).layer f.cause f.addr)
        else .next (s.endReq i r fun t => t.modGang r.gang fun g => { g with spillFault := insert g.spillFault r.lane (f.addr, r.next, r.pfx) })
      | none =>
        let out := g.outcome
        if slotStore < out.2 && r.alone.isNone then
          .next { s with reqs := alter s.reqs i fun r => { r with served := false, alone := some s.next }, next := s.next + 1 }
        else .next (s.deliver i r out.1)

end Sys2Proof.Machine
end

