-- ==== Sys2Proof/Machine/Points.lean ====
section
/-! DEFINITION. The point-cloud instructions and the neighbour engine (spec/14_points.md R354 to R369). -/

namespace Sys2Proof.Machine

/-! ### Issue -/

def pointInstr (i : Instr) (k : PtKind) (o : Ord) (w : TagWord) (s : State) : Out :=
  issueInstr i s fun c t =>
    match c.pointCheck t k w with
    | .error (cause, faddr) => .trap cause faddr c.lane0
    | .ok p =>
      let t := match p.tag with | some k => t.setTag c.crewId k .pending | none => t
      .ok (c.addUni t o (.point p))

def execNbrk (p : OPfx) (a : Reg) (o : Ord) (t : TagWord) (s : State) : Out := pointInstr (.nbrk p a o t) .nbrk o t s
def execNbrr (p : OPfx) (a : Reg) (o : Ord) (t : TagWord) (s : State) : Out := pointInstr (.nbrr p a o t) .nbrr o t s
def execSiteh (p : OPfx) (a : Reg) (o : Ord) (t : TagWord) (s : State) : Out := pointInstr (.siteh p a o t) .siteh o t s
def execRule (p : OPfx) (a : Reg) (o : Ord) (t : TagWord) (s : State) : Out := pointInstr (.rule p a o t) (.rule false) o t s
def execRuleSub (p : OPfx) (a : Reg) (o : Ord) (t : TagWord) (s : State) : Out := pointInstr (.ruleSub p a o t) (.rule true) o t s
def execPgat (p : OPfx) (a : Reg) (o : Ord) (f32 : Bool) (t : TagWord) (s : State) : Out := pointInstr (.pgat p a o f32 t) (.pgat f32) o t s
def execPsca (p : OPfx) (a : Reg) (o : Ord) (t : TagWord) (s : State) : Out := pointInstr (.psca p a o t) .psca o t s

/-! ### Accesses -/

/-- What stops a point command at a vector (R368). -/
structure PtStop where
  cause : Nat
  faddr : Nat
  dst : Bool
  replay : Bool
  deriving DecidableEq, Repr

def PtCmd.list (p : PtCmd) (n : Nat) : PtList := p.lists.getD n ⟨0, 0, 0, 0⟩
def PtCmd.param (p : PtCmd) (n : Nat) : Nat := p.params.getD n 0

/-- Element e of a list. -/
def PtList.elem (l : PtList) (e : Nat) : Nat := l.addr + l.stride * e

/-- What stands for a host's abort of a read, or of a write, at an address: the command's accesses find it in `failed` (R197). -/
def abortMark (dst : Bool) (addr : Nat) : Nat × Nat := (if dst then 0x117 else 0x17, addr)

/-- The places of an access, line by line; a read a rule sends past the partition is address-range, and a host that aborts the piece of an
access that holds an address is host-abort there. -/
def State.ptPlaces (s : State) (o : Op) (acc : Access) (sp addr n : Nat) : Except PtStop (List (Place × Nat)) :=
  let dst := acc != .read
  if sp = 1 then
    if s.partition o.crew < addr + n then .error ⟨0x10, addr, dst, false⟩ else .ok ((piecesOf addr n).map fun q => (.scratch o.crew q.1, q.2))
  else match s.placesOf o.layer acc addr n with
    | .error f => .error ⟨f.cause, f.addr, dst, f.replay⟩
    | .ok l =>
      match ((piecesOf addr n).zip l).find? fun q => q.2.1.isHost &&
          o.failed.any fun m => m == abortMark dst m.2 && decide (q.1.1 ≤ m.2) && decide (m.2 < q.1.1 + q.1.2) with
      | some q => .error ⟨0x17, q.1.1, dst, false⟩
      | none => .ok l

/-- Bytes an access reads; FADDR of poison is the first poisoned line (R451). -/
def State.ptRead (s : State) (o : Op) (sp addr n : Nat) : Except PtStop (List Byte) :=
  match s.ptPlaces o .read sp addr n with
  | .error e => .error e
  | .ok l =>
    match ((piecesOf addr n).zip l).find? fun q => s.poisoned q.2.1 q.2.2 with
    | some q => .error ⟨0x1C, q.1.1 / 64 * 64, false, false⟩
    | none => .ok (l.flatMap fun p => s.readAt p.1 p.2)

def State.ptWord (s : State) (o : Op) (sp addr : Nat) : Except PtStop Nat := (s.ptRead o sp addr 4).map ofBytes

def State.ptWrite (s : State) (o : Op) (sp addr : Nat) (b : List Byte) : Except PtStop State :=
  (s.ptPlaces o .write sp addr b.length).map fun l => (s.writePlaces l b).freshen o (l.map fun p => (s.key p.1, p.2))

/-! ### Neighbour queries -/

/-- The coordinates of a point; none where one is not finite (R360). -/
def pointOf (b : List Byte) : Option (List Ep) :=
  [0, 1, 2].foldr (init := some []) fun k acc =>
    match acc, unpack .f32 false (ofBytes ((b.drop (4 * k)).take 4)) with
    | some l, .fin s m e => some (.fin (signed s m) e :: l)
    | _, _ => none

/-- The exact squared distance. -/
def sqDist (a b : List Ep) : Ep :=
  (a.zip b).foldl (init := Ep.fin 0 0) fun acc p =>
    match p.1.add p.2.neg with
    | some d => (acc.add (d.mul d)).getD acc
    | none => acc

/-- Insertion by distance; equal distances keep their order. -/
def insertBy (x : Nat × Ep) : List (Nat × Ep) → List (Nat × Ep)
  | [] => [x]
  | y :: ys => if y.2.le x.2 then y :: insertBy x ys else x :: y :: ys

/-- The points within a radius of a query, in ascending index (R360). -/
def State.candidates (s : State) (o : Op) (p : PtCmd) (q : List Ep) (r : Ep) : Except PtStop (List (Nat × Ep)) :=
  (List.range (p.list 0).count).foldl (init := .ok []) fun acc e =>
    match acc with
    | .error x => .error x
    | .ok l =>
      match s.ptRead o (p.list 0).sp ((p.list 0).elem e) 12 with
      | .error x => .error x
      | .ok b =>
        match pointOf b with
        | none => .ok l
        | some c => let d := sqDist c q; .ok (if d.le r then l ++ [(e, d)] else l)

/-- A row: the indices, then the rounded distances, n of each (R360). -/
def rowBytes (n : Nat) (l : List (Nat × Ep)) : List Byte :=
  (List.range n).flatMap (fun r => toBytes (match l[r]? with | some x => x.1 | none => 0xFFFFFFFF) 4)
    ++ (List.range n).flatMap fun r => toBytes (match l[r]? with | some x => packOpt .f32 0 false (some x.2) | none => 0x7F800000) 4

/-- Query q of NBRK or NBRR (R360). -/
def State.query (s : State) (o : Op) (p : PtCmd) (q : Nat) : Except PtStop State :=
  match s.ptRead o (p.list 1).sp ((p.list 1).elem q) 12 with
  | .error x => .error x
  | .ok b =>
    let found : Except PtStop (List (Nat × Ep)) := match pointOf b with
      | none => .ok []
      | some c => s.candidates o p c (fvEp (unpack .f32 false (p.param 1)))
    match found with
    | .error x => .error x
    | .ok l =>
      let n := p.param 0
      let row := match p.kind with
        | .nbrk => rowBytes n ((l.foldl (fun a x => insertBy x a) []).take n)
        | _ => toBytes l.length 4 ++ rowBytes n (l.take n)
      s.ptWrite o (p.list 2).sp ((p.list 2).elem q) row

/-! ### Sites -/

/-- The key of a site (R361). -/
def siteKey (x y z : Int) : Nat := trunc x 16 + trunc y 16 * 2 ^ 16 + trunc z 16 * 2 ^ 32

def siteOf (b : List Byte) : Int × Int × Int :=
  let w (k : Nat) : Int := sext (ofBytes ((b.drop (2 * k)).take 2)) 16
  (w 0, w 1, w 2)

/-- The home entry of a key in a table of n entries (R361). -/
def homeEntry (key n : Nat) : Nat := if n ≤ 1 then 0 else key * 0x9E3779B97F4A7C15 % 2 ^ 64 / 2 ^ (64 - Nat.log2 n)

inductive Probe where
  | found (idx : Nat)
  | free (entry : Nat)
  | none_
  deriving DecidableEq, Repr

/-- A probe from entry e over at most `fuel` entries (R361). -/
def State.probe (s : State) (o : Op) (t : PtList) (key : Nat) : Nat → Nat → Except PtStop Probe
  | 0, _ => .ok .none_
  | fuel + 1, e =>
    match s.ptRead o t.sp (t.elem e) 16 with
    | .error x => .error x
    | .ok b =>
      let x := ofBytes b
      if bits x 55 48 = 0 then .ok (.free e)
      else if bits x 47 0 = key then .ok (.found (bits x 95 64))
      else s.probe o t key fuel ((e + 1) % t.count)

def State.lookSite (s : State) (o : Op) (t : PtList) (key : Nat) : Except PtStop Probe := s.probe o t key t.count (homeEntry key t.count)

def entryBytes (key idx : Nat) : List Byte := toBytes (key + 2 ^ 48 + idx * 2 ^ 64) 16

/-- Occupied entries of a table (R362). -/
def State.occupied (s : State) (o : Op) (t : PtList) : Except PtStop Nat :=
  (List.range t.count).foldl (init := .ok 0) fun acc e =>
    match acc with
    | .error x => .error x
    | .ok n => (s.ptRead o t.sp (t.elem e) 16).map fun b => if bits (ofBytes b) 55 48 = 0 then n else n + 1

def summaryBytes (a b : Nat) : List Byte := toBytes a 4 ++ toBytes b 4 ++ toBytes 0 8

/-! ### Vectors -/

/-- A command under way: the part, RULE's counts (R363), the rule count read at its beginning (R365), and what it has read early. -/
structure PtRun where
  s : State
  nout : Nat
  dropped : Nat
  count : Nat
  early : List (Nat × Nat)

/-- The neighbour of a site at offset j (R363). -/
def offsetSite (dil j : Nat) (p : Int × Int × Int) : Int × Int × Int :=
  let d (k : Nat) : Int := (dil : Int) * ((k % 3 : Nat) - 1)
  (p.1 + d j, p.2.1 + d (j / 3), p.2.2 + d (j / 9))

def inRange16 (p : Int × Int × Int) : Bool :=
  [p.1, p.2.1, p.2.2].all fun x => decide (-32768 ≤ x) && decide (x ≤ 32767)

def PtCmd.offsets (p : PtCmd) : List Nat := (List.range 27).filter (tbit (p.param 0) ·)

/-- A rule appended to section j (R363). -/
def State.appendRule (s : State) (o : Op) (p : PtCmd) (j a b : Nat) : Except PtStop State :=
  let l := p.list 4
  match s.ptWord o l.sp (l.elem j) with
  | .error x => .error x
  | .ok c =>
    match s.ptWrite o l.sp (l.elem j + 4 + 8 * c) (toBytes a 4 ++ toBytes b 4) with
    | .error x => .error x
    | .ok t => t.ptWrite o l.sp (l.elem j) (toBytes (c + 1) 4)

/-- One offset of one input of RULE (R363, R364). Where the probe meets neither a match nor a free entry, which R4 leaves open, the site is
skipped: DESIGN CHOICE (notes/assumptions/61.md). -/
def PtRun.rule (r : PtRun) (o : Op) (p : PtCmd) (sub : Bool) (i : Nat) (site : Int × Int × Int) (j : Nat) : Except PtStop PtRun :=
  let q := offsetSite (p.param 1) j site
  if !inRange16 q then .ok (if sub then r else { r with dropped := r.dropped + 1 })
  else
    let key := siteKey q.1 q.2.1 q.2.2
    if sub then
      match r.s.lookSite o (p.list 1) key with
      | .error x => .error x
      | .ok (.found idx) => (r.s.appendRule o p j i idx).map fun t => { r with s := t }
      | .ok _ => .ok r
    else
      match r.s.lookSite o (p.list 3) key with
      | .error x => .error x
      | .ok (.found idx) => (r.s.appendRule o p j i idx).map fun t => { r with s := t }
      | .ok (.free e) =>
        match r.s.ptWrite o (p.list 2).sp ((p.list 2).elem r.nout) (toBytes key 6) with
        | .error x => .error x
        | .ok t =>
          match t.ptWrite o (p.list 3).sp ((p.list 3).elem e) (entryBytes key r.nout) with
          | .error x => .error x
          | .ok t => (t.appendRule o p j i r.nout).map fun t => { r with s := t, nout := r.nout + 1 }
      | .ok .none_ => .ok r

def foldExcept {α β ε : Type} (f : β → α → Except ε β) : β → List α → Except ε β
  | b, [] => .ok b
  | b, a :: l => match f b a with | .error e => .error e | .ok c => foldExcept f c l

/-- The word of the rulebook that row r of PGAT or PSCA reads; under 32 the section's count (R365, R366). -/
def State.ruleWord (s : State) (o : Op) (p : PtCmd) (r : Nat) : Except PtStop Nat :=
  let l := p.list 4
  let b := l.elem (p.param 0)
  let w := match p.kind with | .psca => 1 | _ => 0
  s.ptWord o l.sp (if r = 32 then b else b + 4 + 8 * (p.param 1 + r) + 4 * w)

/-- That word as it was read early, or as it is now. -/
def State.earlyWord (s : State) (o : Op) (p : PtCmd) (early : List (Nat × Nat)) (r : Nat) : Except PtStop Nat :=
  match find early r with | some w => .ok w | none => s.ruleWord o p r

/-- The index row r names, where the section holds it: read now, or early. -/
def PtRun.ruleIndex (x : PtRun) (o : Op) (p : PtCmd) (r : Nat) : Except PtStop (Option Nat) :=
  if x.count - p.param 1 ≤ r then .ok none
  else (x.s.earlyWord o p x.early r).map fun i => if i < (p.list 0).count then some i else none

/-- After a vector: what had been read early is read again where the vector wrote it (R367). -/
def PtRun.wrote (x : PtRun) (o : Op) (p : PtCmd) (t : State) : PtRun :=
  { x with s := t, early := x.early.filter fun e => match x.s.ruleWord o p e.1, t.ruleWord o p e.1 with | .ok a, .ok b => a == b | _, _ => true }

/-- One add of PSCA (R366). -/
def State.ptAdd (s : State) (o : Op) (sp addr x : Nat) : Except PtStop State :=
  let places : Except PtStop (List (Place × Nat)) :=
    if sp = 1 then s.ptPlaces o .atomic sp addr 4
    else if 2 ^ 57 < addr + 4 then .error ⟨0x10, addr, true, false⟩
    else match s.atomicPlace o.layer (s.viaOf o.crew) addr with
      | .fault c rp => .error ⟨c, addr, true, rp⟩
      | .ok q => .ok [(q, 4)]
  match places with
  | .error e => .error e
  | .ok l =>
    if l.any fun p => match p.1 with | .host .. => true | .replica .. => true | _ => false then .error ⟨0x18, addr, true, false⟩
    else if l.any fun p => s.poisoned p.1 p.2 then .error ⟨0x1C, addr / 64 * 64, false, false⟩
    else .ok ((s.writePlaces l (toBytes (fadd .f32 0 (s.ftz o.gang) (ofBytes (l.flatMap fun p => s.readAt p.1 p.2)) x) 4)).freshen o
      (l.map fun p => (s.key p.1, p.2)))

/-- One vector of a command (R360 to R367). A SITEH whose probe meets neither a match nor a free entry, which R4 leaves open, skips the
site: DESIGN CHOICE (notes/assumptions/61.md). -/
def PtRun.vector (r : PtRun) (o : Op) (p : PtCmd) (v : Nat × Nat) : Except PtStop PtRun :=
  let up (e : Except PtStop State) : Except PtStop PtRun := e.map fun t => { r with s := t }
  let here (e : Except PtStop State) : Except PtStop PtRun := e.map fun t => r.wrote o p t
  match p.kind, v.1 with
  | .nbrk, _ => up (r.s.query o p v.2)
  | .nbrr, _ => up (r.s.query o p v.2)
  | .siteh, 0 => up (r.s.ptWrite o (p.list 1).sp ((p.list 1).elem v.2) (toBytes 0 16))
  | .siteh, 1 =>
    match r.s.ptRead o (p.list 0).sp ((p.list 0).elem v.2) 6 with
    | .error x => .error x
    | .ok b =>
      let q := siteOf b
      let key := siteKey q.1 q.2.1 q.2.2
      (match r.s.lookSite o (p.list 1) key with
       | .error x => .error x
       | .ok (.free e) => up (r.s.ptWrite o (p.list 1).sp ((p.list 1).elem e) (entryBytes key v.2))
       | .ok _ => .ok r)
  | .siteh, _ =>
    match r.s.occupied o (p.list 1) with
    | .error x => .error x
    | .ok n => up (r.s.ptWrite o (p.list 5).sp (p.list 5).addr (summaryBytes n ((p.list 0).count - n)))
  | .rule sub, 0 =>
    let clear : Except PtStop State := if !sub && decide (v.2 < (p.list 3).count) then r.s.ptWrite o (p.list 3).sp ((p.list 3).elem v.2) (toBytes 0 16) else .ok r.s
    match clear with
    | .error x => .error x
    | .ok t => up (if v.2 < 27 then t.ptWrite o (p.list 4).sp ((p.list 4).elem v.2) (toBytes 0 4) else .ok t)
  | .rule sub, 1 =>
    match r.s.ptRead o (p.list 0).sp ((p.list 0).elem v.2) 6 with
    | .error x => .error x
    | .ok b => foldExcept (fun r j => r.rule o p sub v.2 (siteOf b) j) r p.offsets
  | .rule sub, _ =>
    up (r.s.ptWrite o (p.list 5).sp (p.list 5).addr (if sub then summaryBytes (p.list 0).count 0 else summaryBytes r.nout r.dropped))
  | .pgat f32, _ =>
    let esz := if f32 then 4 else 2
    match r.ruleIndex o p v.2 with
    | .error x => .error x
    | .ok none => here (r.s.ptWrite o 1 ((p.list 2).addr + 32 * esz * v.2) (toBytes 0 (32 * esz)))
    | .ok (some i) =>
      (match r.s.ptRead o (p.list 0).sp ((p.list 0).elem i + esz * p.param 2) (32 * esz) with
       | .error x => .error x
       | .ok b => here (r.s.ptWrite o 1 ((p.list 2).addr + 32 * esz * v.2) b))
  | .psca, _ =>
    match r.ruleIndex o p v.2 with
    | .error x => .error x
    | .ok none => .ok r
    | .ok (some i) =>
      here (foldExcept (fun t c =>
        t.ptAdd o (p.list 0).sp ((p.list 0).elem i + 4 * (p.param 2 + c)) (ofBytes (t.readAt (.scratch o.crew ((p.list 2).addr + 128 * v.2 + 4 * c)) 4)))
        r.s (List.range 32))

/-- The extents of i0 in the phases of a command (R367 Table 7). -/
def PtCmd.extents (p : PtCmd) : List Nat :=
  match p.kind with
  | .nbrk => [(p.list 1).count]
  | .nbrr => [(p.list 1).count]
  | .siteh => [(p.list 1).count, (p.list 0).count, 1]
  | .rule sub => [if sub then 27 else Nat.max (p.list 3).count 27, (p.list 0).count, 1]
  | _ => [32]

/-- The vectors of a command from its start (R367). -/
def PtCmd.vectors (p : PtCmd) : List (Nat × Nat) :=
  (p.extents.mapIdx fun i n => ((List.range n).filter fun j => decide (p.i1 < i) || (i == p.i1 && decide (p.i0 ≤ j))).map fun j => (i, j)).flatten

/-- How a command begins. RULE's counts start at 0 with its second phase; where a restart begins later, they are the entries its
table holds and the sites dropped before (R363, R368). PGAT and PSCA read the section's count, once (R365). -/
def PtCmd.begin (p : PtCmd) (s : State) (o : Op) : Except PtStop PtRun :=
  match p.kept with
  | some (n, d, c) => .ok ⟨s, n, d, c, p.early⟩
  | none =>
    match p.kind with
    | .rule false =>
      if p.i1 = 0 ∨ (p.i1 = 1 ∧ p.i0 = 0) then .ok ⟨s, 0, 0, 0, []⟩
      else match s.occupied o (p.list 3) with
      | .error x => .error x
      | .ok n =>
        foldExcept (fun r i =>
          (r.s.ptRead o (p.list 0).sp ((p.list 0).elem i) 6).map fun b =>
            { r with dropped := r.dropped + (p.offsets.filter fun j => !inRange16 (offsetSite (p.param 1) j (siteOf b))).length })
          ⟨s, n, 0, 0, []⟩ (List.range (if p.i1 = 1 then p.i0 else (p.list 0).count))
    | .pgat _ => (s.earlyWord o p p.early 32).map fun c => ⟨s, 0, 0, c, p.early⟩
    | .psca => (s.earlyWord o p p.early 32).map fun c => ⟨s, 0, 0, c, p.early⟩
    | _ => .ok ⟨s, 0, 0, 0, []⟩

/-- The vectors performed in order up to the first that stops, or to `limit`. -/
def PtRun.run (o : Op) (p : PtCmd) (limit : Option (Nat × Nat)) : PtRun → List (Nat × Nat) → PtRun × Option ((Nat × Nat) × Option PtStop)
  | r, [] => (r, none)
  | r, v :: vs =>
    if limit == some v then (r, some (v, none))
    else match r.vector o p v with
      | .error e => (r, some (v, some e))
      | .ok r' => PtRun.run o p limit r' vs

def State.runPoint (s : State) (o : Op) (p : PtCmd) (limit : Option (Nat × Nat)) : PtRun × Option ((Nat × Nat) × Option PtStop) :=
  match p.begin s o with
  | .error e => (⟨s, 0, 0, 0, []⟩, some ((p.i1, p.i0), some e))
  | .ok r => r.run o p limit p.vectors

/-- The engine runs the command: its edges are satisfied, and it is among the four earliest (R358). -/
def State.pointRuns (s : State) (i : Nat) (o : Op) : Bool :=
  !o.captured && !o.waiting && o.failed.isNone && s.edgesMet o && (((s.clusterPoints o.crew).take 4).any fun p => p.1 == i)

/-- PGAT or PSCA reads words of its rulebook before their vectors: each word is the old one or the new (R370). -/
def State.readEarly (s : State) (i : Nat) (o : Op) (p : PtCmd) : State :=
  match p.kind with
  | .pgat _ => go
  | .psca => go
  | _ => s
where
  go : State :=
    let rows := s.choice.nums.filter fun r => decide (r ≤ 32) && (find p.early r).isNone && (r != 32 || p.kept.isNone)
    let e := rows.foldl (fun a r => match s.ruleWord o p r with | .ok w => insert a r w | .error _ => a) p.early
    s.modOp i fun o => { o with kind := .point { p with early := e } }

/-- The first n vectors of those left are performed, and the command goes on from the next, so that a capture finds it there (R369). -/
def State.pointPart (s : State) (i : Nat) (o : Op) (p : PtCmd) (n : Nat) : State :=
  match p.begin s o, p.vectors[n]? with
  | .ok b, some v =>
    match b.run o p none (p.vectors.take n) with
    | (r, none) => (r.s.noteCorrected o.layer).modOp i fun o =>
        { o with kind := .point { p with i1 := v.1, i0 := v.2, kept := some (r.nout, r.dropped, r.count), early := r.early } }
    | _ => s
  | _, _ => s

/-- POINT_COMMAND_COMPLETE of the target operation (R358, R367): the choice may have it go part of the way. A replayable fault only
delays it. -/
def execPointCommandComplete (s : State) : Out :=
  let i := s.choice.target
  match s.opAt i with
  | none => .next s
  | some o =>
    match o.kind with
    | .point p =>
      if !s.pointRuns i o then .next s
      else if !s.choice.nums.isEmpty then .next (s.readEarly i o p)
      else if 0 < s.choice.size ∧ s.choice.size < p.vectors.length then .next (s.pointPart i o p s.choice.size)
      else
        match s.runPoint o p none with
        | (r, none) =>
          let t := match p.tag with | some k => r.s.setTag o.crew k .ready | none => r.s
          .next ((t.noteCorrected o.layer).finish i none 0)
        | (_, some (_, some e)) => .next (if e.replay then (s.modOp i fun o => { o with waiting := true }).postFault o.layer e.cause e.faddr else s)
        | (_, some (_, none)) => .next s
    | _ => .next s

/-- The report of a point command (R368). -/
def PtCmd.report (p : PtCmd) (v : Nat × Nat) (e : PtStop) : Nat :=
  e.faddr % 2 ^ 57 + v.2 % 2 ^ 32 * 2 ^ 64 + v.1 % 2 ^ 16 * 2 ^ 96 + p.reca * 2 ^ 144 + p.tagField * 2 ^ 168
    + (if e.dst then 1 else 0) * 2 ^ 174 + e.cause * 2 ^ 176

/-- The vector of the choice, `offset` and `value`, before which something reaches the command from outside (R197, R451): its host's abort
of an access to the address in `nums`, or an uncorrectable error of the line that holds it. -/
def State.pointMeets (s : State) : Option (Nat × Nat) :=
  match s.choice.answer, s.choice.err with
  | .status _, _ => some (s.choice.offset, s.choice.value)
  | _, .uncorrectable => some (s.choice.offset, s.choice.value)
  | _, _ => none

/-- The command as its host aborts the choice's address: a write's access where `unit` is 1 (R197). -/
def State.aborting (s : State) (o : Op) : Op :=
  match s.choice.answer with
  | .status _ => { o with failed := some (abortMark (s.choice.unit == 1) (s.choice.nums.headD 0)) }
  | _ => o

/-- The line of the choice's address is lost: in the crew's partition where `lane` is 1 (R451). -/
def State.losing (s : State) (o : Op) : State :=
  let a := s.choice.nums.headD 0
  if s.choice.err ≠ .uncorrectable then s
  else if s.choice.lane = 1 then s.poisonLine (s.key (.scratch o.crew a))
  else match s.translate o.layer (s.viaOf o.crew) .read false a with | .ok p => s.poisonLine (s.key p) | .fault .. => s

/-- Vector v, as the command goes on to it or begins with it, under what reaches it from outside: only an access that v makes, or with
which the command begins, meets it. -/
def PtRun.struck (r : PtRun) (o : Op) (p : PtCmd) (v : Nat × Nat) : Option (PtRun × PtStop) :=
  let t := { r with s := r.s.losing o }
  let first : Except PtStop PtRun := if v = (p.i1, p.i0) then p.begin t.s (r.s.aborting o) else .ok t
  match first.bind fun x => x.vector (r.s.aborting o) p v, r.vector o p v with
  | .error e, .error e' => some (if e = e' then r else t, e)
  | .error e, .ok _ => some (t, e)
  | .ok _, _ => none

/-- Where a command stops (R368): at the first vector with a fault of its own, or at the choice's, by what reaches it from outside. -/
def State.pointStop (s : State) (o : Op) (p : PtCmd) : Option (PtRun × (Nat × Nat) × PtStop) :=
  match s.runPoint o p s.pointMeets with
  | (r, some (v, some e)) => some (r, v, e)
  | (r, some (v, none)) => (r.struck o p v).map fun x => (x.1, v, x.2)
  | (_, none) => none

/-- A point command stops at a vector, and its tag is HELD (R368). -/
def State.stopPoint (s : State) (i : Nat) (o : Op) (p : PtCmd) (x : PtRun × (Nat × Nat) × PtStop) : State :=
  let t := match p.tag with | some k => x.1.s.setTag o.crew k .held | none => x.1.s
  if x.2.2.replay then s else t.fail i x.2.2.cause x.2.2.faddr o.lane (some (p.report x.2.1 x.2.2))

/-- POINT_COMMAND_FAULT of the target operation (R368). -/
def execPointCommandFault (s : State) : Out :=
  let i := s.choice.target
  match s.opAt i with
  | none => .next s
  | some o =>
    match o.kind with
    | .point p =>
      if !s.pointRuns i o then .next s
      else .next (match s.pointStop o p with | some x => s.stopPoint i o p x | none => s)
    | _ => .next s

end Sys2Proof.Machine
end

