-- ==== Sys2Proof/Machine/Network.lean ====
section
/-! DEFINITION. The network of the layers: what it carries, its routers' gating, and deadlock recovery (spec/07_access.md R197, R203,
R204, R206). -/

namespace Sys2Proof.Machine

/-- Network clocks run at 2 GHz, four to three clk (R12). -/
def netClk (n : Nat) : Nat := 3 * n / 4

/-- The operation has traffic in the network (R203): a request that has left its core, or the data of a barge, an engine, an aqueduct
instruction or an I/O request. A core holds back what its thread's earlier accesses must come before (R199); an access to the crew's
own partition needs no network. One to a peer's partition is traffic, within one cluster too: DESIGN CHOICE (notes/assumptions/33.md). -/
def State.inNetwork (s : State) (i : Nat) (o : Op) : Bool :=
  !o.captured && !o.waiting && o.failed.isNone && !o.buffered && s.edgesMet o && (s.blockers i o).isEmpty
    && match o.kind with
      | .barge _ taken => taken
      | .point _ => true
      | .ioreq _ posted => posted
      | .prefetch .. => true
      | .weir (.wtest ..) _ => true
      | _ => match o.place with
        | some (.scratch c _) => c != o.crew
        | some _ => true
        | none => false

/-- The places a translation and a list of ranges give. -/
def Tr.places : Tr → List Place
  | .ok p => [p]
  | .fault .. => []

def State.rangePlaces (s : State) (l : Nat) (acc : Access) (va n : Nat) : List Place :=
  match s.placesOf l acc va n with
  | .ok ps => ps.map (·.1)
  | .error _ => []

/-- Where an operation's packets go: the place of its access, or every place a command's data lies in. -/
def State.endpoints (s : State) (o : Op) : List Place :=
  match o.kind with
  | .barge r _ =>
    (List.range (r.total - r.first)).flatMap fun k =>
      (s.bargePlace o .read r.ssp r.saddr (r.src (r.first + k)) (2 ^ r.esz)).places
        ++ (s.bargePlace o .write r.dsp r.daddr (r.dst (r.first + k)) (2 ^ r.esz)).places
  | .point p =>
    p.lists.flatMap fun l => if l.sp = 1 then [] else (List.range l.count).flatMap fun e => (s.translate o.layer (s.viaOf o.crew) .read true (l.elem e)).places
  | .ioreq ls _ => ls.flatMap fun r => s.rangePlaces o.layer .write r.daddr r.len
  | .weir (.wtest ..) ls => ls.flatMap fun x => (s.translate o.layer (s.viaOf o.crew) .atomic true ((s.crew o.crew).weir.tbase + 64 * x.a)).places
  | .prefetch ea _ => if (s.tlbHit o.layer (s.viaOf o.crew) ea).isSome then (s.translate o.layer (s.viaOf o.crew) .read false ea).places else []
  | _ => o.place.toList

/-- The routers of layer l that an operation's packets certainly pass: in its own layer from its cluster's to its lines' slices and
back, in another those of the slices; to a partition the cluster's it lies in (R201, R202). Which of two or four a packet climbs
by, and which vertical port it takes, is left open. -/
def State.opRouters (s : State) (l : Nat) (o : Op) : List Nat :=
  let k := s.clusterRouter o.crew
  (if o.layer = l then [k] else []) ++ (s.endpoints o).flatMap fun p =>
    match p with
    | .scratch c _ => if o.layer = l then bothWays pathRouters k (s.clusterRouter c) else []
    | _ => if p.homeLayer ≠ some l then [] else if o.layer = l then bothWays pathRouters k (s.sliceRouter p) else [s.sliceRouter p]

/-- The routers of layer l that its packets may pass (R202, R206). -/
def State.opClimbs (s : State) (l : Nat) (o : Op) : List Nat :=
  let k := s.clusterRouter o.crew
  let escape := look o.escaped l 0 != 0
  (s.endpoints o).flatMap fun p =>
    match p with
    | .scratch c _ => if o.layer = l then bothWays (climbRouters escape) k (s.clusterRouter c) else []
    | _ =>
      match decide (o.layer = l), p.homeLayer == some l with
      | true, true => bothWays (climbRouters escape) k (s.sliceRouter p)
      | true, false => portWays escape k
      | false, true => portWays escape (s.sliceRouter p)
      | false, false => []

/-- Operations that use a layer's network: its own, and those of other layers whose data lies in it. -/
def State.netOps (s : State) (l : Nat) : List (Nat × Op) :=
  s.ops.filter fun p => s.inNetwork p.1 p.2 && (p.2.layer == l || (s.endpoints p.2).any fun q => q.homeLayer == some l)

/-- The routers of a layer that a copy's packets pass, from layer m: those of its lines' slices (R203). -/
def State.copyRouters (s : State) (l m src dst n : Nat) : List Nat :=
  (s.rangePlaces m .read src n ++ s.rangePlaces m .write dst n).flatMap fun p => if p.homeLayer = some l then [s.sliceRouter p] else []

/-- The copies under way: the layer, the queue and the number of each. -/
def State.copies (s : State) : List (Nat × Nat × Nat × CmdKind) :=
  s.layers.flatMap fun y => y.2.queues.flatMap fun q => q.2.cmds.filterMap fun c =>
    match c.2 with | .copy .. => some (y.1, q.1, c) | _ => none

/-- The routers of a layer that carry packets: those operations', or a copy's (R203, R204). -/
def State.carrying (s : State) (l : Nat) : List Nat :=
  (s.netOps l).flatMap (fun p => s.opRouters l p.2)
    ++ s.copies.flatMap fun c => match c.2.2.2 with | .copy src dst n _ _ _ => s.copyRouters l c.1 src dst n | _ => []

/-- The routers of a layer that packets may pass: those under way, and those of the last clk that went their way at once (R202). -/
def State.climbing (s : State) (l : Nat) : List Nat :=
  (s.netOps l).flatMap (fun p => s.opClimbs l p.2)
    ++ (s.copies.flatMap fun c => match c.2.2.2 with
        | .copy src dst n _ _ moved => (s.copyRouters l c.1 src dst n).flatMap (portWays (moved != 0))
        | _ => [])
    ++ (s.layer l).climbs.filterMap fun r => if s.clk ≤ r.2 + 1 then some r.1 else none

/-- Spill entries have been written, from their crews' clusters (R203, R268). -/
def State.noteSpills (s : State) : State :=
  s.crews.foldl (init := s) fun t p =>
    if p.2.caddy.sent.isEmpty then t
    else (p.2.caddy.sent.foldl (fun u i => u.noteAccess p.2.layer (some (s.clusterRouter p.1)) .write (s.spillAddr p.1 i) 16) t).modCaddy p.1
      fun d => { d with sent := [] }

/-- When each router of a layer last had traffic. A gated one that packets have passed is awake (R204). -/
def State.noteLayer (s : State) (l : Nat) : State :=
  let y := s.layer l
  let now := s.carrying l
  s.setLayer l { y with
    traffic := now.foldl (fun m r => put m r s.clk 0) y.traffic
    gatedRouters := y.gatedRouters.filter fun r => (find y.traffic r).isNone || now.contains r }

/-- The requests that have entered the network are noted, and when each router last had traffic (R197, R204, R206). -/
def State.noteTraffic (s : State) : State :=
  let s := s.noteSpills
  let t := { s with ops := s.ops.map fun (p : Nat × Op) => if p.2.sent.isNone && s.inNetwork p.1 p.2 then (p.1, { p.2 with sent := some s.clk }) else p }
  (t.layers.map (·.1)).foldl State.noteLayer t

/-- What follows every act: system operations that can act do, requests that had no room in their queue are posted (R294),
spill writes that had to wait are tried (R268), and the traffic is noted. -/
def State.afterAct (s : State) : State := if s.frozen then s else s.settle.postDue.settleSpills.noteTraffic

/-- Routers of a layer's network (R11). -/
def routers : Nat := 28

/-- ROUTER_GATE (R204): a router without traffic for NETIDLE network clocks. -/
def execRouterGate (s : State) : Out :=
  let l := s.choice.layer
  let y := s.layer l
  let r := s.choice.unit
  if r < routers ∧ y.netidle ≠ 0 ∧ !y.gatedRouters.contains r ∧ !(s.carrying l).contains r ∧ look y.traffic r 0 + netClk y.netidle ≤ s.clk then
    .next (s.setLayer l { y with gatedRouters := r :: y.gatedRouters, traffic := erase y.traffic r })
  else .next s

/-- A packet's wake signal may reach a router: it lies on the way that the packet takes or may take (R202, R204). -/
def State.signals (s : State) (l r : Nat) : Bool := (s.carrying l).contains r || (s.climbing l).contains r

/-- ROUTER_WAKE (R204): a packet's wake signal reaches a gated router. -/
def execRouterWake (s : State) : Out :=
  let l := s.choice.layer
  let r := s.choice.unit
  .next (if (s.layer l).gatedRouters.contains r && s.signals l r then s.noteRouters l [r] else s)

/-- The packets that an access of one line can come to in one layer's network: its request and answer, a forward and its data and a
write-back, and an invalidation and its acknowledgement for each core's L1 and each layer's directory (R199, R200, R203). -/
def linePackets : Nat := 5 + 2 * (Config.clusters * Config.cores + 8)

/-- The packets of an operation in one layer's network: those of the lines its data lies in, and in its own layer those of the walk of five
levels that translates it (R207). -/
def State.packets (s : State) (l : Nat) (o : Op) : Nat :=
  linePackets * (Nat.max 1 ((s.endpoints o).filter fun p => o.layer == l || p.homeLayer == some l).length + if o.layer = l then 5 else 0)

/-- Since when packets of an operation may have waited in a layer's network: its own, or those of its walk. -/
def State.packetsSince (s : State) (l i : Nat) (o : Op) : Option Nat :=
  if (s.netOps l).any (·.1 == i) then o.sent
  else if o.layer = l ∧ o.translates ∧ !o.waiting ∧ o.failed.isNone ∧ !o.captured then some o.born
  else none

/-- A packet is moved to the Escape class, and the layer whose network it is in counts it (R206). -/
def State.escape (s : State) (l : Nat) : State := s.setLayer l { s.layer l with netesc := ((s.layer l).netesc + 1) % 2 ^ 32 }

/-- What has been in a layer's network since `since` has waited for its NETDLT network clocks (R206). -/
def State.waitedLong (s : State) (l since : Nat) : Bool := decide (since + netClk (s.layer l).netdlt ≤ s.clk)

/-- The layers whose networks carry the words a gang waits to fetch: its own, and that of their line's memory. -/
def State.fetchLayers (s : State) (gid : Nat) : List Nat :=
  let l := s.layerOf gid
  l :: ((s.translate l (s.viaOf (s.gang gid).crew) .fetch false ((s.gang gid).offered (s.runnable gid))).places.filterMap Place.homeLayer)

/-- A packet of a gang's fetch moves: its instruction lies in two lines at most, each found by a walk. -/
def State.escapeFetch (s : State) (l gid : Nat) : State :=
  let g := s.gang gid
  if s.gangUp gid && s.runnable gid != 0 && (s.fetchLayers gid).contains l && s.waitedLong l g.turned && decide (g.moved < 12 * linePackets) then
    (s.escape l).modGang gid fun g => { g with moved := g.moved + 1 }
  else s

/-- A packet of a copy moves. -/
def State.escapeCopy (s : State) (l i : Nat) : State :=
  match s.copies.find? (·.2.2.1 == i) with
  | some (m, q, _, .copy src dst n qrd begin moved) =>
    if !(s.copyRouters l m src dst n).isEmpty && s.waitedLong l begin && decide (moved < 2 * (n / 64 + 2) * linePackets) then
      (s.escape l).modCq m q fun x => { x with cmds := insert x.cmds i (.copy src dst n qrd begin (moved + 1)) }
    else s
  | _ => s

/-- DEADLOCK_ESCAPE (R206): a packet of the target - a gang's fetch where the choice's unit is 1, else an operation or a copy - that has been
in the choice's layer for that layer's NETDLT network clocks moves to the Escape class, in which nothing is moved again. The clk at
which a packet came to a router's input is not held (notes/assumptions/33.md). -/
def execDeadlockEscape (s : State) : Out :=
  let i := s.choice.target
  let l := s.choice.layer
  if s.choice.unit = 1 then .next (s.escapeFetch l i)
  else match s.opAt i with
  | some o =>
    let k := look o.escaped l 0
    .next (if (s.packetsSince l i o).any (s.waitedLong l) && decide (k < s.packets l o) then
        (s.escape l).modOp i fun o => { o with escaped := put o.escaped l (k + 1) 0 }
      else s)
  | none => .next (s.escapeCopy l i)

end Sys2Proof.Machine
end

