-- ==== Sys2Proof/Machine/Signature.lean ====
section
/-! DEFINITION. ECDSA over P-384 with SHA-384, which R496 of spec/19_objects.md names and does not describe: PRESUMED from FIPS 180-4,
FIPS 186-5 and SEC 2 (notes/assumptions/12.md). -/

namespace Sys2Proof.Machine

/-! ### SHA-384 -/

/-- The largest r below 2^n, above the start, with r^k at most x, bit by bit. -/
def rootBits (k x : Nat) : Nat → Nat → Nat
  | 0, r => r
  | n + 1, r => rootBits k x n (if (r + 2 ^ n) ^ k ≤ x then r + 2 ^ n else r)

/-- The first 80 primes. -/
def primes80 : List Nat := (List.range 410).filter fun n => decide (2 ≤ n) && (List.range n).all fun d => decide (d < 2) || n % d != 0

/-- The constants: 64 bits of the fractions of cube roots and of square roots of primes (FIPS 180-4 4.2.3, 5.3.4). -/
def shaK : List Nat := primes80.map fun p => rootBits 3 (p * 2 ^ 192) 72 0 % 2 ^ 64
def shaStart : List Nat := ((primes80.drop 8).take 8).map fun p => rootBits 2 (p * 2 ^ 128) 72 0 % 2 ^ 64

def rotr64 (n x : Nat) : Nat := (x / 2 ^ n + x * 2 ^ (64 - n)) % 2 ^ 64

/-- The next word of the schedule; the latest word stands first. -/
def shaNext (w : List Nat) : Nat :=
  let a := w.getD 1 0
  let b := w.getD 14 0
  ((rotr64 19 a ^^^ rotr64 61 a ^^^ a / 2 ^ 6) + w.getD 6 0 + (rotr64 1 b ^^^ rotr64 8 b ^^^ b / 2 ^ 7) + w.getD 15 0) % 2 ^ 64

def shaSchedule : Nat → List Nat → List Nat
  | 0, w => w
  | n + 1, w => shaSchedule n (shaNext w :: w)

/-- One round on the eight working words, with the sum of its constant and its word. -/
def shaRound (v : List Nat) (kw : Nat) : List Nat :=
  match v with
  | [a, b, c, d, e, f, g, h] =>
    let t1 := h + (rotr64 14 e ^^^ rotr64 18 e ^^^ rotr64 41 e) + ((e &&& f) ^^^ ((2 ^ 64 - 1 - e) &&& g)) + kw
    let t2 := (rotr64 28 a ^^^ rotr64 34 a ^^^ rotr64 39 a) + ((a &&& b) ^^^ (a &&& c) ^^^ (b &&& c))
    [(t1 + t2) % 2 ^ 64, a, b, c, (d + t1) % 2 ^ 64, e, f, g]
  | v => v

/-- A number from bytes, the first byte highest. -/
def ofBytesBig (b : List Byte) : Nat := b.foldl (fun a x => a * 256 + x.toNat) 0

/-- One block of 128 bytes. -/
def shaBlock (v : List Nat) (b : List Byte) : List Nat :=
  let w := (List.range 16).map fun i => ofBytesBig ((b.drop (8 * i)).take 8)
  let ws := (shaSchedule 64 w.reverse).reverse
  (v.zip ((shaK.zip ws).foldl (fun u p => shaRound u (p.1 + p.2)) v)).map fun p => (p.1 + p.2) % 2 ^ 64

/-- SHA-384 of a message, as a number of 384 bits. -/
def sha384 (m : List Byte) : Nat :=
  let n := (m.length + 17 + 127) / 128
  let p := m ++ [0x80] ++ List.replicate (128 * n - m.length - 17) 0 ++ (toBytes (8 * m.length) 16).reverse
  (((List.range n).foldl (fun v i => shaBlock v ((p.drop (128 * i)).take 128)) shaStart).take 6).foldl (fun a x => a * 2 ^ 64 + x) 0

/-! ### P-384 -/

def p384 : Nat := 2 ^ 384 - 2 ^ 128 - 2 ^ 96 + 2 ^ 32 - 1
def p384B : Nat := 0xb3312fa7e23ee7e4988e056be3f82d19181d9c6efe8141120314088f5013875ac656398d8a2ed19d2a85c8edd3ec2aef
def p384N : Nat := 0xffffffffffffffffffffffffffffffffffffffffffffffffc7634d81f4372ddf581a0db248b0a77aecec196accc52973
def p384G : Nat × Nat :=
  (0xaa87ca22be8b05378eb1c71ef320ad746e1d3b628ba79b9859f741e082542a385502f25dbf55296c3a545e3872760ab7,
   0x3617de4a96262c6f5d9e98bf9292dc29f8f41dbd289a147ce9da3113b5f0b8c00a60b1ce1d7e819d7a431d7c90ea0e5f)

/-- x to the power of the low bits of e, modulo m. -/
def powMod (m : Nat) : Nat → Nat → Nat → Nat
  | 0, _, _ => 1
  | k + 1, x, e => let r := powMod m k (x * x % m) (e / 2); if e % 2 = 1 then x * r % m else r

/-- The inverse modulo a prime. -/
def invMod (m x : Nat) : Nat := powMod m 384 (x % m) (m - 2)

/-- A point of the curve; none: the point at infinity. -/
abbrev CurvePoint := Option (Nat × Nat)

def CurvePoint.add (a b : CurvePoint) : CurvePoint :=
  match a, b with
  | none, b => b
  | a, none => a
  | some (x, y), some (u, v) =>
    if x = u ∧ (y + v) % p384 = 0 then none
    else
      let s := if x = u then (3 * x * x + p384 - 3) * invMod p384 (2 * y) % p384 else (v + p384 - y) * invMod p384 (u + p384 - x) % p384
      let z := (s * s + 2 * p384 - x - u) % p384
      some (z, (s * (x + p384 - z) + p384 - y) % p384)

/-- The low bits of k times a point. -/
def CurvePoint.mul : Nat → Nat → CurvePoint → CurvePoint
  | 0, _, _ => none
  | n + 1, k, a => let r := CurvePoint.mul n (k / 2) (a.add a); if k % 2 = 1 then a.add r else r

/-- The point lies on the curve. -/
def onCurve (a : Nat × Nat) : Bool :=
  decide (a.1 < p384) && decide (a.2 < p384) && a.2 * a.2 % p384 == (a.1 * a.1 * a.1 + (p384 - 3) * a.1 + p384B) % p384

/-- The signature (r, s), 48 bytes each, verifies over a message under a public key (x, y), 48 bytes each. The bytes of a number stand
low byte first, as R485 has an object's: DEDUCED (notes/assumptions/12.md). -/
def signatureVerifies (key msg sig : List Byte) : Bool :=
  let q := (ofBytes (key.take 48), ofBytes ((key.drop 48).take 48))
  let r := ofBytes (sig.take 48)
  let t := ofBytes ((sig.drop 48).take 48)
  onCurve q && decide (0 < r) && decide (r < p384N) && decide (0 < t) && decide (t < p384N)
    && (let w := invMod p384N t
        match CurvePoint.add (CurvePoint.mul 384 (sha384 msg * w % p384N) (some p384G)) (CurvePoint.mul 384 (r * w % p384N) (some q)) with
        | none => false
        | some a => a.1 % p384N == r)

end Sys2Proof.Machine
end

