-- ==== Sys2Proof/Machine/Objects.lean ====
section
/-! DEFINITION. Code objects: their form, the choice of an image, and firmware call 08h (spec/19_objects.md R485 to
R497). -/

namespace Sys2Proof.Machine

/-! ### The object -/

/-- A section entry (R485 Table 2). -/
structure Section where
  kind : Nat
  link : Nat
  major : Nat
  minor : Nat
  lrev : Nat
  align : Nat
  off : Nat
  size : Nat
  req : Nat
  deriving DecidableEq, Repr

/-- An object: its version note, its sections, its bytes. -/
structure Object where
  noteMaj : Nat
  noteMin : Nat
  sections : List Section
  bytes : List Byte
  deriving DecidableEq, Repr

def slice (b : List Byte) (off n : Nat) : List Byte := (b.drop off).take n

/-- A kind of Table 3 that is not malformed. -/
def kindOk (k : Nat) : Bool := (decide (1 ≤ k) && decide (k ≤ 6)) || (decide (0x10 ≤ k) && decide (k ≤ 0x13)) || k == 0x20 || decide (0x30 ≤ k)

/-- A section entry from its 256 bits, where its own fields are well formed (R485). -/
def parseSection (e objsz : Nat) : Option Section :=
  let x : Section := { kind := bits e 7 0, link := bits e 15 8, major := bits e 23 16, minor := bits e 31 24, lrev := bits e 47 32
                       align := bits e 55 48, off := bits e 127 64, size := bits e 191 128, req := bits e 255 192 }
  let body := decide (0x10 ≤ x.kind) && decide (x.kind ≤ 0x12)
  let loaded := decide (1 ≤ x.kind) && decide (x.kind ≤ 4)
  if kindOk x.kind && bits e 63 56 == 0 && (x.kind == 6 || (x.req == 0 && x.major == 0 && x.minor == 0)) && (body || x.lrev == 0)
      && (if loaded then x.align == 0 || (decide (6 ≤ x.align) && decide (x.align ≤ 12)) else x.align == 0)
      && (if x.kind == 4 then x.off == 0 else x.off % 64 == 0 && decide (x.off + x.size ≤ objsz)) then
    some x
  else none

/-- The alignment of a section in bytes. -/
def Section.alignment (x : Section) : Nat := 2 ^ (if x.align = 0 then 6 else x.align)

/-- Sections of a kind that link to section i. -/
def Object.linked (o : Object) (i kind : Nat) : List Section := o.sections.filter fun x => x.kind == kind && x.link == i

/-- LINK names a section of the right kind (R485, R486). -/
def linkOk (ss : List Section) (x : Section) : Bool :=
  let target := (ss[x.link]?).map (·.kind)
  if 1 ≤ x.kind ∧ x.kind ≤ 5 then target == some 6
  else if 0x10 ≤ x.kind ∧ x.kind ≤ 0x12 then target == some 0x13
  else x.link == 0xFF || target == some 6 || target == some 0x13

/-- The shape R486 fixes. -/
def sectionsOk (ss : List Section) : Bool :=
  let count (p : Section → Bool) : Nat := (ss.filter p).length
  ss.all (linkOk ss)
    && (List.range ss.length).all (fun i =>
          match ss[i]? with
          | some x => x.kind != 6 || (count (fun y => y.link == i && y.kind == 1) == 1 && count (fun y => y.link == i && y.kind == 5) == 1
              && [2, 3, 4].all fun k => decide (count (fun y => y.link == i && y.kind == k) ≤ 1))
          | none => true)
    && [0x13, 0x10, 0x11, 0x12, 0x20].all fun k => decide (count (fun y => y.kind == k) ≤ 1)

/-- A name in ASCII, padded with zero bytes (R490). -/
def nameOk (b : List Byte) : Bool := b.all (fun c => decide (c.toNat < 128)) && (b.dropWhile (· != 0)).all (· == 0)

/-- Bits [255:176] of a launch descriptor as the launch directives can set them (R74 Table 19, R490); `roles`: one of them was
`.roles`. -/
def directivesOk (d : Nat) (roles : Bool) : Bool :=
  let gangs := bits d 9 6
  let rolemap := bits d 79 48
  bits d 5 0 == 0 && bits d 15 14 == 0 && bits d 47 40 == 0
    && decide (bits d 13 10 ≤ 12) && decide (bits d 23 16 ≤ 192) && decide (bits d 28 24 ≤ 24) && decide (bits d 32 29 ≤ 8) && decide (bits d 36 33 ≤ 8)
    && (if roles then decide (rolemap < 2 ^ (2 * gangs + 2)) else gangs == 0 && rolemap == 0)

/-- An entry record (R490). -/
def entryOk (b : List Byte) : Bool :=
  let flags := ofBytes (slice b 30 2)
  nameOk (b.take 16) && ofBytes (slice b 16 4) % 4 == 0 && decide (flags ≤ 1) && directivesOk (ofBytes (slice b 20 10)) (flags == 1)

def entriesOk (b : List Byte) : Bool := b.length % 32 == 0 && (List.range (b.length / 32)).all fun i => entryOk (slice b (32 * i) 32)

/-- The size of a section of a kind, 0 where there is none. -/
def sizeOfKind (ss : List Section) (k : Nat) : Nat := ((ss.find? (·.kind == k)).map (·.size)).getD 0

/-- A record of the function table (R494): a name, bodies that lie in their sections, one at the scalar level, and zeros. A record that
breaks this makes the object malformed: DEDUCED (notes/assumptions/56.md). -/
def funcOk (ss : List Section) (b : List Byte) : Bool :=
  let inside (k off : Nat) : Bool := decide (ofBytes (slice b off 4) < sizeOfKind ss k)
  let absent (off : Nat) : Bool := ofBytes (slice b off 4) == 0xFFFFFFFF
  nameOk (b.take 16) && (absent 16 || inside 0x10 16) && (absent 20 || inside 0x11 20) && inside 0x12 24 && ofBytes (slice b 28 4) == 0

def funcsOk (ss : List Section) (b : List Byte) : Bool :=
  b.length % 32 == 0 && (List.range (b.length / 32)).all fun i => funcOk ss (slice b (32 * i) 32)

/-- An object from the bytes of the call; none is malformed (R485, R486, R490, R494). -/
def parseObject (b : List Byte) : Option Object :=
  let h := ofBytes (b.take 64)
  let objsz := bits h 255 192
  let secoff := bits h 191 128
  let nsec := bits h 71 64
  if b.length < 64 ∨ bits h 511 256 ≠ 0 ∨ b.length < objsz ∨ secoff % 64 ≠ 0 ∨ objsz < secoff + 32 * nsec ∨ bits h 127 72 ≠ 0 ∨ nsec = 0
      ∨ bits h 63 56 ≠ 0 ∨ bits h 47 40 = 0 ∨ bits h 39 32 ≠ 1 ∨ bits h 31 0 ≠ 0x314F5153 then none
  else
    match (List.range nsec).mapM fun i => parseSection (ofBytes (slice b (secoff + 32 * i) 32)) objsz with
    | none => none
    | some ss =>
      if sectionsOk ss && (ss.all fun x => x.kind != 5 || entriesOk (slice b x.off x.size))
          && (ss.all fun x => x.kind != 0x13 || funcsOk ss (slice b x.off x.size)) then
        some { noteMaj := bits h 47 40, noteMin := bits h 55 48, sections := ss, bytes := b.take objsz }
      else none

/-! ### Selection -/

/-- The part is W1.2 and meets the version note (R485, R487). -/
def Object.noteMet (o : Object) : Bool := decide (o.noteMaj < 1) || (o.noteMaj == 1 && decide (o.noteMin ≤ 2))

/-- An image is eligible (R488, R489). -/
def Section.eligible (x : Section) (sys : Bool) : Bool := x.kind == 6 && decide (x.req < 2 ^ 9) && x.major == 1 && (!sys || x.minor == 2)

/-- What a load uses: an image by its section index, the translator, or a refusal (R489). -/
inductive Select where
  | image (i : Nat)
  | wiral
  | refused
  deriving DecidableEq, Repr

/-- The image of highest minor revision, the first on a tie. -/
def highestMinor (l : List (Nat × Section)) : Option Nat :=
  (l.foldl (init := (none : Option (Nat × Section))) fun a p =>
    match a with
    | none => some p
    | some q => if q.2.minor < p.2.minor then some p else some q).map (·.1)

/-- The firmware's choice (R489). -/
def Object.select (o : Object) (sys : Bool) : Select :=
  let l := (List.range o.sections.length).filterMap fun i => match o.sections[i]? with
    | some x => if x.eligible sys then some (i, x) else none
    | none => none
  match l.find? (fun p => p.2.minor == 2), highestMinor l with
  | some p, _ => .image p.1
  | none, some i => .image i
  | none, none => if !sys && o.sections.any (·.kind == 0x13) then .wiral else .refused

/-- The level a function is translated from (R494, R495): 3 tile, 2 loop, 1 scalar, 0 where no level is understood. -/
def Object.level (o : Object) (f : List Byte) : Nat :=
  let has (kind off : Nat) : Bool := ofBytes (slice f off 4) != 0xFFFFFFFF && o.sections.any fun x => x.kind == kind && x.lrev == 1
  if has 0x10 16 then 3 else if has 0x11 20 then 2 else if has 0x12 24 then 1 else 0

/-- The levels of an object's functions. -/
def Object.levels (o : Object) : List Nat :=
  match o.sections.find? (·.kind == 0x13) with
  | some x => (List.range (x.size / 32)).map fun i => o.level (slice o.bytes (x.off + 32 * i) 32)
  | none => []

/-- The signature section names a held key and verifies over the object with that section read as zero (R497). -/
def State.signed (s : State) (o : Object) : Bool :=
  match o.sections.find? (·.kind == 0x20) with
  | none => false
  | some x =>
    let g := slice o.bytes x.off x.size
    let msg := o.bytes.take x.off ++ List.replicate x.size 0 ++ o.bytes.drop (x.off + x.size)
    x.size == 112 && (g.getD 8 0) == 1 && (slice g 9 7).all (· == 0)
      && (match s.pubKeys.find? fun k => k.1 == ofBytes (g.take 8) with
          | some k => signatureVerifies k.2 msg (slice g 16 96)
          | none => false)

/-! ### Loading -/

/-- What a load writes: text, rodata and data, and bss as zeros, each at its offset from DEST (R492); and the text's size. -/
def Object.layout (o : Object) (i : Nat) : List (Nat × List Byte) × Nat :=
  let parts := [1, 2, 3, 4].flatMap fun k => o.linked i k
  let placed := parts.foldl (init := (([] : List (Nat × List Byte)), 0)) fun acc x =>
    let at_ := roundUp acc.2 x.alignment
    (acc.1 ++ [(at_, if x.kind = 4 then List.replicate x.size 0 else slice o.bytes x.off x.size)], at_ + x.size)
  (placed.1, ((o.linked i 1).map (·.size)).sum)

/-- Bytes from DEST to the end of the last section. -/
def layoutSize (l : List (Nat × List Byte)) : Nat := (l.map fun p => p.1 + p.2.length).foldl Nat.max 0

/-- Locked lines of a layer in a range are released; LOST is set where asked (R446, R492, R493). -/
def State.releaseLines (s : State) (l base n : Nat) (lost : Bool) : State :=
  let hit (x : Nat) : Bool := decide (base < x + 64) && decide (x < base + n)
  { s with crews := s.crews.map fun (p : Nat × Crew) =>
      if p.2.layer = l ∧ p.2.locked.any (fun q => hit q.1) then
        (p.1, { p.2 with locked := p.2.locked.filter fun q => !hit q.1, lost := p.2.lost || lost })
      else p }

/-- Writes made for a layer at its virtual addresses, up to the first fault. -/
def State.writeAll (s : State) (l : Nat) : List (Nat × List Byte) → Except VaFault State
  | [] => .ok s
  | p :: ps => match s.sysWrite l p.1 p.2 with | .error f => .error f | .ok t => t.writeAll l ps

/-- A range that writes at system scope have reached in part is left open, replicated pages too, as far as it translates (R492,
notes/assumptions/4.md). -/
def State.scrubRange (s : State) (l va n : Nat) : State :=
  (piecesOf va n).foldl (init := s) fun t p =>
    if 2 ^ 57 < p.1 + p.2 then t
    else match t.translate l 0 .write true p.1 with
      | .ok pl => let f := t.freeBytes p.2; f.2.sysWritePlaces l [(pl, p.2)] f.1
      | .fault .. => t

/-- The call ends with its outputs (R491): SEL, LVL and LSZ where it loaded, and the reserved bytes zero. -/
def State.loadEnd (s : State) (c : Caller) (status : Nat) (out : Option (Nat × Nat × Nat)) : State :=
  let s := match out with
    | some (sel, lvl, lsz) => s.fwWrite c 40 (toBytes sel 1 ++ toBytes lvl 1 ++ toBytes 0 2 ++ toBytes lsz 4)
    | none => s.fwWrite c 42 (toBytes 0 2)
  (s.fwWrite c 1 (toBytes status 1)).unring c

/-- A load past its checks: the object, the pieces and the text's size, SEL and LVL (R492). -/
def State.loadAt (s : State) (c : Caller) (r : Nat) (pieces : List (Nat × List Byte)) (text sel lvl : Nat) : State :=
  let l := bits r 26 24
  let dest := bits r 255 192
  let lsz := layoutSize pieces
  if bits r 319 256 < lsz then s.loadEnd c 7 none
  else match s.writeAll l (pieces.map fun p => (dest + p.1, p.2)) with
  | .error f =>
    if f.replay then s.layerWait l f.cause f.addr
    else (s.scrubRange l dest lsz).loadEnd c 7 none
  | .ok t =>
    let t := t.releaseLines l dest lsz true
    let seg : Segment := { base := dest, size := text, sys := tbit r 16 }
    (t.setLayer l { t.layer l with segments := insert (t.layer l).segments (bits r 23 19) seg }).loadEnd c 0 (some (sel, lvl, lsz))

/-- The load of an object whose bytes have been read. -/
def State.loadObject (s : State) (c : Caller) (r : Nat) (b : List Byte) : State :=
  match parseObject b with
  | none => s.loadEnd c 1 none
  | some o =>
    if !o.noteMet then s.loadEnd c 2 none
    else match o.select (tbit r 16) with
    | .refused => s.loadEnd c 3 none
    | .image i =>
      if tbit r 16 && !s.signed o then s.loadEnd c 5 none
      else let p := o.layout i; s.loadAt c r p.1 p.2 i 0
    | .wiral =>
      if o.levels.any (· == 0) then s.loadEnd c 4 none
      else
        let text := Config.translateWiral o.bytes
        s.loadAt c r [(0, text)] text.length 0xFF (Nat.max 1 (o.levels.foldl Nat.max 0))

/-- A call 08h record with a field its table refuses (R491). -/
def loadRecordBad (r : Nat) : Bool := bits r 63 27 != 0 || tbit r 18

/-- A call 08h of the choice's host, a load or a FREE. -/
def loadCall (s : State) (free : Bool) (run : State → Caller → Nat → State) : Out :=
  let c := s.choice.caller
  match s.rungAt c, s.fwRecord c, c with
  | some t, some b, .host p =>
    let r := ofBytes b
    if bits r 15 8 ≠ 0xFF ∨ s.fwBehind c r t ∨ fwCode r ≠ 8 ∨ tbit r 17 ≠ free then .next s
    else if !fwWellFormed c r || loadRecordBad r then .next (s.loadEnd c 1 none)
    else if !s.serves p (bits r 26 24) then .next (s.loadEnd c 6 none)
    else .next (run s c r)
  | _, _, _ => .next s

/-- LOAD_CODE_SEGMENT (R492). -/
def execLoadCodeSegment (s : State) : Out :=
  loadCall s false fun s c r =>
    let l := bits r 26 24
    let dest := bits r 255 192
    if (find (s.layer l).segments (bits r 23 19)).isSome then s.loadEnd c 6 none
    else if dest % 2 ^ 16 ≠ 0 ∨ 2 ^ 57 ≤ dest then s.loadEnd c 7 none
    else match s.partRead l (bits r 127 64) (bits r 191 128) with
    | .error f => s.onFault l f fun s => s.loadEnd c 7 none
    | .ok b => s.loadObject c r b

/-- FREE_SEGMENT (R493). -/
def execFreeSegment (s : State) : Out :=
  loadCall s true fun s c r =>
    let l := bits r 26 24
    match find (s.layer l).segments (bits r 23 19) with
    | none => s.loadEnd c 6 none
    | some g => ((s.releaseLines l g.base g.size false).setLayer l { s.layer l with segments := erase (s.layer l).segments (bits r 23 19) }).loadEnd c 0 none

end Sys2Proof.Machine
end

