-- ==== Sys2Proof/Machine/Part.lean ====
section
/-! DEFINITION. The part as a whole: starts, readiness, freezing, heat and links (spec/01_machine.md R29,
spec/18_commands.md R477 to R483). -/

namespace Sys2Proof.Machine

/-- One second in clk (R480, R482). -/
def State.second (s : State) : Nat := s.clkMhz * 10 ^ 6

/-! ### Starts -/

/-- The value a port has asked for and not let lapse. -/
def State.asked (s : State) (port : Nat) : Option Nat :=
  match (s.port port).request with
  | some (v, t) => if s.clk < t + s.second then some v else none
  | none => none

/-- A write of 1 or 2 to RESET (R480): the same value from the other port within a second, or its link down, starts the
part; the other value makes it a cold start. -/
def startRequest (v : Nat) (s : State) : Out :=
  let p := s.choice.port
  if 2 ≤ p then .next s
  else if !(s.port (1 - p)).link then .next { s with startDue := v }
  else match s.asked (1 - p) with
  | some w => .next { s with startDue := if w = v then v else 2 }
  | none => .next (s.setPort p { s.port p with request := some (v, s.clk) })

def execWarmStartRequest (s : State) : Out := startRequest 1 s
def execColdStartRequest (s : State) : Out := startRequest 2 s

/-- START_REQUEST_LAPSE (R480). -/
def execStartRequestLapse (s : State) : Out :=
  let p := s.choice.port
  match (s.port p).request with
  | some (_, t) => .next (if t + s.second ≤ s.clk then s.setPort p { s.port p with request := none } else s)
  | none => .next s

/-- The public keys the verified firmware holds, from the choice's data: up to 8 records of a KEYID and a 96-byte key
(R496); with none, the keys held stay. -/
def State.startKeys (s : State) : List (Nat × List Byte) :=
  match s.choice.answer with
  | .data b => (List.range (Nat.min 8 (b.length / 104))).map fun i => (ofBytes (slice b (104 * i) 8), slice b (104 * i + 8) 96)
  | _ => s.pubKeys

/-- What a start keeps beside the memories it names (R29, R404, R477, R480): host memory, stale bits, links, and the
model's own counters. That the I/O target table (R256) is empty after it is the model's choice (notes/assumptions/5.md). -/
def State.afterStart (s : State) (home : Bool) : State :=
  { State.reset with
    free := s.free, next := s.next, agenda := s.agenda, choice := s.choice
    mem := s.mem.filter fun c => (home || decide (2 ^ 70 ≤ c.1)) && decide (c.1 < 2 ^ 80)
    poison := s.poison.filter fun k => (home || decide (2 ^ 70 ≤ 64 * k)) && decide (64 * k < 2 ^ 80)
    lineKeys := if home then s.lineKeys else []
    layers := s.layers.map fun (p : Nat × Layer) => (p.1, { stale := p.2.stale })
    ports := s.ports.map fun (p : Nat × Port) => (p.1, { link := p.2.link })
    hostmap := s.nextMap, ethernet := s.ethernet, temps := s.temps, power := s.power, pubKeys := s.startKeys }

/-- COLD_START (R29, R480): after a request, or after a freeze (R482). -/
def execColdStart (s : State) : Out := .next (if s.startDue = 2 ∨ s.frozen then s.afterStart false else s)

/-- WARM_START (R480): home memory and the memory keys stay. -/
def execWarmStart (s : State) : Out :=
  .next (if s.startDue = 1 then { s.afterStart true with keys := s.keys, keyOwner := s.keyOwner } else s)

/-- READY_SET (R29, R480): the function of the choice's bit is ready. A PCIe port, an Ethernet port or an HBM controller may be used before its
bit is set, since R29 does not say what its use comes to: DESIGN CHOICE (notes/assumptions/62.md). -/
def execReadySet (s : State) : Out :=
  let b := s.choice.unit
  let sleeps := (List.range Config.layers).any fun l => (s.layer l).asleep && (b == l || b == 28 + l)
  .next (if b < 36 ∧ !sleeps then s.setReady fun r => r ||| BitVec.ofNat 64 (2 ^ b) else s)

/-! ### Freezing -/

/-- FREEZE_WRITE (R482): a write of another value is ignored. -/
def execFreezeWrite (s : State) : Out :=
  let p := s.choice.port
  .next (if p < 2 ∧ s.choice.value = 0x46525A21 then s.setPort p { s.port p with freeze := some s.clk } else s)

/-- FREEZE_LAPSE (R482). -/
def execFreezeLapse (s : State) : Out :=
  let p := s.choice.port
  match (s.port p).freeze with
  | some t => .next (if t + s.second ≤ s.clk then s.setPort p { s.port p with freeze := none } else s)
  | none => .next s

/-- Port p's write to FREEZE is in force and matched (R482). -/
def State.freezeMatched (s : State) (p : Nat) : Bool :=
  match (s.port p).freeze with
  | none => false
  | some t =>
    decide (s.clk < t + s.second)
      && ((match (s.port (1 - p)).freeze with | some u => decide (s.clk < u + s.second) | none => false)
          || !(s.port (1 - p)).link || (List.range Config.layers).all fun l => s.hostPort l == p)

/-- Degrees in the units of TEMP (R483). -/
def degrees (c : Nat) : Nat := 16 * c

/-- FREEZE (R482): an error the RAS controller cannot confine, a matched write, or a die above 115 °C. -/
def execFreeze (s : State) : Out :=
  let hot := s.temps.any fun t => decide (degrees 115 < t.2)
  if s.choice.err = .uncorrectable ∨ s.freezeMatched 0 ∨ s.freezeMatched 1 ∨ hot then
    .next { s with frozen := true, ports := [0, 1].foldl (fun m p => insert m p { s.port p with link := false }) s.ports }
  else .next s

/-! ### Heat and links -/

/-- THERMAL_THROTTLE (R483): the sensors' readings come with the choice: the layers' temperatures, the power as its size, and
in bit 0 of its value a coolant outside its conditions. The clock moves one step of 100 MHz, and each change is an event. -/
def execThermalThrottle (s : State) : Out :=
  let h := s.choice
  let temps := (List.range Config.layers).map fun k => (k, h.nums.getD k 0)
  let why := h.value % 2 + (if 3200 < h.size then 2 else 0) + if temps.any (fun t => decide (degrees 105 < t.2)) then 4 else 0
  let mhz := if why = 0 then Nat.min 1500 (s.clkMhz + 100) else Nat.max 500 (s.clkMhz - 100)
  let t := { s with temps := temps, power := h.size, throt := why, clkMhz := mhz }
  .next (if mhz = s.clkMhz then t else t.postAll { kind := 5 })

/-- The port of the host an Ethernet port serves (R479). -/
def State.ethernetHost (s : State) (k : Nat) : Nat := if s.hostmap.getLsbD (8 + k) then 1 else 0

/-- ETHERNET_LINK_CHANGE (R479). -/
def execEthernetLinkChange (s : State) : Out :=
  let k := s.choice.unit
  let up := s.choice.value % 2 == 1
  if 8 ≤ k ∨ s.ethernet.getLsbD k = up then .next s
  else
    let t := { s with ethernet := if up then s.ethernet ||| BitVec.ofNat 8 (2 ^ k) else s.ethernet &&& ~~~ BitVec.ofNat 8 (2 ^ k) }
    .next (t.postPort (s.ethernetHost k) { kind := 8, info := k + if up then 256 else 0 })

/-- PCIE_LINK_CHANGE (R477, R480): where a link goes down, the other port's request takes effect. -/
def execPcieLinkChange (s : State) : Out :=
  let p := s.choice.port
  let up := s.choice.value % 2 == 1
  if 2 ≤ p then .next s
  else
    let t := s.setPort p { s.port p with link := up }
    .next (match up, s.asked (1 - p) with
      | false, some v => { t with startDue := v }
      | _, _ => t)

end Sys2Proof.Machine
end

