-- ==== Sys2Proof/Machine/Sync.lean ====
section
/-! DEFINITION. Barriers, tickets and queue locks (spec/08_atomics.md R221 to R232). -/

namespace Sys2Proof.Machine

/-! ### Barriers -/

def State.setBarrier (s : State) (crew b : Nat) (x : Barrier) : State :=
  if b < 16 then s.modCrew crew fun c => { c with barriers := insert c.barriers b x }
  else s.modConvoy (s.crew crew).convoy fun v => { v with barriers := insert v.barriers b x }

/-- An arrival at issue (R223): its phase, and the barrier that has received it. -/
def Barrier.arrive (b : Barrier) : Nat × Barrier :=
  let e := b.expOpen
  let phases := if b.phases.any (·.1 == b.open_) then b.phases else b.phases ++ [(b.open_, some e, 0)]
  let full := b.iss + 1 == e
  (b.open_, { b with phases := phases, iss := if full then 0 else b.iss + 1
                     open_ := if full then (b.open_ + 1) % 65536 else b.open_ })

/-- An arrival counts towards phase p. -/
def Barrier.count (b : Barrier) (p : Nat) : Barrier :=
  { b with phases := b.phases.map fun x => if x.1 = p then (x.1, x.2.1, x.2.2 + 1) else x }

/-- PHASE_COMPLETE (R223): phases complete in order while every arrival of the lowest has counted. -/
def Barrier.settle : Nat → Barrier → Barrier
  | 0, b => b
  | k + 1, b =>
    match b.phases.find? (·.1 == b.done) with
    | some (p, some e, n) =>
      if n = e then Barrier.settle k { b with phases := b.phases.filter (·.1 != p), done := (b.done + 1) % 65536 } else b
    | _ => b

/-- Phase p is complete (R224). -/
def Barrier.complete (b : Barrier) (p : Nat) : Bool := decide (32768 ≤ (p + 65536 - b.done) % 65536)

/-- The crews that share barrier b with a crew. -/
def State.sharers (s : State) (crew b : Nat) : List Nat := if b < 16 then [crew] else (s.convoy (s.crew crew).convoy).crews

/-- The waits of barrier b whose phase is complete, and whose edges are satisfied, complete (R224). That a wait's own stream edges hold it
back is the model's choice (notes/assumptions/17.md). -/
def State.wakeBarrier (s : State) (crew b : Nat) : State :=
  let x := s.barrier crew b
  let cs := s.sharers crew b
  (s.ops.filter fun p =>
    match p.2.kind with
    | .barw y ph => y == b && cs.contains p.2.crew && !p.2.captured && x.complete ph && s.edgesMet p.2
    | _ => false).foldl (fun t p => t.finish p.1 none 0) s

/-- BARR, with or without the phase number (R223). -/
def barrInstr (i : Instr) (bar : BitVec 5) (d : Option Reg) (o : Ord) (s : State) : Out :=
  issueInstr i s fun c t =>
    let r := (t.barrier c.crewId bar.toNat).arrive
    let t := t.setBarrier c.crewId bar.toNat r.2
    .ok (c.addUni t o (.barr bar.toNat r.1 (d.map fun d => ⟨d.toNat, 1, c.act⟩)))

def execBarr (bar : BitVec 5) (o : Ord) (s : State) : Out := barrInstr (.barr bar o) bar none o s
def execBarrPhase (d : Reg) (bar : BitVec 5) (o : Ord) (s : State) : Out := barrInstr (.barrPhase d bar o) bar (some d) o s

/-- BARW (R224): a wait whose phase is already complete completes at once. -/
def execBarw (x : Reg) (bar : BitVec 5) (o : Ord) (s : State) : Out :=
  issueInstr (.barw x bar o) s fun c t =>
    .ok ((c.addUni t o (.barw bar.toNat (c.u 0 % 65536))).wakeBarrier c.crewId bar.toNat)

/-- BARS (R225). -/
def execBars (x : Reg) (bar : BitVec 5) (o : Ord) (s : State) : Out :=
  issueInstr (.bars x bar o) s fun c t =>
    if c.u 0 = 0 ∨ 4096 < c.u 0 then .trap 0x20 (c.u 0) 255 else .ok (c.addUni t o (.bars bar.toNat (c.u 0)))

/-- BARRIER_ARRIVAL_COUNTS of the target operation (R171, R223), and of a wait whose edges are now satisfied. -/
def execBarrierArrivalCounts (s : State) : Out :=
  let i := s.choice.target
  match s.opAt i with
  | none => .next s
  | some o =>
    if o.captured || !s.edgesMet o then .next s
    else
      match o.kind with
      | .barr b p d =>
        let t := s.setBarrier o.crew b ((((s.barrier o.crew b).count p)).settle 5)
        .next ((t.finish i d p).wakeBarrier o.crew b)
      | .barw b _ => .next (s.wakeBarrier o.crew b)
      | _ => .next s

/-- BARS_ACTS of the target operation (R225). -/
def execBarsActs (s : State) : Out :=
  let i := s.choice.target
  match s.opAt i with
  | none => .next s
  | some o =>
    match o.kind with
    | .bars b x =>
      if o.captured || !s.edgesMet o then .next s
      else .next ((s.setBarrier o.crew b { s.barrier o.crew b with exp := x }).finish i none 0)
    | _ => .next s

/-! ### Tickets -/

/-- The bits of a dispenser or lock name that must be zero. -/
def badName (x hi : Nat) : Bool := 2 ^ hi ≤ x

def execTkt (d x : Reg) (o : Ord) (s : State) : Out :=
  issueInstr (.tkt d x o) s fun c t =>
    if badName (c.u 0) 12 then .trap 0x20 (c.u 0) 255 else .ok (c.addUni t o (.tkt (c.u 0) ⟨d.toNat, 1, c.act⟩))

/-- TKTW (R227): the run sleeps until SERV reaches y. -/
def execTktw (x y : Reg) (s : State) : Out :=
  issueInstr (.tktw x y) s fun c t =>
    if badName (c.u 0) 12 then .trap 0x20 (c.u 0) 255
    else if c.pre.reached c.layer (c.u 0) (c.u 1) then .ok t
    else .ok (c.park t fun _ => .tktw (c.u 0) (c.u 1) false)

def execTktsNext (x : Reg) (o : Ord) (s : State) : Out :=
  issueInstr (.tktsNext x o) s fun c t =>
    if badName (c.u 0) 12 then .trap 0x20 (c.u 0) 255 else .ok (c.addUni t o (.tkts (c.u 0) none))

def execTktsSet (x y : Reg) (o : Ord) (s : State) : Out :=
  issueInstr (.tktsSet x y o) s fun c t =>
    if badName (c.u 0) 12 then .trap 0x20 (c.u 0) 255 else .ok (c.addUni t o (.tkts (c.u 0) (some (c.u 1))))

/-- TKT_COMPLETE of the target operation (R227). That it takes its ticket only once its stream edges are satisfied is the model's choice
(notes/assumptions/17.md). -/
def execTktComplete (s : State) : Out :=
  let i := s.choice.target
  match s.opAt i with
  | none => .next s
  | some o =>
    match o.kind with
    | .tkt x d =>
      if o.captured || !s.edgesMet o then .next s
      else
        let v := s.ticket o.layer x
        .next ((s.setTicket o.layer x ((v.1 + 1) % 2 ^ 32, v.2)).finish i (some d) v.1)
    | _ => .next s

/-- A broadcast of SERV of dispenser x: every sleeper of the layer tests it; those of a saved crew test when it is restored
(R227, R232). -/
def State.broadcast (s : State) (l x : Nat) : State :=
  ((s.gangs.map (·.1)).filter fun g => s.layerOf g == l && (s.crew (s.gang g).crew).status != .saved
    && (s.convoy (s.crew (s.gang g).crew).convoy).status != .saved).foldl (fun t g => t.testTickets g (some x)) s

/-- TKTS_UPDATE of the target operation (R227). -/
def execTktsUpdate (s : State) : Out :=
  let i := s.choice.target
  match s.opAt i with
  | none => .next s
  | some o =>
    match o.kind with
    | .tkts x y =>
      if o.captured || !s.edgesMet o then .next s
      else
        let v := s.ticket o.layer x
        .next (((s.setTicket o.layer x (match y with | some y => (y, y) | none => (v.1, (v.2 + 1) % 2 ^ 32))).broadcast o.layer x).finish i none 0)
    | _ => .next s

/-- TKTW_WAKE (R227): the target gang's sleepers that a test has found reached move on. -/
def execTktwWake (s : State) : Out :=
  let g := s.choice.target
  if !s.seated g then .next s
  else .next (s.modGang g fun x => { x with threads := x.threads.map fun t =>
    match t.wait with
    | .tktw _ _ true => { t with wait := .none, pc := t.pc + 4 }
    | _ => t })

/-! ### Queue locks -/

/-- QLK (R230): the run sleeps; the unit appends the gang to the FIFO, or fails it. -/
def execQlk (d x : Reg) (o : Ord) (s : State) : Out :=
  issueInstr (.qlk d x o) s fun c t =>
    if badName (c.u 0) 11 then .trap 0x20 (c.u 0) 255
    else
      let k := look (t.layer c.layer).locks (c.u 0) {}
      let id := t.next
      let t := c.addUni (c.park t fun _ => .qlk (c.u 0)) o (.qlk (c.u 0) ⟨d.toNat, 1, c.act⟩ none)
      if k.holder = some c.gid ∨ c.gid ∈ k.fifo then .ok (t.modOp id fun o => { o with failed := some (0x20, c.u 0) })
      else
        .ok (t.setLayer c.layer { t.layer c.layer with
          locks := insert (t.layer c.layer).locks (c.u 0) { k with fifo := k.fifo ++ [c.gid] } })

/-- QUL (R230): only the holder may release. -/
def execQul (x : Reg) (o : Ord) (s : State) : Out :=
  issueInstr (.qul x o) s fun c t =>
    if badName (c.u 0) 11 then .trap 0x20 (c.u 0) 255
    else
      let id := t.next
      let t := c.addUni t o (.qul (c.u 0))
      if (look (t.layer c.layer).locks (c.u 0) {}).holder = some c.gid then .ok t
      else .ok (t.modOp id fun o => { o with failed := some (0x20, c.u 0) })

/-- QLK_GRANT of the target operation (R230), once its edges are satisfied (R157): the free lock goes to its first waiter, and
a QLK that holds it completes: d := ABN, and the run wakes at pc + 4. -/
def execQlkGrant (s : State) : Out :=
  let i := s.choice.target
  match s.opAt i with
  | none => .next s
  | some o =>
    match o.kind with
    | .qlk x _ _ =>
      if o.failed.isSome || !s.edgesMet o then .next s
      else
      let t := s.grantLock o.layer x
      match t.opAt i with
      | some { kind := .qlk _ d (some v), captured := false, .. } =>
        let t := t.modGang o.gang fun g => g.modLanes o.threads fun th =>
          if th.wait = .qlk x then { th with wait := .none, pc := th.pc + 4 } else th
        .next (t.finish i (some d) v)
      | _ => .next t
    | _ => .next s

/-- QUL_RELEASE of the target operation (R230), whoever holds the lock by then (notes/assumptions/43.md). -/
def execQulRelease (s : State) : Out :=
  let i := s.choice.target
  match s.opAt i with
  | none => .next s
  | some o =>
    match o.kind with
    | .qul x =>
      if o.captured || o.failed.isSome || !s.edgesMet o then .next s
      else .next ((s.freeLock o.layer x false).finish i none 0)
    | _ => .next s

end Sys2Proof.Machine
end

