-- ==== Sys2Proof/Machine/Dispatch.lean ====
section
/-! DEFINITION. One arm for each instruction. -/

namespace Sys2Proof.Machine

/-- The meaning of an instruction. -/
def exec (i : Instr) (s : State) : Host.Outcome State Fault Refusal :=
  match i with
  | .nop => Sys2Proof.Machine.execNop s
  | .bra off => Sys2Proof.Machine.execBra off s
  | .brc k off => Sys2Proof.Machine.execBrc k off s
  | .call off => Sys2Proof.Machine.execCall off s
  | .ret => Sys2Proof.Machine.execRet s
  | .retPair p => Sys2Proof.Machine.execRetPair p s
  | .jmpi p => Sys2Proof.Machine.execJmpi p s
  | .calli p => Sys2Proof.Machine.execCalli p s
  | .calliLink d p => Sys2Proof.Machine.execCalliLink d p s
  | .exit => Sys2Proof.Machine.execExit s
  | .vote k x v => Sys2Proof.Machine.execVote k x v s
  | .bru off => Sys2Proof.Machine.execBru off s
  | .bruMask k off => Sys2Proof.Machine.execBruMask k off s
  | .join k => Sys2Proof.Machine.execJoin k s
  | .leave k => Sys2Proof.Machine.execLeave k s
  | .waitm k => Sys2Proof.Machine.execWaitm k s
  | .mand k a b => Sys2Proof.Machine.execMand k a b s
  | .mor k a b => Sys2Proof.Machine.execMor k a b s
  | .mxor k a b => Sys2Proof.Machine.execMxor k a b s
  | .mandn k a b => Sys2Proof.Machine.execMandn k a b s
  | .mmovMM k a => Sys2Proof.Machine.execMmovMM k a s
  | .mmovMG k a => Sys2Proof.Machine.execMmovMG k a s
  | .mmovGM d a => Sys2Proof.Machine.execMmovGM d a s
  | .yieldGang => Sys2Proof.Machine.execYieldGang s
  | .sleep x => Sys2Proof.Machine.execSleep x s
  | .roleGet d => Sys2Proof.Machine.execRoleGet d s
  | .roleSet x => Sys2Proof.Machine.execRoleSet x s
  | .mpop d a v => Sys2Proof.Machine.execMpop d a v s
  | .add p d a b => Sys2Proof.Machine.execAdd p d a b s
  | .sub p d a b => Sys2Proof.Machine.execSub p d a b s
  | .addc p d a b => Sys2Proof.Machine.execAddc p d a b s
  | .mul p d a b => Sys2Proof.Machine.execMul p d a b s
  | .mulh p d a b => Sys2Proof.Machine.execMulh p d a b s
  | .mad p d a b => Sys2Proof.Machine.execMad p d a b s
  | .div p d a b => Sys2Proof.Machine.execDiv p d a b s
  | .rem p d a b => Sys2Proof.Machine.execRem p d a b s
  | .min p d a b => Sys2Proof.Machine.execMin p d a b s
  | .max p d a b => Sys2Proof.Machine.execMax p d a b s
  | .abs p d a => Sys2Proof.Machine.execAbs p d a s
  | .and p d a b => Sys2Proof.Machine.execAnd p d a b s
  | .or p d a b => Sys2Proof.Machine.execOr p d a b s
  | .xor p d a b => Sys2Proof.Machine.execXor p d a b s
  | .andn p d a b => Sys2Proof.Machine.execAndn p d a b s
  | .shl p d a b => Sys2Proof.Machine.execShl p d a b s
  | .shr p d a b => Sys2Proof.Machine.execShr p d a b s
  | .fsh p d a b => Sys2Proof.Machine.execFsh p d a b s
  | .bfx p d a b => Sys2Proof.Machine.execBfx p d a b s
  | .bfi p d a b => Sys2Proof.Machine.execBfi p d a b s
  | .popc p d a => Sys2Proof.Machine.execPopc p d a s
  | .clz p d a => Sys2Proof.Machine.execClz p d a s
  | .ctz p d a => Sys2Proof.Machine.execCtz p d a s
  | .brev p d a => Sys2Proof.Machine.execBrev p d a s
  | .sel p d a b => Sys2Proof.Machine.execSel p d a b s
  | .cmpm p cc k a b => Sys2Proof.Machine.execCmpm p cc k a b s
  | .movi p d imm => Sys2Proof.Machine.execMovi p d imm s
  | .movh p d imm => Sys2Proof.Machine.execMovh p d imm s
  | .addi p d imm => Sys2Proof.Machine.execAddi p d imm s
  | .mov p d a => Sys2Proof.Machine.execMov p d a s
  | .lea p d a b => Sys2Proof.Machine.execLea p d a b s
  | .uadd d a b => Sys2Proof.Machine.execUadd d a b s
  | .usub d a b => Sys2Proof.Machine.execUsub d a b s
  | .umul d a b => Sys2Proof.Machine.execUmul d a b s
  | .uand d a b => Sys2Proof.Machine.execUand d a b s
  | .uor d a b => Sys2Proof.Machine.execUor d a b s
  | .uxor d a b => Sys2Proof.Machine.execUxor d a b s
  | .ushl d a b => Sys2Proof.Machine.execUshl d a b s
  | .ushr d a b => Sys2Proof.Machine.execUshr d a b s
  | .umovi d imm => Sys2Proof.Machine.execUmovi d imm s
  | .umovh d imm => Sys2Proof.Machine.execUmovh d imm s
  | .shfi p d a wid flg => Sys2Proof.Machine.execShfi p d a wid flg s
  | .shfu p d a wid flg => Sys2Proof.Machine.execShfu p d a wid flg s
  | .shfd p d a wid flg => Sys2Proof.Machine.execShfd p d a wid flg s
  | .shfx p d a wid flg => Sys2Proof.Machine.execShfx p d a wid flg s
  | .cxs p d a rev lk lj => Sys2Proof.Machine.execCxs p d a rev lk lj s
  | .perm p d a b => Sys2Proof.Machine.execPerm p d a b s
  | .scan p d a wid ex op => Sys2Proof.Machine.execScan p d a wid ex op s
  | .fadd p d a b => Sys2Proof.Machine.execFadd p d a b s
  | .fsub p d a b => Sys2Proof.Machine.execFsub p d a b s
  | .fmul p d a b => Sys2Proof.Machine.execFmul p d a b s
  | .ffma p d a b => Sys2Proof.Machine.execFfma p d a b s
  | .fmin p d a b => Sys2Proof.Machine.execFmin p d a b s
  | .fmax p d a b => Sys2Proof.Machine.execFmax p d a b s
  | .fabs p d a => Sys2Proof.Machine.execFabs p d a s
  | .fneg p d a => Sys2Proof.Machine.execFneg p d a s
  | .fcmp p cc k a b => Sys2Proof.Machine.execFcmp p cc k a b s
  | .fcvt p d a st => Sys2Proof.Machine.execFcvt p d a st s
  | .fcvti p d a st => Sys2Proof.Machine.execFcvti p d a st s
  | .icvtf p d a st => Sys2Proof.Machine.execIcvtf p d a st s
  | .fadd2 p d a b => Sys2Proof.Machine.execFadd2 p d a b s
  | .fmul2 p d a b => Sys2Proof.Machine.execFmul2 p d a b s
  | .ffma2 p d a b => Sys2Proof.Machine.execFfma2 p d a b s
  | .fclass p d a => Sys2Proof.Machine.execFclass p d a s
  | .sfq p d a tok fn => Sys2Proof.Machine.execSfq p d a tok fn s
  | .sfwait p m => Sys2Proof.Machine.execSfwait p m s
  | .frnd p d a => Sys2Proof.Machine.execFrnd p d a s
  | .fscl p d a b => Sys2Proof.Machine.execFscl p d a b s
  | .fdiv p d a b => Sys2Proof.Machine.execFdiv p d a b s
  | .fsqrt p d a => Sys2Proof.Machine.execFsqrt p d a s
  | .swait sm n => Sys2Proof.Machine.execSwait sm n s
  | .ldg p d a x4 o => Sys2Proof.Machine.execLdg p d a x4 o s
  | .stg p d a x4 o => Sys2Proof.Machine.execStg p d a x4 o s
  | .lds p d a x4 o => Sys2Proof.Machine.execLds p d a x4 o s
  | .sts p d a x4 o => Sys2Proof.Machine.execSts p d a x4 o s
  | .ldp p d a x4 o => Sys2Proof.Machine.execLdp p d a x4 o s
  | .stp p d a x4 o => Sys2Proof.Machine.execStp p d a x4 o s
  | .pfg p a lvl o => Sys2Proof.Machine.execPfg p a lvl o s
  | .uldg d a sz o => Sys2Proof.Machine.execUldg d a sz o s
  | .ustg d a sz o => Sys2Proof.Machine.execUstg d a sz o s
  | .ulds d a sz o => Sys2Proof.Machine.execUlds d a sz o s
  | .usts d a sz o => Sys2Proof.Machine.execUsts d a sz o s
  | .atom p d a op sp o => Sys2Proof.Machine.execAtom p d a op sp o s
  | .cas p d a sp o => Sys2Proof.Machine.execCas p d a sp o s
  | .cas128 p d a sp o => Sys2Proof.Machine.execCas128 p d a sp o s
  | .red p d a op sp o => Sys2Proof.Machine.execRed p d a op sp o s
  | .uatom d a op w sg sp o => Sys2Proof.Machine.execUatom d a op w sg sp o s
  | .ucas d a w sp o => Sys2Proof.Machine.execUcas d a w sp o s
  | .barr bar o => Sys2Proof.Machine.execBarr bar o s
  | .barrPhase d bar o => Sys2Proof.Machine.execBarrPhase d bar o s
  | .barw x bar o => Sys2Proof.Machine.execBarw x bar o s
  | .bars x bar o => Sys2Proof.Machine.execBars x bar o s
  | .tkt d x o => Sys2Proof.Machine.execTkt d x o s
  | .tktw x y => Sys2Proof.Machine.execTktw x y s
  | .tktsNext x o => Sys2Proof.Machine.execTktsNext x o s
  | .tktsSet x y o => Sys2Proof.Machine.execTktsSet x y o s
  | .qlk d x o => Sys2Proof.Machine.execQlk d x o s
  | .qul x o => Sys2Proof.Machine.execQul x o s
  | .barge a o => Sys2Proof.Machine.execBarge a o s
  | .tagw a any => Sys2Proof.Machine.execTagw a any s
  | .tagf d a clr => Sys2Proof.Machine.execTagf d a clr s
  | .tagclr a => Sys2Proof.Machine.execTagclr a s
  | .rawait d a free o => Sys2Proof.Machine.execRawait d a free o s
  | .rarel a o => Sys2Proof.Machine.execRarel a o s
  | .rapub a o => Sys2Proof.Machine.execRapub a o s
  | .waity a mode => Sys2Proof.Machine.execWaity a mode s
  | .ioreq p a o => Sys2Proof.Machine.execIoreq p a o s
  | .eadd p d a b => Sys2Proof.Machine.execEadd p d a b s
  | .esub p d a b => Sys2Proof.Machine.execEsub p d a b s
  | .emul p d a b => Sys2Proof.Machine.execEmul p d a b s
  | .ediv p d a b => Sys2Proof.Machine.execEdiv p d a b s
  | .esqrt p d a => Sys2Proof.Machine.execEsqrt p d a s
  | .eneg p d a => Sys2Proof.Machine.execEneg p d a s
  | .esq p d a => Sys2Proof.Machine.execEsq p d a s
  | .efma p d a b => Sys2Proof.Machine.execEfma p d a b s
  | .eleaf p d x => Sys2Proof.Machine.execEleaf p d x s
  | .eleafi p d x => Sys2Proof.Machine.execEleafi p d x s
  | .emov p d a adopt => Sys2Proof.Machine.execEmov p d a adopt s
  | .ebnd p d a v => Sys2Proof.Machine.execEbnd p d a v s
  | .esever p d a opaq => Sys2Proof.Machine.execEsever p d a opaq s
  | .ewid p d a rel => Sys2Proof.Machine.execEwid p d a rel s
  | .ecmp p cc k a u => Sys2Proof.Machine.execEcmp p cc k a u s
  | .esgn p d a u => Sys2Proof.Machine.execEsgn p d a u s
  | .mma p a b o e => Sys2Proof.Machine.execMma p a b o e s
  | .accz p o acc => Sys2Proof.Machine.execAccz p o acc s
  | .accrd p d o acc form fin => Sys2Proof.Machine.execAccrd p d o acc form fin s
  | .accwr p a o acc form => Sys2Proof.Machine.execAccwr p a o acc form s
  | .qnt p d a o e => Sys2Proof.Machine.execQnt p d a o e s
  | .dqnt p d a o e => Sys2Proof.Machine.execDqnt p d a o e s
  | .ctbl p a o => Sys2Proof.Machine.execCtbl p a o s
  | .wcfg p a o => Sys2Proof.Machine.execWcfg p a o s
  | .wsig p d a o bf => Sys2Proof.Machine.execWsig p d a o bf s
  | .wtest p d x c o n skm => Sys2Proof.Machine.execWtest p d x c o n skm s
  | .wskip p d x o v => Sys2Proof.Machine.execWskip p d x o v s
  | .wstep p o => Sys2Proof.Machine.execWstep p o s
  | .wstepSet p x o => Sys2Proof.Machine.execWstepSet p x o s
  | .nbrk p a o t => Sys2Proof.Machine.execNbrk p a o t s
  | .nbrr p a o t => Sys2Proof.Machine.execNbrr p a o t s
  | .siteh p a o t => Sys2Proof.Machine.execSiteh p a o t s
  | .rule p a o t => Sys2Proof.Machine.execRule p a o t s
  | .ruleSub p a o t => Sys2Proof.Machine.execRuleSub p a o t s
  | .pgat p a o f32 t => Sys2Proof.Machine.execPgat p a o f32 t s
  | .psca p a o t => Sys2Proof.Machine.execPsca p a o t s
  | .spawn x a b o => Sys2Proof.Machine.execSpawn x a b o s
  | .bflush x => Sys2Proof.Machine.execBflush x s
  | .bflushAll => Sys2Proof.Machine.execBflushAll s
  | .claim n => Sys2Proof.Machine.execClaim n s
  | .claimTry d n => Sys2Proof.Machine.execClaimTry d n s
  | .give n => Sys2Proof.Machine.execGive n s
  | .giveRole r n => Sys2Proof.Machine.execGiveRole r n s
  | .cyield => Sys2Proof.Machine.execCyield s
  | .tdone k act => Sys2Proof.Machine.execTdone k act s
  | .qlen d q room => Sys2Proof.Machine.execQlen d q room s
  | .mcst x a sz o => Sys2Proof.Machine.execMcst x a sz o s
  | .rchk d a o => Sys2Proof.Machine.execRchk d a o s
  | .resync a o => Sys2Proof.Machine.execResync a o s
  | .slotq d v => Sys2Proof.Machine.execSlotq d v s
  | .slotr d => Sys2Proof.Machine.execSlotr d s
  | .slotw x => Sys2Proof.Machine.execSlotw x s
  | .rstat d a => Sys2Proof.Machine.execRstat d a s
  | .trap n => Sys2Proof.Machine.execTrap n s
  | .brk n => Sys2Proof.Machine.execBrk n s
  | .eret => Sys2Proof.Machine.execEret s
  | .eretKill => Sys2Proof.Machine.execEretKill s
  | .csrr d n => Sys2Proof.Machine.execCsrr d n s
  | .csrw x n => Sys2Proof.Machine.execCsrw x n s
  | .tlbiAll o => Sys2Proof.Machine.execTlbiAll o s
  | .tlbiVa a o => Sys2Proof.Machine.execTlbiVa a o s
  | .iclock d a b => Sys2Proof.Machine.execIclock d a b s
  | .icunlk a b => Sys2Proof.Machine.execIcunlk a b s
  | .keyld x a o => Sys2Proof.Machine.execKeyld x a o s
  | .ctxsv a o => Sys2Proof.Machine.execCtxsv a o s
  | .ctxld a o => Sys2Proof.Machine.execCtxld a o s
  | .dbgh a v => Sys2Proof.Machine.execDbgh a v s
  | .sleepEnd => Sys2Proof.Machine.execSleepEnd s
  | .starvationTurn => Sys2Proof.Machine.execStarvationTurn s
  | .sfqComplete => Sys2Proof.Machine.execSfqComplete s
  | .loadComplete => Sys2Proof.Machine.execLoadComplete s
  | .storeComplete => Sys2Proof.Machine.execStoreComplete s
  | .prefetchComplete => Sys2Proof.Machine.execPrefetchComplete s
  | .pageTableWalk => Sys2Proof.Machine.execPageTableWalk s
  | .replay => Sys2Proof.Machine.execReplay s
  | .operationFailure => Sys2Proof.Machine.execOperationFailure s
  | .hostCompletionTimeout => Sys2Proof.Machine.execHostCompletionTimeout s
  | .atomicPerform => Sys2Proof.Machine.execAtomicPerform s
  | .atomicComplete => Sys2Proof.Machine.execAtomicComplete s
  | .barrierArrivalCounts => Sys2Proof.Machine.execBarrierArrivalCounts s
  | .barsActs => Sys2Proof.Machine.execBarsActs s
  | .tktwWake => Sys2Proof.Machine.execTktwWake s
  | .tktsUpdate => Sys2Proof.Machine.execTktsUpdate s
  | .qlkGrant => Sys2Proof.Machine.execQlkGrant s
  | .qulRelease => Sys2Proof.Machine.execQulRelease s
  | .bargeEngineTake => Sys2Proof.Machine.execBargeEngineTake s
  | .bargeComplete => Sys2Proof.Machine.execBargeComplete s
  | .bargeFault => Sys2Proof.Machine.execBargeFault s
  | .rawaitComplete => Sys2Proof.Machine.execRawaitComplete s
  | .rarelRelease => Sys2Proof.Machine.execRarelRelease s
  | .advanceReady => Sys2Proof.Machine.execAdvanceReady s
  | .crewYield => Sys2Proof.Machine.execCrewYield s
  | .crewReturn => Sys2Proof.Machine.execCrewReturn s
  | .ioreqPost => Sys2Proof.Machine.execIoreqPost s
  | .ioRequestEnd => Sys2Proof.Machine.execIoRequestEnd s
  | .ioTimeout => Sys2Proof.Machine.execIoTimeout s
  | .reclamation => Sys2Proof.Machine.execReclamation s
  | .refinementAdmit => Sys2Proof.Machine.execRefinementAdmit s
  | .refinementEnd => Sys2Proof.Machine.execRefinementEnd s
  | .matrixCommandStart => Sys2Proof.Machine.execMatrixCommandStart s
  | .subarrayGate => Sys2Proof.Machine.execSubarrayGate s
  | .operandsConsumed => Sys2Proof.Machine.execOperandsConsumed s
  | .matrixCommandComplete => Sys2Proof.Machine.execMatrixCommandComplete s
  | .wtestEntryUpdate => Sys2Proof.Machine.execWtestEntryUpdate s
  | .weirContextLoad => Sys2Proof.Machine.execWeirContextLoad s
  | .weirCommandComplete => Sys2Proof.Machine.execWeirCommandComplete s
  | .pointCommandComplete => Sys2Proof.Machine.execPointCommandComplete s
  | .pointCommandFault => Sys2Proof.Machine.execPointCommandFault s
  | .spawnTasksEnter => Sys2Proof.Machine.execSpawnTasksEnter s
  | .binTimerExpiry => Sys2Proof.Machine.execBinTimerExpiry s
  | .taskGangPlace => Sys2Proof.Machine.execTaskGangPlace s
  | .q24Fill => Sys2Proof.Machine.execQ24Fill s
  | .coreReserve => Sys2Proof.Machine.execCoreReserve s
  | .cyieldAct => Sys2Proof.Machine.execCyieldAct s
  | .aqueductSlot => Sys2Proof.Machine.execAqueductSlot s
  | .aqueductWriteApply => Sys2Proof.Machine.execAqueductWriteApply s
  | .resyncComplete => Sys2Proof.Machine.execResyncComplete s
  | .slotwWake => Sys2Proof.Machine.execSlotwWake s
  | .trapEntry => Sys2Proof.Machine.execTrapEntry s
  | .preemption => Sys2Proof.Machine.execPreemption s
  | .convoyRestore => Sys2Proof.Machine.execConvoyRestore s
  | .gangRetire => Sys2Proof.Machine.execGangRetire s
  | .convoyPlace => Sys2Proof.Machine.execConvoyPlace s
  | .drainStart => Sys2Proof.Machine.execDrainStart s
  | .drainPreempt => Sys2Proof.Machine.execDrainPreempt s
  | .watchdogExpiry => Sys2Proof.Machine.execWatchdogExpiry s
  | .routerGate => Sys2Proof.Machine.execRouterGate s
  | .routerWake => Sys2Proof.Machine.execRouterWake s
  | .deadlockEscape => Sys2Proof.Machine.execDeadlockEscape s
  | .hostApertureAccess => Sys2Proof.Machine.execHostApertureAccess s
  | .qwrDoorbell => Sys2Proof.Machine.execQwrDoorbell s
  | .queueEnable => Sys2Proof.Machine.execQueueEnable s
  | .queueReset => Sys2Proof.Machine.execQueueReset s
  | .resume => Sys2Proof.Machine.execResume s
  | .registerWrite => Sys2Proof.Machine.execRegisterWrite s
  | .commandNop => Sys2Proof.Machine.execCommandNop s
  | .launch => Sys2Proof.Machine.execLaunch s
  | .launchComplete => Sys2Proof.Machine.execLaunchComplete s
  | .depwait => Sys2Proof.Machine.execDepwait s
  | .depwaitPoll => Sys2Proof.Machine.execDepwaitPoll s
  | .signal => Sys2Proof.Machine.execSignal s
  | .copyc => Sys2Proof.Machine.execCopyc s
  | .copyComplete => Sys2Proof.Machine.execCopyComplete s
  | .mark => Sys2Proof.Machine.execMark s
  | .jump => Sys2Proof.Machine.execJump s
  | .setpri => Sys2Proof.Machine.execSetpri s
  | .stamp => Sys2Proof.Machine.execStamp s
  | .tlbcVa => Sys2Proof.Machine.execTlbcVa s
  | .tlbcAll => Sys2Proof.Machine.execTlbcAll s
  | .evrdWrite => Sys2Proof.Machine.execEvrdWrite s
  | .export_ => Sys2Proof.Machine.execExport s
  | .import_ => Sys2Proof.Machine.execImport s
  | .revoke => Sys2Proof.Machine.execRevoke s
  | .createRegion => Sys2Proof.Machine.execCreateRegion s
  | .freeRegion => Sys2Proof.Machine.execFreeRegion s
  | .writeIoTargetEntry => Sys2Proof.Machine.execWriteIoTargetEntry s
  | .assignKeyIndices => Sys2Proof.Machine.execAssignKeyIndices s
  | .unassignKeyIndices => Sys2Proof.Machine.execUnassignKeyIndices s
  | .loadCodeSegment => Sys2Proof.Machine.execLoadCodeSegment s
  | .freeSegment => Sys2Proof.Machine.execFreeSegment s
  | .debugHalt => Sys2Proof.Machine.execDebugHalt s
  | .debugRun => Sys2Proof.Machine.execDebugRun s
  | .debugStep => Sys2Proof.Machine.execDebugStep s
  | .debugSnap => Sys2Proof.Machine.execDebugSnap s
  | .sleepDevice => Sys2Proof.Machine.execSleepDevice s
  | .wakeDevice => Sys2Proof.Machine.execWakeDevice s
  | .assignLayersAndPorts => Sys2Proof.Machine.execAssignLayersAndPorts s
  | .setKernelState => Sys2Proof.Machine.execSetKernelState s
  | .warmStartRequest => Sys2Proof.Machine.execWarmStartRequest s
  | .coldStartRequest => Sys2Proof.Machine.execColdStartRequest s
  | .startRequestLapse => Sys2Proof.Machine.execStartRequestLapse s
  | .coldStart => Sys2Proof.Machine.execColdStart s
  | .warmStart => Sys2Proof.Machine.execWarmStart s
  | .readySet => Sys2Proof.Machine.execReadySet s
  | .freezeWrite => Sys2Proof.Machine.execFreezeWrite s
  | .freezeLapse => Sys2Proof.Machine.execFreezeLapse s
  | .freeze => Sys2Proof.Machine.execFreeze s
  | .thermalThrottle => Sys2Proof.Machine.execThermalThrottle s
  | .ethernetLinkChange => Sys2Proof.Machine.execEthernetLinkChange s
  | .tktComplete => Sys2Proof.Machine.execTktComplete s
  | .rchkComplete => Sys2Proof.Machine.execRchkComplete s
  | .pcieLinkChange => Sys2Proof.Machine.execPcieLinkChange s

end Sys2Proof.Machine
end

