-- ==== Sys2Proof/Machine/Fetch.lean ====
section
/-! DEFINITION. A part in which an instruction of one's choice is fetched next: a page table, a code segment and a running
gang (notes/assumptions/3.md). -/

namespace Sys2Proof.Machine

/-- The address the instruction is put at. -/
def startVa : Nat := 0x10000

/-- The page table at 1000h of layer 0 maps the first GiB of the address space to itself, readable, writable and
executable, in segment 0 (R447). -/
def State.withIdentityMap (s : State) : State :=
  let s := s.setLayer 0 { s.layer 0 with ptb := 0x1000, tlb := [], asleep := false }
  let s := s.writeAt (.home 0 0x1000 0) (toBytes (2 ^ 63 + 2) 8)
  let s := s.writeAt (.home 0 0x2000 0) (toBytes (2 ^ 63 + 3) 8)
  s.writeAt (.home 0 0x3000 0) (toBytes (2 ^ 63 + 2 ^ 41 + 2 ^ 42 + 2 ^ 43 + 2 ^ 44) 8)

/-- Code segment 0 over the first GiB (R421). -/
def State.withSegment (s : State) (sys : Bool) : State :=
  s.setLayer 0 { s.layer 0 with segments := insert (s.layer 0).segments 0 { base := 0, size := 2 ^ 30, sys := sys } }

/-- A launch of one convoy with one crew of one gang, at the start of its code, with the largest allotments. A gang that stands
in its quadrant already lets it go first, as after a YIELDGANG (R100). -/
def State.withGang (s : State) (level : Nat) : State :=
  let n := s.next
  let d : Descriptor :=
    { (default : Descriptor) with
      entry := startVa, gridx := 1, gridy := 1, gridz := 1, regs := 12, scratch := 64, accs := 8, tags := 8, bintime := 1 }
  { s with
    next := n + 4
    launches := insert s.launches n { layer := 0, queue := 0, cmd := 0, desc := d, placed := 1 }
    convoys := insert s.convoys (n + 1) { launch := n, n := 0, crews := [n + 2] }
    crews := insert s.crews (n + 2)
      { convoy := n + 1, launch := n, layer := 0, cluster := 0, core := 0, ix := 0, cvx := 0, cvy := 0, cvz := 0, stage := 0, ctx := 0
        gangs := [n + 3], caddyC := 4096, spillS := 0, since := s.clk, wdog := s.clk }
    gangs := insert (s.gangs.map fun p => if s.quadOf p.1 = (0, 0, 0, 0) then (p.1, { p.2 with yielded := some [] }) else p) (n + 3)
      { crew := n + 2, ix := 0, slot := 0, role := 0, level := level, allot := 12, m := insert [] 0 (BitVec.allOnes 32)
        threads := List.replicate 32 { pc := startVa } }
    ready := s.ready ||| 1 <<< 28, agenda := [.gang (n + 3) 0], frozen := false }

/-- The level at which an instruction is legal: 2 for the privileged ones, 1 for TDONE, else 0 (R420, R422, R437, R383). -/
def startLevel : Instr → Nat
  | .csrw .. => 2
  | .eret => 2
  | .eretKill => 2
  | .tdone .. => 1
  | i => if i.info.privileged then 2 else 0

end Sys2Proof.Machine
end

