-- ==== Sys2Proof/Machine/Step.lean ====
section
/-! DEFINITION. One step of the part. -/

namespace Sys2Proof.Machine

/-- One step: who acts next, what it does, and what follows at once. -/
def step (s : State) : Host.Outcome State Fault Refusal :=
  match s.prepare exec (State.autoAct exec) with
  | .act i t =>
    match exec i t with
    | .next u => .next u.afterAct
    | .fault r => .fault r
    | .refused r => .refused r
  | .done t => .next t.afterAct

/-- The instruction whose bits are w stands where the next step fetches (notes/assumptions/3.md). -/
def State.withFetchWord (s : State) (nbits w : Nat) : State :=
  let level := match decodeTableWord nbits w with | some i => startLevel i | none => 0
  let s := ((s.withIdentityMap).withSegment (level == 2)).withGang level
  s.writeAt (.home 0 startVa 0) (toBytes w 16)

end Sys2Proof.Machine
end

