-- ==== Sys2Proof/Safety.lean ====
section
/-! DEFINITION. The terms in which claims speak: when an instruction completes at issue, and what an instruction that
completes leaves as it was. -/

namespace Sys2Proof.Machine

/-- The instruction stands at issue, passes the checks of R57, R65 and R66 in their order, and nothing stalls it (R57, R78,
R156, R162, R391, and the reasons of its own description); the part meets no storage error (R451). -/
structure Ready (i : Instr) (s : State) (u : Issue) : Prop where
  atIssue : s.issue = some u
  /-- The issuing gang, its crew and its convoy exist; a gang formed from tasks lies in no convoy (R20). -/
  gang : (find s.gangs u.gang).isSome
  crew : (find s.crews (s.gang u.gang).crew).isSome
  convoy : (s.gang u.gang).task = none → (find s.convoys (s.crew (s.gang u.gang).crew).convoy).isSome
  /-- Its fields are legal (R64), also for a gang formed from tasks (R58). -/
  legal : i.info.legal = true
  task : taskOk i (s.gang u.gang).task.isSome = true
  /-- QLEN's q is a queue or lies in the allotment's reach (R373); ERET stands at level 2 (R437). -/
  named : qlenOk i (s.gang u.gang).allot = true
  eret : eretOk i (s.gang u.gang).level = true
  /-- A privileged instruction lies in a segment with SYS = 1 (R65, R421). -/
  privileged : i.info.privileged = true → s.segmentSys (s.layerOf u.gang) (s.viaOf (s.gang u.gang).crew) u.pc = true
  /-- The level allows it (R383, R422, R437). -/
  level : levelTrap i (s.gang u.gang).level (match (s.gang u.gang).handler with | some h => h.task | none => false) = none
  /-- Registers, tiles and tags within the allotments (R53, R61). -/
  range : rangeOk i (s.gang u.gang).allot (s.launch (s.crew (s.gang u.gang).crew).launch).desc.accs
    (s.tagCount (s.gang u.gang).crew) = true
  /-- At least one active lane (R66). -/
  lanes : (s.ctx i u).act ≠ 0
  /-- No queue would need more than its depth (R391). -/
  depth : queueRangeOk i (popcount (s.ctx i u).qlanes) = true
  /-- The queues hold what it pops and have room for what it pushes (R57, R391). -/
  queues : s.queuesReady u.gang (popcount (s.ctx i u).qlanes) i = true
  /-- Its destinations are no destinations of pending operations (R162), where no operand of an undecided comparison is badly
  formed (R290). -/
  dests : (s.destsFree u.gang i || badIv i (s.ctx i u)) = true
  /-- Every counter of its stream is at most 62 (R156). -/
  room : s.streamRoom u.gang (s.ctx i u).act i = true
  /-- Its own description gives it no reason to stall. -/
  own : specialStall i (s.ctx i u) s = false
  /-- It reads nothing that a storage error has taken (R451). -/
  sound : readsStore i u.err = false

/-- The state past the issue of an instruction: the run has moved on and what it pops is gone (R57, R79, R80). -/
def State.issued (s : State) (i : Instr) (u : Issue) : State :=
  (s.advance u (s.ctx i u).next).popSrcs u.gang (popcount (s.ctx i u).qlanes) (s.ctx i u).srcs

/-- The issuing gang's crew, and its convoy. -/
def State.crewOf (s : State) (u : Issue) : Nat := (s.gang u.gang).crew
def State.convoyAt (s : State) (u : Issue) : Nat := (s.crew (s.crewOf u)).convoy

/-- The threads of the gang once the run's have moved: each as `f` says, its wait counts at zero, every other thread as it was
(R79, R80). -/
def State.ranThreads (s : State) (u : Issue) (f : Nat → Thread → Thread) : List Thread :=
  (s.gang u.gang).threads.mapIdx fun l t => if hasLane u.run l then f l { t with count := 0, waity := none } else t

/-- The gang with its run's threads moved. -/
def State.ran (s : State) (u : Issue) (f : Nat → Thread → Thread) : Gang := { s.gang u.gang with threads := s.ranThreads u f }

/-- The gang with its run at the next instruction (R79). -/
def State.moved (s : State) (i : Instr) (u : Issue) : Gang := s.ran u fun _ t => { t with pc := (s.ctx i u).next }

/-- What an instruction changes outside its own gang: its crew's queues and watchdog, its convoy's queues. Queue q loses the
entries it pops and gains `push q`. -/
structure Quiet (s : State) (i : Instr) (u : Issue) (push : Nat → List (BitVec 32)) (t : State) : Prop where
  rest : t = { s with gangs := t.gangs, crews := t.crews, convoys := t.convoys }
  gangs : ∀ j, j ≠ u.gang → t.gang j = s.gang j
  crews : ∀ j, j ≠ s.crewOf u → t.crew j = s.crew j
  crew : t.crew (s.crewOf u) = { s.crew (s.crewOf u) with wdog := s.clk, queues := (t.crew (s.crewOf u)).queues }
  convoys : ∀ j, j ≠ s.convoyAt u → t.convoy j = s.convoy j
  convoy : t.convoy (s.convoyAt u) = { s.convoy (s.convoyAt u) with queues := (t.convoy (s.convoyAt u)).queues }
  queues : ∀ q, q ≤ 25 → t.queue u.gang q =
    (s.queue u.gang q).drop (qNeed i.info.srcs (q + 224) (popcount (s.ctx i u).qlanes)) ++ push q

/-- The issuing gang after an instruction that writes no register: g, less the entries it pops from its task queue; its debug
step, its offered run and its fetch are over (R77, R79, R453). -/
def GangIs (s : State) (u : Issue) (g : Gang) (t : State) : Prop :=
  t.gang u.gang = { g with q24 := (t.gang u.gang).q24, stepOnce := false, offer := none, fetchWait := (s.gang u.gang).waitsPast u.pc }

/-- Registers r .. r + n − 1 include one of e register k. -/
def touches (r n k : Nat) : Bool := decide (0 < n) && decide (r ≤ 4 * k + 3) && decide (4 * k < r + n)

/-- The word that a write of x at register r0 puts in register r of lane l: a register that holds HV of a released reference
takes bit 0 as 0 (R60). -/
def writtenWord (s : State) (u : Issue) (r0 x r l : Nat) : Nat :=
  let w := x / 2 ^ (32 * (r - r0)) % 2 ^ 32
  if r % 4 = 3 ∧ (s.gang u.gang).hvAt (r / 4) l = true then w / 2 * 2 else w

/-- What an instruction with one result writes in each lane of its destination: the active lanes' values, and under ZERO
zero in the other lanes of the run (R41). -/
def Ctx.writes (c : Ctx) (f : Nat → Nat) (l : Nat) : Option Nat :=
  if hasLane c.act l then some (f l) else if c.zero && hasLane c.run l then some 0 else none

/-- What an instruction writes at issue whose result comes later: under ZERO zero in the lanes of the run that are not
active (R41). -/
def Ctx.zeros (c : Ctx) (l : Nat) : Option Nat :=
  if !hasLane c.act l && c.zero && hasLane c.run l then some 0 else none

/-- The entries a result pushes, n words a lane in lane order, the low word first (R57). -/
def Ctx.pushes (c : Ctx) (d n : Nat) (f : Nat → Nat) (q : Nat) : List (BitVec 32) :=
  if d = q + 224 then ((lanes c.qlanes).flatMap fun l => wordsFrom (f l) n).map (BitVec.ofNat 32 ·) else []

/-- The state an instruction leaves that only releases what registers d to d + n − 1 of the lanes it writes hold: of the active lanes, then
of the others of the run, in ascending order, register by register (R41, R59, R60). -/
def State.released (s : State) (i : Instr) (u : Issue) (d n : Nat) (w : Nat → Option Nat) : State :=
  let c := s.ctx i u
  let ls := (lanes c.act ++ lanes (c.run &&& ~~~ c.act)).filter fun l => decide (d < 192) && (w l).isSome
  ls.foldl (fun t l => (List.range n).foldl (fun t k => t.releaseE u.gang ((d + k) / 4) l) t) (s.issued i u)

/-- What an instruction that writes registers leaves: the n words of `w l` in destination d of every lane l that has one (of
the lowest active lane in a g register); in queue q, less what it pops, `push q`; every other field of its gang as g has it;
nothing else. A destination that holds a reference releases it: memory and the crew's caddy are as the releases leave them (R60, R268). -/
structure Wrote (s : State) (i : Instr) (u : Issue) (d n : Nat) (w : Nat → Option Nat) (push : Nat → List (BitVec 32)) (g : Gang)
    (t : State) : Prop where
  v : ∀ r l, r < 192 → l < 32 → (t.gang u.gang).vreg r l =
    match w l with
    | some x =>
      if d < 192 ∧ d ≤ r ∧ r < d + n then writtenWord s u d x r l
      else if d < 192 ∧ r % 4 = 3 ∧ touches d n (r / 4) = true ∧ (s.gang u.gang).hvAt (r / 4) l = true then
        (s.gang u.gang).vreg r l / 2 * 2
      else (s.gang u.gang).vreg r l
    | none => (s.gang u.gang).vreg r l
  hv : ∀ k l, k < 48 → l < 32 → (t.gang u.gang).hvAt k l =
    ((s.gang u.gang).hvAt k l && !(decide (d < 192) && (w l).isSome && touches d n k))
  uniform : ∀ r, (t.gang u.gang).greg r =
    match w (s.ctx i u).lane0 with
    | some x => if 192 ≤ d ∧ d < 224 ∧ d - 192 ≤ r ∧ r < d - 192 + n then x / 2 ^ (32 * (r - (d - 192))) % 2 ^ 32 else (s.gang u.gang).greg r
    | none => (s.gang u.gang).greg r
  /-- The rest of the gang. -/
  gang : t.gang u.gang = { g with
    v := (t.gang u.gang).v, hv := (t.gang u.gang).hv, g := (t.gang u.gang).g, q24 := (t.gang u.gang).q24
    stepOnce := false, offer := none, fetchWait := (s.gang u.gang).waitsPast u.pc }
  gangs : ∀ j, j ≠ u.gang → t.gang j = s.gang j
  queues : ∀ q, q ≤ 25 → t.queue u.gang q =
    (s.queue u.gang q).drop (qNeed i.info.srcs (q + 224) (popcount (s.ctx i u).qlanes)) ++ push q
  crews : ∀ j, j ≠ s.crewOf u → t.crew j = s.crew j
  crew : t.crew (s.crewOf u) = { s.crew (s.crewOf u) with
    wdog := s.clk, queues := (t.crew (s.crewOf u)).queues, caddy := (t.crew (s.crewOf u)).caddy }
  convoys : ∀ j, j ≠ s.convoyAt u → t.convoy j = s.convoy j
  convoy : t.convoy (s.convoyAt u) = { s.convoy (s.convoyAt u) with queues := (t.convoy (s.convoyAt u)).queues }
  rest : t = { s with gangs := t.gangs, crews := t.crews, convoys := t.convoys, mem := t.mem, lineKeys := t.lineKeys, poison := t.poison }
  /-- Memory and the nodes are those of the state after the releases alone. -/
  released : t.mem = (s.released i u d n w).mem ∧ t.lineKeys = (s.released i u d n w).lineKeys ∧ t.poison = (s.released i u d n w).poison ∧
    (t.crew (s.crewOf u)).caddy = ((s.released i u d n w).crew (s.crewOf u)).caddy
  /-- Where no written e register holds a reference, no node and no byte of memory changes. -/
  clean : (∀ k l, (w l).isSome = true → d < 192 → touches d n k = true → (s.gang u.gang).hvAt k l = false) →
    t.mem = s.mem ∧ t.lineKeys = s.lineKeys ∧ t.poison = s.poison ∧ (t.crew (s.crewOf u)).caddy = (s.crew (s.crewOf u)).caddy

/-- A result f in destination d, and nothing else. -/
def Gave (s : State) (i : Instr) (u : Issue) (d n : Nat) (f : Nat → Nat) (g : Gang) (t : State) : Prop :=
  Wrote s i u d n ((s.ctx i u).writes f) ((s.ctx i u).pushes d n f) g t

/-! ### Counted operations -/

/-- The same operation, its translation apart, which a TLB that holds its page gives at issue (R207). -/
def Op.sameBut (o o' : Op) : Prop :=
  o' = { o with place := o'.place, failed := o'.failed } ∧ (o.place.isSome = true ∨ o.kind.access.isNone = true → o' = o)

/-- New operations stand in the state in their order; no operation of another instruction changes (R154, R156). -/
structure Issues (s : State) (new : List Op) (t : State) : Prop where
  count : t.next = s.next + new.length
  added : ∀ k o, new[k]? = some o → ∃ o', find t.ops (s.next + k) = some o' ∧ o.sameBut o'
  kept : ∀ j o, j < s.next → find s.ops j = some o → o.inst ≠ s.next → find t.ops j = some o
  absent : ∀ j, j < s.next ∨ s.next + new.length ≤ j → find s.ops j = none → find t.ops j = none

/-- The state with the operations of another. -/
def State.withOps (t s : State) : State := { t with ops := s.ops, next := s.next }

/-! ### Results, instruction by instruction -/

/-- A result: the destination, its words, and the value of each lane. -/
structure Result where
  d : Reg
  n : Nat
  f : Nat → Nat

/-- A result of the type in force, whose width sets the words (R45, R56). -/
def typed (p : OPfx) (dflt : Nat) (d : Reg) (f : Nat → Nat → Nat) : Option Result :=
  some ⟨d, pairN (effType p dflt), f (effType p dflt)⟩

/-- The integer, address, bit and cross-lane instructions that write one result (R104 to R121, R127 to R129). -/
def integerResult (i : Instr) (c : Ctx) : Option Result :=
  let x := c.val 0; let y := c.val 1; let z := c.val 2
  match i with
  | .add p d _ _ => typed p 3 d fun t l => putT t (extT t (x l) + extT t (y l))
  | .sub p d _ _ => typed p 3 d fun t l => putT t (extT t (x l) - extT t (y l))
  | .addc _ d _ _ => some ⟨d, 2, fun l => addcOf (x l) (y l) (z l)⟩
  | .mul p d _ _ => typed p 3 d fun t l => putT t (extT t (x l) * extT t (y l))
  | .mulh p d _ _ => typed p 3 d fun t l => mulhOf t (x l) (y l)
  | .mad p d _ _ => typed p 3 d fun t l => putT t (extT t (x l) * extT t (y l) + extT t (z l))
  | .div p d _ _ => typed p 3 d fun t l => divOf t (x l) (y l)
  | .rem p d _ _ => typed p 3 d fun t l => remOf t (x l) (y l)
  | .min p d _ _ => typed p 3 d fun t l => putT t (minI (extT t (x l)) (extT t (y l)))
  | .max p d _ _ => typed p 3 d fun t l => putT t (maxI (extT t (x l)) (extT t (y l)))
  | .abs p d _ => typed p 3 d fun t l => putT t (((extT t (x l)).natAbs : Nat) : Int)
  | .and p d _ _ => typed p 9 d fun _ l => x l &&& y l
  | .or p d _ _ => typed p 9 d fun _ l => x l ||| y l
  | .xor p d _ _ => typed p 9 d fun _ l => x l ^^^ y l
  | .andn p d _ _ => typed p 9 d fun t l => x l &&& (2 ^ typeBits t - 1 - y l)
  | .shl p d _ _ => typed p 9 d fun t l => shlOf (typeBits t) (x l) (y l)
  | .shr p d _ _ => typed p 7 d fun t l => shrOf t (x l) (y l)
  | .fsh _ d _ _ => some ⟨d, 1, fun l => fshOf (x l) (y l) (z l)⟩
  | .bfx p d _ _ => some ⟨d, 1, fun l => bfxOf (effType p 7) (x l) (y l)⟩
  | .bfi _ d _ _ => some ⟨d, 1, fun l => bfiOf (x l) (y l) (z l)⟩
  | .popc p d _ => some ⟨d, 1, fun l => popcOf (typeBits (effType p 9)) (x l)⟩
  | .clz p d _ => some ⟨d, 1, fun l => clzOf (typeBits (effType p 9)) (x l)⟩
  | .ctz p d _ => some ⟨d, 1, fun l => ctzOf (typeBits (effType p 9)) (x l)⟩
  | .brev p d _ => typed p 9 d fun t l => brevOf (typeBits t) (x l)
  | .sel p d _ _ => typed p 9 d fun _ l => if z l = 0 then y l else x l
  | .movi p d imm => typed p 3 d fun t _ => if isSigned t then trunc imm.toInt (typeBits t) else imm.toNat
  | .movh _ d imm => some ⟨d, 1, fun l => imm.toNat * 2 ^ 16 + x l % 2 ^ 16⟩
  | .addi p d imm => typed p 3 d fun t l => putT t (extT t (x l) + imm.toInt)
  | .mov p d _ => typed p 9 d fun _ l => x l
  | .lea p d _ _ => some ⟨d, 2, fun l => leaOf (effType p 1) (x l) (y l)⟩
  | .cxs p d _ rev lk lj => some ⟨d, 2, fun l =>
      if cxsSwaps (effType p 7) c.act rev (2 ^ lk.toNat) (2 ^ lj.toNat) x l then x (l ^^^ 2 ^ lj.toNat) else x l⟩
  | .perm _ d _ _ => some ⟨d, 1, fun l => permOf (x l) (y l) (z l)⟩
  | .scan p d _ wid ex op => typed p 3 d fun t l => scanOf op.toNat t (2 ^ wid.toNat) ex c.act x l
  | _ => none

/-- The uniform instructions that write one word (R98, R102, R122, R123, R400, R413). -/
def uniformResult (i : Instr) (c : Ctx) : Option (Reg × Nat) :=
  let x := c.u 0; let y := c.u 1
  match i with
  | .uadd d _ _ => some (d, (x + y) % 2 ^ 32)
  | .usub d _ _ => some (d, (2 ^ 32 + x - y) % 2 ^ 32)
  | .umul d _ _ => some (d, x * y % 2 ^ 32)
  | .uand d _ _ => some (d, x &&& y)
  | .uor d _ _ => some (d, x ||| y)
  | .uxor d _ _ => some (d, x ^^^ y)
  | .ushl d _ _ => some (d, shlOf 32 x y)
  | .ushr d _ _ => some (d, shrOf 7 x y)
  | .umovi d imm => some (d, trunc imm.toInt 32)
  | .umovh d imm => some (d, imm.toNat * 2 ^ 16 + x % 2 ^ 16)
  | .mmovGM d a => some (d, (c.gang.mask a.toNat).toNat)
  | .mpop d a v => some (d, mpopOf v.toNat (c.gang.mask a.toNat))
  | .roleGet d => some (d, c.gang.role.toNat)
  | .slotq d v => some (d, c.pre.slotQuery c.layer v.toNat)
  | .rstat d _ => some (d, c.pre.regionStatus c.layer (c.pre.viaOf c.crewId) x)
  | _ => none

/-- A floating-point result of the format in force, with its rounding mode and FTZ (R42, R130, R133). -/
def floated (p : OPfx) (d : Reg) (c : Ctx) (f : Fmt → Nat → Bool → Nat → Nat) : Option Result :=
  some ⟨d, pairN (effType p 12), f (fmtOf p) (rndOf p) c.ftz⟩

/-- The floating-point instructions that write one result (R134 to R146). -/
def floatResult (i : Instr) (c : Ctx) : Option Result :=
  let x := fun (f : Fmt) l => c.val 0 l % 2 ^ f.width
  let y := fun (f : Fmt) l => c.val 1 l % 2 ^ f.width
  let z := fun (f : Fmt) l => c.val 2 l % 2 ^ f.width
  match i with
  | .fadd p d _ _ => floated p d c fun f m z l => fadd f m z (x f l) (y f l)
  | .fsub p d _ _ => floated p d c fun f m z l => fsub f m z (x f l) (y f l)
  | .fmul p d _ _ => floated p d c fun f m z l => fmul f m z (x f l) (y f l)
  | .ffma p d _ _ => floated p d c fun f m ftz l => ffma f m ftz (x f l) (y f l) (z f l)
  | .fmin p d _ _ => floated p d c fun f _ ftz l => fminmax f ftz false (x f l) (y f l)
  | .fmax p d _ _ => floated p d c fun f _ ftz l => fminmax f ftz true (x f l) (y f l)
  | .fdiv p d _ _ => floated p d c fun f m ftz l => fdiv f m ftz (x f l) (y f l)
  | .fscl p d _ _ => floated p d c fun f m ftz l => fscl f m ftz (x f l) (sext (c.val 1 l) 32)
  | .fabs p d _ => floated p d c fun f _ _ l => fabs f (x f l)
  | .fneg p d _ => floated p d c fun f _ _ l => fneg f (x f l)
  | .frnd p d _ => floated p d c fun f m ftz l => frnd f m ftz (x f l)
  | .fsqrt p d _ => floated p d c fun f m ftz l => fsqrt f m ftz (x f l)
  | .fclass p d _ => some ⟨d, 1, fun l => fclass (fmtOf p) (x (fmtOf p) l)⟩
  | .fcvt p d _ st => floated p d c fun f m ftz l => fcvt f (Fmt.ofType st.toNat) m ftz (x (Fmt.ofType st.toNat) l)
  | .fcvti p d _ st => typed p 3 d fun t l =>
      putT t (fcvti (Fmt.ofType st.toNat) (rndOf p) c.ftz (typeBits t) (isSigned t) (x (Fmt.ofType st.toNat) l))
  | .icvtf p d _ st => floated p d c fun f m ftz l => icvtf f m ftz (extT st.toNat (c.val 0 l))
  | .fadd2 p d _ _ => some ⟨d, 1, fun l => halves (fun a b _ => fadd (packedFmt p) (rndOf p) c.ftz a b) (c.val 0 l) (c.val 1 l) 0⟩
  | .fmul2 p d _ _ => some ⟨d, 1, fun l => halves (fun a b _ => fmul (packedFmt p) (rndOf p) c.ftz a b) (c.val 0 l) (c.val 1 l) 0⟩
  | .ffma2 p d _ _ => some ⟨d, 1, fun l => halves (ffma (packedFmt p) (rndOf p) c.ftz) (c.val 0 l) (c.val 1 l) (c.val 2 l)⟩
  | _ => none

/-! ### Control flow and masks -/

/-- Where a branch sends each thread of its run (R36, R86, R87, R90). -/
def branchTo (i : Instr) (c : Ctx) : Option (Nat → Nat) :=
  match i with
  | .nop => some fun _ => c.next
  | .bra off => some fun _ => branchTarget c.pc off
  | .brc k off => some fun l => if hasLane (c.gang.mask k.toNat) l then branchTarget c.pc off else c.next
  | .bru off => some fun _ => branchTarget c.pc off
  | .bruMask k off => some fun _ => if c.gang.mask k.toNat &&& c.run = 0 then c.next else branchTarget c.pc off
  | .jmpi _ => some (c.val 0)
  | .retPair _ => some (c.val 0)
  | _ => none

/-- The instructions whose targets are register pairs (R90). -/
def indirect (i : Instr) : Bool :=
  match i with
  | .jmpi _ => true
  | .retPair _ => true
  | .calli _ => true
  | .calliLink _ _ => true
  | _ => false

/-- What a call or return through the stack does to each thread of its run (R89). -/
def callTo (i : Instr) (c : Ctx) : Option (Nat → Thread → Thread) :=
  match i with
  | .call off => some fun _ t => { t with stack := c.next :: t.stack, pc := branchTarget c.pc off }
  | .calli _ => some fun l t => { t with stack := c.next :: t.stack, pc := c.val 0 l }
  | .ret => some fun _ t => { t with stack := t.stack.tail, pc := t.stack.headD 0 }
  | _ => none

/-- The depth of a thread's return stack at which a call or a return traps (R89). -/
def stackBound (i : Instr) : Option Nat :=
  match i with
  | .call _ => some 16
  | .calli _ => some 16
  | .ret => some 0
  | _ => none

/-- A mask with its bits of the active lanes replaced (R99, R118). -/
def Ctx.maskWith (c : Ctx) (k : Nat) (f : Nat → Bool) : BitVec 32 :=
  (c.gang.mask k &&& ~~~ c.act) ||| laneSet fun l => hasLane c.act l && f l

/-- The mask an instruction writes, and its value (R85, R93, R98, R99, R118, R139). -/
def maskResult (i : Instr) (c : Ctx) : Option (Nat × BitVec 32) :=
  match i with
  | .cmpm p cc k _ _ =>
    let t := effType p 3
    some (k.toNat, c.maskWith k.toNat fun l => icond cc.toNat (extT t (c.val 0 l)) (extT t (c.val 1 l)))
  | .fcmp p cc k _ _ =>
    let f := fmtOf p
    some (k.toNat, c.maskWith k.toNat fun l => fcond f c.ftz cc.toNat (c.val 0 l % 2 ^ f.width) (c.val 1 l % 2 ^ f.width))
  | .vote k _ v => some (k.toNat, c.maskWith k.toNat (voteBit v.toNat c.run (c.val 0)))
  | .join k => some (k.toNat, c.gang.mask k.toNat ||| c.run)
  | .leave k => some (k.toNat, c.gang.mask k.toNat &&& ~~~ c.run)
  | .mand k a b => some (k.toNat, c.gang.mask a.toNat &&& c.gang.mask b.toNat)
  | .mor k a b => some (k.toNat, c.gang.mask a.toNat ||| c.gang.mask b.toNat)
  | .mxor k a b => some (k.toNat, c.gang.mask a.toNat ^^^ c.gang.mask b.toNat)
  | .mandn k a b => some (k.toNat, c.gang.mask a.toNat &&& ~~~ c.gang.mask b.toNat)
  | .mmovMM k a => some (k.toNat, c.gang.mask a.toNat)
  | .mmovMG k _ => some (k.toNat, BitVec.ofNat 32 (c.u 0))
  | _ => none

/-- The lane a shuffle's lane reads, by its mode, and whether its flag is set: the source lies outside the segment or is no
live thread, and the lane reads its own register (R126). -/
def shuffleFrom (i : Instr) (c : Ctx) : Option (Reg × Nat × BitVec 4 × (Nat → Nat × Bool)) :=
  let pick (p : OPfx) (d : Reg) (wid : BitVec 3) (flg : BitVec 4) (src : Nat → Nat → Nat × Bool) :=
    let w := 2 ^ wid.toNat
    some (d, pairN (effType p 9), flg, fun l =>
      let q := src (l % w) (c.val 1 l)
      if q.2 = true ∨ hasLane c.gang.live (l - l % w + q.1) = false then (l, true) else (l - l % w + q.1, false))
  match i with
  | .shfi p d _ wid flg => pick p d wid flg fun _ x => (x, decide (2 ^ wid.toNat ≤ x))
  | .shfu p d _ wid flg => pick p d wid flg fun l x => (l - x, decide (l < x))
  | .shfd p d _ wid flg => pick p d wid flg fun l x => (l + x, decide (2 ^ wid.toNat ≤ l + x))
  | .shfx p d _ wid flg => pick p d wid flg fun l x => (l ^^^ x, decide (2 ^ wid.toNat ≤ x))
  | _ => none

/-- The gang after an instruction that changes only fields of it (R93 to R96, R100 to R102). -/
def gangChange (i : Instr) (s : State) (u : Issue) : Option Gang :=
  let c := s.ctx i u
  match i with
  | .waitm k =>
    let members := u.run &&& (s.gang u.gang).mask k.toNat &&& (s.gang u.gang).live
    some ((s.ran u fun l t => if hasLane members l then { t with wait := .waitm k.toNat, pc := u.pc } else { t with pc := c.next }).release
      k.toNat)
  | .yieldGang => some { s.moved i u with yielded := some [] }
  | .sleep _ =>
    if c.u 0 = 0 then some (s.moved i u)
    else some (s.ran u fun _ t => { t with pc := c.next, wait := .sleep (s.clk + Nat.min (c.u 0) 1048575) })
  | .roleSet _ => some { s.moved i u with role := BitVec.ofNat 2 (c.u 0) }
  | .sfwait .. => some (s.moved i u)
  | .swait .. => some (s.moved i u)
  | _ => none

/-! ### Accesses -/

/-- One operation of an access instruction: the lane its checks name, its address, and the operation. -/
structure Acc where
  lane : Nat
  addr : LaneAddr
  op : Op

/-- The operations of a lane-set access, one for each active lane (R154, R185). -/
def Ctx.laneAccs (c : Ctx) (space size : Nat) (o : Ord) (kind : Nat → Nat → OpKind) : List Acc :=
  (lanes c.act).map fun l =>
    let a := c.pre.laneAddr c.crewId space (c.val 0 l) o size
    ⟨l, a, c.op o c.pre.next l (laneBit l) (kind l a.ea.toNat) a.place⟩

/-- The operation of a uniform access, counted in every active thread (R49, R154, R196). -/
def Ctx.uniAccs (c : Ctx) (space size : Nat) (o : Ord) (kind : Nat → OpKind) : List Acc :=
  let a := c.pre.laneAddr c.crewId space (c.u 0) o size
  [⟨c.lane0, a, c.op o c.pre.next c.lane0 c.act (kind a.ea.toNat) a.place⟩]

/-- A load's accesses, and the v destination that ZERO clears (R190). -/
def Ctx.loads (c : Ctx) (space : Nat) (p : OPfx) (d : Reg) (x4 : Bool) (o : Ord) : Option (Nat × Nat × List Acc) :=
  let size := accessSize p x4
  some (d.toNat, memSize p x4, c.laneAccs space size o fun l ea =>
    .load ea size (if x4 then 9 else effType p 9) (c.laneDest d.toNat (memSize p x4) l))

def Ctx.stores (c : Ctx) (space : Nat) (p : OPfx) (x4 : Bool) (o : Ord) : Option (Nat × Nat × List Acc) :=
  let size := accessSize p x4
  some (255, 0, c.laneAccs space size o fun l ea => .store ea (toBytes (c.val 1 l) size))

/-- A lane-set atomic's accesses: its operands are captured at issue (R211, R213). -/
def Ctx.atomics (c : Ctx) (space size ty op rnd : Nat) (d n : Nat) (res : Bool) (o : Ord) (x y : Nat → Nat) : Option (Nat × Nat × List Acc) :=
  some (if res then d else 255, n, c.laneAccs space size o fun l ea =>
    .atomic ea size op ty rnd (x l % 2 ^ (8 * size)) (y l % 2 ^ (8 * size)) (if res then c.laneDest d n l else none) none)

def Ctx.uniAtomics (c : Ctx) (space size ty op d n : Nat) (o : Ord) (x y : Nat) : Option (Nat × Nat × List Acc) :=
  some (255, 0, c.uniAccs space size o fun ea =>
    .atomic ea size op ty 0 (x % 2 ^ (8 * size)) (y % 2 ^ (8 * size)) (some ⟨d, n, c.act⟩) none)

/-- What an access instruction issues (R187 to R196, R210 to R220, R409 to R411): the destination ZERO clears, its words,
the operations. -/
def accessesOf (i : Instr) (c : Ctx) : Option (Nat × Nat × List Acc) :=
  match i with
  | .ldg p d _ x4 o => c.loads 0 p d x4 o
  | .lds p d _ x4 o => c.loads 1 p d x4 o
  | .ldp p d _ x4 o => c.loads 2 p d x4 o
  | .stg p _ _ x4 o => c.stores 0 p x4 o
  | .sts p _ _ x4 o => c.stores 1 p x4 o
  | .stp p _ _ x4 o => c.stores 2 p x4 o
  | .pfg _ _ lvl o => some (255, 0, c.laneAccs 0 4 o fun _ ea => .prefetch ea (!lvl))
  | .uldg d _ sz o => some (255, 0, c.uniAccs 0 (4 * 2 ^ sz.toNat) o fun ea => .load ea (4 * 2 ^ sz.toNat) 9 (some ⟨d.toNat, 2 ^ sz.toNat, c.act⟩))
  | .ulds d _ sz o => some (255, 0, c.uniAccs 1 (4 * 2 ^ sz.toNat) o fun ea => .load ea (4 * 2 ^ sz.toNat) 9 (some ⟨d.toNat, 2 ^ sz.toNat, c.act⟩))
  | .ustg _ _ sz o => some (255, 0, c.uniAccs 0 (4 * 2 ^ sz.toNat) o fun ea => .store ea (toBytes (c.u 1) (4 * 2 ^ sz.toNat)))
  | .usts _ _ sz o => some (255, 0, c.uniAccs 1 (4 * 2 ^ sz.toNat) o fun ea => .store ea (toBytes (c.u 1) (4 * 2 ^ sz.toNat)))
  | .atom p d _ op sp o =>
    let t := effType p 7
    c.atomics sp.toNat (typeBits t / 8) t op.toNat (rndMode p) d.toNat (pairN t) true o (c.val 1) fun _ => 0
  | .red p d _ op sp o =>
    let t := effType p 7
    c.atomics sp.toNat (typeBits t / 8) t op.toNat (rndMode p) d.toNat (pairN t) false o (c.val 1) fun _ => 0
  | .cas p d _ sp o =>
    let t := effType p 9
    c.atomics sp.toNat (typeBits t / 8) t 16 0 d.toNat (pairN t) true o (c.val 2) (c.val 1)
  | .cas128 _ d _ sp o => c.atomics sp.toNat 16 9 16 0 d.toNat 4 true o (c.val 2) (c.val 1)
  | .uatom d _ op w sg sp o =>
    let ty := if op = 7 then 12 else if w then (if sg then 4 else 8) else if sg then 3 else 7
    c.uniAtomics sp.toNat (if w then 8 else 4) ty op.toNat d.toNat (if w then 2 else 1) o (c.u 1) 0
  | .ucas d _ w sp o =>
    c.uniAtomics sp.toNat (if w then 8 else 4) 9 16 d.toNat (if w then 2 else 1) o (c.u 1) (c.u 1 / 2 ^ (8 * if w then 8 else 4))
  | .mcst _ _ sz o => some (255, 0, c.uniAccs 0 (4 * 2 ^ sz.toNat) o fun ea => .mcst ea (toBytes (c.u 1) (4 * 2 ^ sz.toNat)))
  | .rchk d _ o => some (255, 0, c.uniAccs 0 64 o fun ea => .rchk ea ⟨d.toNat, 1, c.act⟩ none)
  | .resync _ o => some (255, 0, c.uniAccs 0 64 o fun ea => .resync ea)
  | _ => none

/-- Operations entered one after another. -/
def State.addOps (s : State) (l : List Op) : State := l.foldl State.addOp s

/-! ### Traps at issue -/

/-- The trap an instruction's own description gives it at issue: cause, fault address, lane (255: none named). -/
def issueTrap (i : Instr) (c : Ctx) (t : State) : Option (Nat × Nat × Nat) :=
  let tags : Option (Nat × Nat × Nat) := if c.u 0 / 2 ^ c.pre.tagCount c.crewId = 0 then none else some (0x03, 0, 255)
  let name (hi : Nat) : Option (Nat × Nat × Nat) := if c.u 0 < 2 ^ hi then none else some (0x20, c.u 0, 255)
  let own (p : Option (Nat × Nat)) (l : Nat) : Option (Nat × Nat × Nat) := p.map fun x => (x.1, x.2, l)
  let point (k : PtKind) (w : TagWord) : Option (Nat × Nat × Nat) :=
    match c.pointCheck t k w with | .error x => some (x.1, x.2, c.lane0) | .ok _ => none
  let tiles (l : List TileArg) (need : Option Nat) : Option (Nat × Nat × Nat) :=
    own (t.tilesTrap c.crewId l (if c.gang.compand.isNone then need else none)) 255
  let lanes_ (one : Bool) (bad : Nat → Option (Nat × Nat)) : Option (Nat × Nat × Nat) :=
    firstSome (fun l => own (bad l) l) (if one then [c.lane0] else lanes c.act)
  match i with
  | .tagw _ _ => tags
  | .tagf _ _ _ => tags
  | .tagclr _ => tags
  | .waity _ mode =>
    if mode.toNat ≤ 1 then tags
    else match checkScratch (c.u 0) 64 (t.partition c.crewId) with
      | some x => some (x.1, x.2, c.lane0)
      | none => if c.ringRefused t (c.u 0) then some (0x20, c.u 0, c.lane0) else none
  | .rawait _ _ _ o => own (c.recordAddr t 0 c.lane0 o 64 64).2 c.lane0
  | .rarel _ o => own (c.recordAddr t 0 c.lane0 o 64 64).2 c.lane0
  | .rapub _ o => own (c.recordAddr t 0 c.lane0 o 64 64).2 c.lane0
  | .barge _ o => match c.bargeCheck t o with | .error x => some (x.1, x.2, c.lane0) | .ok _ => none
  | .ioreq _ _ o =>
    match lanes_ false fun l => (c.recordAddr t 0 l o 32 32).2 with
    | some x => some x
    | none => lanes_ false fun l => if (c.ioRecord t o l).isNone then some (0x22, trunc (c.recordAddr t 0 l o 32 32).1 64) else none
  | .bars _ _ _ => if 1 ≤ c.u 0 ∧ c.u 0 ≤ 4096 then none else some (0x20, c.u 0, 255)
  | .tkt _ _ _ => name 12
  | .tktw _ _ => name 12
  | .tktsNext _ _ => name 12
  | .tktsSet _ _ _ => name 12
  | .qlk _ _ _ => name 11
  | .qul _ _ => name 11
  | .mma _ _ _ _ e =>
    tiles [{ val := c.u 0, size := tileSize e.fmt.toNat, peer := e.pa }, { val := c.u 1, size := tileSize e.fmt.toNat, peer := e.pb }]
      (if e.ca then some 0 else if e.cb then some 1 else none)
  | .accrd _ _ _ _ form _ => tiles [{ val := c.u 0, size := formSize form.toNat }] none
  | .accwr _ _ _ _ form => tiles [{ val := c.u 0, size := formSize form.toNat }] none
  | .qnt _ _ _ _ e => tiles [{ val := c.u 0, size := 4096 }, { val := c.u 1, size := tileSize e.fmt.toNat }] (if e.cmp then some 1 else none)
  | .dqnt _ _ _ _ e => tiles [{ val := c.u 0, size := tileSize e.fmt.toNat }, { val := c.u 1, size := 4096 }] (if e.cmp then some 0 else none)
  | .ctbl _ _ _ => tiles [{ val := c.u 0, size := 16, align := 16 }] none
  | .wcfg _ _ _ => lanes_ true fun _ => match weirOperands (t.partition c.crewId) [(c.u 0, 32)] with
      | some x => some x
      | none => if (c.weirRecord t).isNone then some (0x31, c.u 0) else none
  | .wsig _ _ _ _ bf => lanes_ false fun l => weirOperands (t.partition c.crewId) [(c.val 0 l, if bf then 2048 else 4096), (c.val 1 l, 32)]
  | .wtest _ _ _ _ _ _ _ => lanes_ false fun l => match weirOperands (t.partition c.crewId) [(c.val 1 l, 32)] with
      | some x => some x
      | none =>
        if !(t.weirAhead c.crewId).cfg then some (0x31, 0)
        else if (t.weirAhead c.crewId).ntile ≤ c.val 0 l then some (0x31, c.val 0 l) else none
  | .wskip _ _ _ _ v => if v = 0 ∧ (t.weirAhead c.crewId).cfg = false then some (0x31, 0, c.lane0) else none
  | .nbrk _ _ _ w => point .nbrk w
  | .nbrr _ _ _ w => point .nbrr w
  | .siteh _ _ _ w => point .siteh w
  | .rule _ _ _ w => point (.rule false) w
  | .ruleSub _ _ _ w => point (.rule true) w
  | .pgat _ _ _ f w => point (.pgat f) w
  | .psca _ _ _ w => point .psca w
  | .spawn _ _ _ o =>
    let base : Int := (c.u 0 : Int) + o.off.toInt * 16
    if badTarget (c.u 2) then some (0x05, 0, 255)
    else if c.u 1 = 0 ∨ 32 < c.u 1 ∨ 160 < c.launch.desc.scratch then some (0x24, 0, 255)
    else if base < 0 ∨ (2 ^ 32 : Int) < base + 16 * c.u 1 then some (0x10, trunc base 64, 255)
    else if base % 16 = 0 then none else some (0x12, trunc base 64, 255)
  | .claim n => if c.claimRefused n.toNat then some (0x03, 0, 255) else none
  | .claimTry _ n => if c.claimRefused n.toNat then some (0x03, 0, 255) else none
  | .give n => if c.gang.allot ≤ n.toNat then some (0x03, 0, 255) else none
  | .giveRole _ n => if c.gang.allot ≤ n.toNat then some (0x03, 0, 255) else none
  | .keyld _ _ o => own (c.recordAddr t 0 c.lane0 o 64 64).2 c.lane0
  | .dbgh _ _ => if (t.debugCrew c.layer (c.u 0)).isNone then some (0x20, c.u 0, 255) else none
  | _ => none

/-! ### What other instructions leave -/

/-- What an instruction leaves: the words it writes, its gang's own change, and a change of what else it names. -/
structure Plan where
  d : Nat := 255
  n : Nat := 0
  w : Nat → Option Nat := fun _ => none
  push : Nat → List (BitVec 32) := fun _ => []
  gang : Gang
  post : State → State := id

/-- One result. -/
def Plan.result (c : Ctx) (g : Gang) (d n : Nat) (f : Nat → Nat) (post : State → State := id) : Plan :=
  { d := d, n := n, w := c.writes f, push := c.pushes d n f, gang := g, post := post }

/-- One operation of the whole instruction, counted in every active thread (R49, R154). -/
def Plan.command (s : State) (c : Ctx) (g : Gang) (o : Ord) (k : OpKind) (post : State → State := id) : Plan :=
  { gang := g, post := fun w => post (w.addOp (c.op o s.next c.lane0 c.act k none)) }

/-- The gang whose run stands and waits. -/
def State.stands (s : State) (u : Issue) (w : Wait) : Gang := s.ran u fun _ t => { t with wait := w, pc := u.pc }

/-- Operation i of a state fails at its unit. -/
def State.failsAt (s : State) (i cause faddr : Nat) : State := s.modOp i fun o => { o with failed := some (cause, faddr) }

/-- A ring instruction's operation, which its unit fails where it refuses the descriptor (R238, R249). -/
def ringPlan (s : State) (c : Ctx) (t : State) (g : Gang) (o : Ord) (k : Nat → OpKind) (arrive : State → Nat → Option State) : Plan :=
  let off := (c.recordAddr t 0 c.lane0 o 64 64).1.toNat
  Plan.command s c g o (k off) fun w =>
    if t.ringOk c.crewId off then (arrive w off).getD (w.failsAt s.next 0x20 off) else w.failsAt s.next 0x20 off

/-- Results, tags, barges, rings, barriers, tickets and locks (R147, R221 to R231, R238 to R257, R280, R281, R392, R412,
R414, R426). -/
def wordPlan (i : Instr) (s : State) (u : Issue) : Option Plan :=
  let c := s.ctx i u
  let t := s.issued i u
  let g := s.moved i u
  match i with
  | .ewid _ d _ rel => some (.result c g d.toNat 1 fun l => ivWidth (c.iv 0 l) rel)
  | .ebnd p d _ v =>
    if v = 2 then
      if (lanes c.act).any (fun l => ((c.valFault l).filter (·.replay)).isSome) then none
      else some (.result c g d.toNat 2 c.valOf fun w => { w with free := w.free + 32 })
    else
      let ty := effType p 12
      some (.result c g d.toNat (pairN ty) fun l =>
        fcvt (Fmt.ofType ty) .f32 (if v = 0 then 3 else 2) false (if v = 0 then (c.iv 0 l).lo else (c.iv 0 l).hi))
  | .csrr d n => some (.result c g d.toNat 1 fun l => c.csr n.toNat l)
  | .slotr d => some (.result c g d.toNat 2 fun _ => c.gang.stamp.toNat)
  | .qlen d q room => some (.result c g d.toNat 1 fun _ =>
      if room then s.qRoom u.gang (q.toNat - 224) else (s.queue u.gang (q.toNat - 224)).length)
  | .sfq _ d _ tok fn =>
    let r : SfReq := { tok := tok.toNat, fn := fn.toNat, d := d.toNat, lanes := c.act, vals := (lanes c.act).map fun l => (l, c.val 0 l)
                       born := s.clk }
    some { d := d.toNat, n := 1, w := c.zeros, gang := { g with sf := g.sf ++ [r] } }
  | .tagw _ _ => some { gang := g }
  | .tagf d _ clr =>
    let k := c.crew.readyTag (c.u 0)
    some (.result c g d.toNat 1 (fun _ => k) fun w => if clr ∧ k < 64 then w.setTag c.crewId k .clear else w)
  | .tagclr _ => some { gang := g, post := fun w =>
      (tagsOf (c.u 0)).foldl (fun w k => if c.crew.tag k = .ready ∨ c.crew.tag k = .held then w.setTag c.crewId k .clear else w) w }
  | .waity _ _ => some { gang := g }
  | .rawait d _ free o =>
    some (ringPlan s c t g o
      (fun off => .rawait off (if free then ringProd (t.ring c.crewId off) else ringCons (t.ring c.crewId off)) free ⟨d.toNat, 1, c.act⟩)
      fun w off => some (if free then w.setRing c.crewId off 8 ((ringProd (t.ring c.crewId off) + 1) % 2 ^ 32)
        else w.setRing c.crewId off 20 ((ringCons (t.ring c.crewId off) + 1) % 2 ^ 32)))
  | .rarel _ o =>
    some (ringPlan s c t g o .rarel fun w off => if ringRd (t.ring c.crewId off) = ringCons (t.ring c.crewId off) then none else some w)
  | .rapub _ o =>
    some (ringPlan s c t g o (fun off => .rapub off (ringRes (t.ring c.crewId off)))
      fun w off => if (w.ringAdvance c.crewId off s.next none).2 then some (w.ringAdvance c.crewId off s.next none).1 else none)
  | .barge _ o =>
    match c.bargeCheck t o with
    | .error _ => none
    | .ok b =>
      some { gang := g, post := fun w =>
        let w := (match b.tag with | some k => w.setTag c.crewId k .pending | none => w)
        let w := w.addOp (c.op o s.next c.lane0 c.act (.barge b false) none)
        match b.ring with
        | none => w
        | some off =>
          let r := w.ringAdvance c.crewId off s.next (some b.restart)
          if r.2 then r.1 else w.failsAt s.next 0x20 off }
  | .ioreq _ _ o => some (.command s c g o (.ioreq ((lanes c.act).filterMap fun l => c.ioRecord t o l) false))
  | .barr b o =>
    let r := (s.barrier c.crewId b.toNat).arrive
    some { gang := g, post := fun w => (w.setBarrier c.crewId b.toNat r.2).addOp (c.op o s.next c.lane0 c.act (.barr b.toNat r.1 none) none) }
  | .barrPhase d b o =>
    let r := (s.barrier c.crewId b.toNat).arrive
    some { gang := g, post := fun w =>
      (w.setBarrier c.crewId b.toNat r.2).addOp (c.op o s.next c.lane0 c.act (.barr b.toNat r.1 (some ⟨d.toNat, 1, c.act⟩)) none) }
  | .barw _ b o => some (.command s c g o (.barw b.toNat (c.u 0 % 65536)) fun w => w.wakeBarrier c.crewId b.toNat)
  | .bars _ b o => some (.command s c g o (.bars b.toNat (c.u 0)))
  | .tkt d _ o => some (.command s c g o (.tkt (c.u 0) ⟨d.toNat, 1, c.act⟩))
  | .tktw _ _ => some { gang := if s.reached c.layer (c.u 0) (c.u 1) then g else s.stands u (.tktw (c.u 0) (c.u 1) false) }
  | .tktsNext _ o => some (.command s c g o (.tkts (c.u 0) none))
  | .tktsSet _ _ o => some (.command s c g o (.tkts (c.u 0) (some (c.u 1))))
  | .qlk d _ o =>
    let k := look (s.layer c.layer).locks (c.u 0) {}
    some (.command s c (s.stands u (.qlk (c.u 0))) o (.qlk (c.u 0) ⟨d.toNat, 1, c.act⟩ none) fun w =>
      if k.holder = some u.gang ∨ u.gang ∈ k.fifo then w.failsAt s.next 0x20 (c.u 0)
      else w.setLayer c.layer { s.layer c.layer with locks := insert (s.layer c.layer).locks (c.u 0) { k with fifo := k.fifo ++ [u.gang] } })
  | .qul _ o =>
    some (.command s c g o (.qul (c.u 0)) fun w =>
      if (look (s.layer c.layer).locks (c.u 0) {}).holder = some u.gang then w else w.failsAt s.next 0x20 (c.u 0))
  | _ => none

/-- A matrix command with its tiles: the first is A, the second B, the last D (R320, R322). -/
def matPlan (s : State) (c : Ctx) (g : Gang) (o : Ord) (m : MatCmd) (l : List TileArg) : Plan :=
  let at_ (k : Nat) : Nat × Nat := match l[k]? with | some a => (s.tileAt c.crewId a).getD (0, 0) | none => (0, 0)
  let m := { m with a := at_ 0, b := at_ 1, d := at_ (l.length - 1), table := c.gang.compand }
  { gang := g, post := fun w =>
      (match m.tag with | some k => w.setTag c.crewId k .pending | none => w).addOp (c.op o s.next c.lane0 c.act (.matrix m) none) }

/-- A weir command of the active lanes, or of the lowest (R340). -/
def weirPlan (s : State) (c : Ctx) (g : Gang) (o : Ord) (d n : Nat) (k : WeirKind) (ls : List WeirLane) : Plan :=
  { Plan.command s c g o (.weir k ls) with d := d, n := n, w := c.zeros }

/-- A point command, its tag pending (R358). -/
def pointPlan (s : State) (c : Ctx) (t : State) (g : Gang) (k : PtKind) (o : Ord) (w : TagWord) : Option Plan :=
  match c.pointCheck t k w with
  | .error _ => none
  | .ok p => some { gang := g, post := fun w =>
      (match p.tag with | some k => w.setTag c.crewId k .pending | none => w).addOp (c.op o s.next c.lane0 c.act (.point p) none) }

/-- The matrix, weir and point-cloud instructions: each issues its command (R317 to R330, R338 to R348, R354 to R367). -/
def enginePlan (i : Instr) (s : State) (u : Issue) : Option Plan :=
  let c := s.ctx i u
  let t := s.issued i u
  let g := s.moved i u
  let rnd (p : OPfx) : Nat := match p with | none => 0 | some q => q.rnd.toNat
  match i with
  | .mma _ _ _ o e =>
    some (matPlan s c g o { kind := .mma, acc := e.acc.toNat, fmt := e.fmt.toNat, ca := e.ca, cb := e.cb, za := e.za
                            tag := if e.nt then none else some e.ctag.toNat }
      [{ val := c.u 0, size := tileSize e.fmt.toNat, peer := e.pa }, { val := c.u 1, size := tileSize e.fmt.toNat, peer := e.pb }])
  | .accz _ o acc => some (matPlan s c g o { kind := .accz, acc := acc.toNat } [])
  | .accrd p _ o acc form fin =>
    some (matPlan s c g o { kind := .accrd, acc := acc.toNat, form := form.toNat, fin := fin, rnd := rnd p }
      [{ val := c.u 0, size := formSize form.toNat }])
  | .accwr _ _ o acc form =>
    some (matPlan s c g o { kind := .accwr, acc := acc.toNat, form := form.toNat } [{ val := c.u 0, size := formSize form.toNat }])
  | .qnt p _ _ o e =>
    some (matPlan s c g o { kind := .qnt, fmt := e.fmt.toNat, cmp := e.cmp, ori := e.ori, rnd := rnd p }
      [{ val := c.u 0, size := 4096 }, { val := c.u 1, size := tileSize e.fmt.toNat }])
  | .dqnt p _ _ o e =>
    some (matPlan s c g o { kind := .dqnt, fmt := e.fmt.toNat, cmp := e.cmp, ori := e.ori, rnd := rnd p }
      [{ val := c.u 0, size := tileSize e.fmt.toNat }, { val := c.u 1, size := 4096 }])
  | .ctbl _ _ o => some (matPlan s c g o { kind := .ctbl } [{ val := c.u 0, size := 16, align := 16 }])
  | .wcfg _ _ o => some (weirPlan s c g o 255 0 (.wcfg ((c.weirRecord t).getD {})) [{ lane := c.lane0 }])
  | .wsig _ _ _ o bf =>
    some (weirPlan s c g o 255 0 (.wsig bf) ((lanes c.act).map fun l => { lane := l, a := c.val 0 l, c := c.val 1 l }))
  | .wtest _ d _ _ o _ skm =>
    some (weirPlan s c g o d.toNat 2 (.wtest d.toNat skm.toNat)
      ((lanes c.act).map fun l => { lane := l, a := c.val 0 l, c := c.val 1 l, n := c.val 2 l }))
  | .wskip _ d _ o v =>
    some (weirPlan s c g o d.toNat (if v = 2 then 2 else 1) (.wskip v.toNat (if v = 0 then c.u 0 else 0) d.toNat) [{ lane := c.lane0 }])
  | .wstep _ o => some (weirPlan s c g o 255 0 (.wstep none) [{ lane := c.lane0 }])
  | .wstepSet _ _ o => some (weirPlan s c g o 255 0 (.wstep (some (c.u 0))) [{ lane := c.lane0 }])
  | .nbrk _ _ o w => pointPlan s c t g .nbrk o w
  | .nbrr _ _ o w => pointPlan s c t g .nbrr o w
  | .siteh _ _ o w => pointPlan s c t g .siteh o w
  | .rule _ _ o w => pointPlan s c t g (.rule false) o w
  | .ruleSub _ _ o w => pointPlan s c t g (.rule true) o w
  | .pgat _ _ o f w => pointPlan s c t g (.pgat f) o w
  | .psca _ _ o w => pointPlan s c t g .psca o w
  | _ => none

/-- Tasks, claims, slots and the system instructions (R374, R376, R385, R388, R414, R426, R444 to R453). -/
def systemPlan (i : Instr) (s : State) (u : Issue) : Option Plan :=
  let c := s.ctx i u
  let t := s.issued i u
  let g := s.moved i u
  let flush (p : Bin → Bool) : Plan :=
    { gang := g
      post := fun w =>
        let w := w.beforeFlush u.gang
        w.setCluster c.layer c.crew.cluster ((w.cluster c.layer c.crew.cluster).flush fun b => b.launch == c.crew.launch && p b) }
  match i with
  | .spawn _ _ _ o => some (.command s c g o (.spawn (c.u 2) ((c.u 0 : Int) + o.off.toInt * 16).toNat (c.u 1)))
  | .bflush _ => some (flush fun b => b.entry == c.u 0)
  | .bflushAll => some (flush fun _ => true)
  | .claim n => some { gang := s.stands u .claim, post := fun w =>
      (w.modCrew c.crewId fun x => { x with claims := x.claims ++
        [{ gang := u.gang, inner := c.gang.handler.isSome, pc := u.pc, next := c.next, lanes := u.run, n := n.toNat }] }).grantPool c.crewId }
  | .cyield => some { gang := s.stands u .cyield }
  | .slotw _ => some { gang := if s.slotReached (c.u 0) then g else s.stands u (.slotw (c.u 0)) }
  | .csrw _ n => some { gang := g, post := fun w => c.setCsr w n.toNat (c.u 0 % 2 ^ 32) }
  | .icunlk _ _ => some { gang := g, post := fun w => w.modCrew c.crewId fun k => { k with lost := false, locked := k.locked.filter fun p =>
      !(c.u 1 == 0 || (decide (c.u 0 / 64 * 64 ≤ p.1) && decide (p.1 < c.u 0 / 64 * 64 + 64 * c.u 1))) } }
  | .tlbiAll o => some (.command s c g o (.tlbi none) State.settle)
  | .tlbiVa _ o => some (.command s c g o (.tlbi (some (c.u 0))) State.settle)
  | .keyld _ _ o => some (.command s c g o (.keyld (c.u 1) (c.recordAddr t 0 c.lane0 o 64 64).1.toNat) State.settle)
  | .ctxsv _ o => some (.command s c g o (.ctxsv (c.u 0)) fun w =>
      match (s.crewByArea c.layer (c.u 0) fun k => k.status == .resident).bind s.convoyOf with
      | none => w.failsAt s.next 0x20 (c.u 0)
      | some v => if !c.crew.task ∧ v = c.crew.convoy then w.failsAt s.next 0x20 (c.u 0) else w.settle)
  | .ctxld _ o => some (.command s c g o (.ctxld (c.u 0)) State.settle)
  | .brk _ =>
    if (s.layer c.layer).dbgctl % 2 = 1 then
      some { gang := g, post := fun w => w.modCrew c.crewId fun k => { k with hm := k.hm ||| BitVec.ofNat 4 (2 ^ c.gang.role.toNat) } }
    else none
  | .dbgh _ v =>
    match s.debugCrew c.layer (c.u 0) with
    | none => none
    | some k =>
      match t.debugOp k v.toNat (c.u 0 % 16) with
      | .error _ => none
      | .ok _ => some { gang := g, post := fun w => match w.debugOp k v.toNat (c.u 0 % 16) with | .ok x => x | .error _ => w }
  | _ => none

/-! ### Intervals -/

/-- An arithmetic interval instruction: its destination, its operator's code, its number of operands (R265, R276). -/
def intervalOf (i : Instr) : Option (Reg × Nat × Nat) :=
  match i with
  | .eadd _ d _ _ => some (d, 1, 2)
  | .esub _ d _ _ => some (d, 2, 2)
  | .emul _ d _ _ => some (d, 3, 2)
  | .ediv _ d _ _ => some (d, 4, 2)
  | .esqrt _ d _ => some (d, 5, 1)
  | .eneg _ d _ => some (d, 6, 1)
  | .esq _ d _ => some (d, 7, 1)
  | .efma _ d _ _ => some (d, 8, 3)
  | _ => none

/-- Lane l's operands. -/
def Ctx.ivs (c : Ctx) (arity l : Nat) : List IvSrc := (List.range arity).map fun k => c.iv k l

/-- The bounds and the domain of lane l's result (R276). -/
def Ctx.ivResult (c : Ctx) (op arity l : Nat) : IvRes :=
  let x (k : Nat) : IvSrc := (c.ivs arity l).getD k ⟨0, 0, 0, 0, false⟩
  ivOp op (x 0) (x 1) (x 2)

/-- Lane l's flag word (R259, R276): exact where every operand is exact and the bounds meet; the other flags gather. -/
def Ctx.ivFlags (c : Ctx) (op arity l : Nat) : Nat :=
  let r := c.ivResult op arity l
  let any (k : Nat) : Bool := (c.ivs arity l).any fun y => y.flag k
  ivWord ((c.ivs arity l).all (fun y => y.flag 1) && r.lo == r.hi) (any 2) (any 3 || op == 5) (any 4 || r.dom) r.lo r.hi

/-- The nodes lane l needs: its operator's, and one for each bare operand (R266, R275). -/
def Ctx.ivNeed (c : Ctx) (arity l : Nat) : Nat := 1 + ((c.ivs arity l).filter fun x => !x.hv).length

/-- The lanes act in ascending order until a spill write faults (R266, R268, R275). -/
def runLanes (ls : List Nat) (t : State) (act : State → Nat → State × Option VaFault) : State × Option VaFault :=
  ls.foldl (init := (t, none)) fun a l => match a.2 with | some _ => a | none => act a.1 l

/-- One lane of an arithmetic interval instruction: its node, then its e register (R60, R266, R276). -/
def Ctx.ivLane (c : Ctx) (d : Reg) (op arity : Nat) (t : State) (l : Nat) : State × Option VaFault :=
  let n := t.opNode c.crewId op (c.ivs arity l)
  let r := c.ivResult op arity l
  (n.1.putE c.gid (d.toNat / 4) l r.lo r.hi (n.1.handleOf c.crewId n.2.1) (c.ivFlags op arity l), n.2.2)

/-- One lane of a leaf instruction (R277): a leaf of code opc and VAL v, the exact value's bounds. -/
def Ctx.leafLane (c : Ctx) (d : Reg) (opc : Nat) (val : Nat → Nat) (v : Nat → Ep) (t : State) (l : Nat) : State × Option VaFault :=
  let n := t.alloc c.crewId { opc := opc, rc := 0, val := val l }
  let lo := (v l).f32 3
  let hi := (v l).f32 2
  (n.1.putE c.gid (d.toNat / 4) l lo hi (n.1.handleOf c.crewId n.2.1) (ivWord (lo == hi) false false false lo hi), n.2.2)

/-- One lane of EMOV (R268, R278): a copy retains the node; a bare one, not adopted, copies words and holds none; one that adopts a
spilled node waits for a replayable fault of its read. -/
def Ctx.emovLane (c : Ctx) (d a : Reg) (adopt : Bool) (t : State) (l : Nat) : State × Option VaFault :=
  let x := c.iv 0 l
  if d = a ∧ (x.hv = true ∨ adopt = false) then (t, none)
  else if adopt = true then
    ((t.retain c.crewId x.ix).putE c.gid (d.toNat / 4) l x.lo x.hi x.handle (bits x.word 5 1 * 2 + 1), (c.adoptFault c.pre l).filter (·.replay))
  else if x.hv = true then
    ((t.retain c.crewId x.ix).putE c.gid (d.toNat / 4) l x.lo x.hi x.handle (bits x.word 5 1 * 2 + 1), none)
  else (t.putE c.gid (d.toNat / 4) l x.lo x.hi x.handle (x.word / 2 * 2), none)

/-- What an instruction with e destinations does: the destination, each lane's trap cause, the nodes it needs, its act. -/
structure IvPlan where
  d : Reg
  bad : Nat → Option Nat
  need : State → Nat → Nat
  act : State → Nat → State × Option VaFault
  /-- The free values its lanes may take (R268). -/
  free : Nat
  /-- The fault that delays a read it makes (R268). -/
  delay : Option VaFault := none

/-- The instructions with e destinations (R273 to R282). -/
def intervalPlan (i : Instr) (c : Ctx) (t : State) : Option IvPlan :=
  match i with
  | .eleaf p d _ =>
    let f := Fmt.ofType (effType p 12)
    let v (l : Nat) : Fv := unpack f false (c.val 0 l % 2 ^ f.width)
    some ⟨d, fun l => match v l with | .fin .. => none | _ => some 0x28, fun _ _ => 1,
      c.leafLane d 0x10 (fun l => pack .f64 0 false (v l)) fun l => fvEp (v l), 0, none⟩
  | .eleafi p d _ =>
    let v (l : Nat) : Int := extT (if effType p 3 = 4 then 4 else if effType p 3 = 7 then 7 else 3) (c.val 0 l)
    some ⟨d, fun _ => none, fun _ _ => 1, c.leafLane d 0x11 (fun l => trunc (v l) 64) fun l => .fin (v l) 0, 0, none⟩
  | .emov _ d a adopt =>
    some ⟨d, fun l =>
        let x := c.iv 0 l
        if x.hv = true ∨ adopt = false then none
        else if wellFormedIv x.lo x.hi = false then some 0x28
        else if c.adoptStale t l = true then some 0x29 else none,
      fun _ _ => 0, c.emovLane d a adopt, if adopt then 32 else 0, none⟩
  | .esever _ d a opaq =>
    some ⟨d, fun l => if (c.iv 0 l).bad then some 0x28 else none,
      fun t l => if c.severs t (d == a) l then 0 else 1, fun t l => t.sever c d a l opaq, 32,
      firstSome (fun l => (c.severFault t (d == a) l).filter (·.replay)) (lanes c.act)⟩
  | _ =>
    match intervalOf i with
    | some (d, op, n) =>
      some ⟨d, fun l => if (c.ivs n l).any IvSrc.bad then some 0x28 else none, fun _ l => c.ivNeed n l, c.ivLane d op n, 0, none⟩
    | none => none

/-- The state past the free values of such an instruction. -/
def IvPlan.past (p : IvPlan) (t : State) : State := { t with free := t.free + p.free }

/-- It needs nodes. -/
def IvPlan.needs (p : IvPlan) (c : Ctx) (t : State) : Bool := ((lanes c.act).map (p.need (p.past t))).sum != 0

/-- The state in which the lanes of such an instruction act: where they need nodes, every reclamation has run (R271, R275). -/
def IvPlan.start (p : IvPlan) (c : Ctx) (t : State) : State :=
  if p.needs c t then (p.past t).reclaimAll c.crewId else p.past t

/-- No replayable fault delays it (R268), and its nodes are free (R275, R279). -/
def IvPlan.fits (p : IvPlan) (c : Ctx) (t : State) : Bool :=
  p.delay.isNone && (!p.needs c t || ((p.start c t).reclaimDelay c.crewId).isNone) &&
  decide (((lanes c.act).map (p.need (p.start c t))).sum ≤ (p.start c t).freeNodes c.crewId)

/-! ### Explicit effects -/

/-- ECMP and ESGN with open lanes (R290): they park, each with its request; `settle` writes the others. -/
def Ctx.parks (c : Ctx) (t : State) (cmp : Option (Nat × Nat)) (d u : Nat) : State :=
  (lanes (c.openLanes cmp.isSome)).foldl (fun t l => t.postReq c l cmp d u)
    (t.modGang c.gid fun g => g.modLanes (c.openLanes cmp.isSome) fun th => { th with wait := .parked, pc := c.pc })

/-- The sign the bounds of lane l decide (R286). -/
def Ctx.sign (c : Ctx) (cmp : Bool) (l : Nat) : Int := (signByBounds (c.iv 0 l) (c.iv2 cmp l)).getD 0

/-- Instructions that change more than their gang and one named thing, by the operations their rules name (R92, R290, R383,
R385 to R387, R427, R437, R438, R445). -/
def effectOf (i : Instr) (s : State) (u : Issue) : Option State :=
  let c := s.ctx i u
  let t := s.issued i u
  let settled (cmp : Bool) : BitVec 32 := c.act &&& ~~~ c.openLanes cmp
  match i with
  | .exit =>
    some (t.modGang u.gang fun g => g.exit u.run)
  | .claimTry d n =>
    if n.toNat ≤ c.crew.pool then
      some (c.write ((t.modCrew c.crewId fun x => { x with pool := x.pool - n.toNat }).modGang u.gang fun g => g.grant n.toNat)
        d.toNat 1 fun _ => 1)
    else some (c.write t d.toNat 1 fun _ => 0)
  | .give n => some (((c.takeBack t n.toNat).modCrew c.crewId fun x => { x with pool := x.pool + n.toNat }).grantPool c.crewId)
  | .giveRole r n =>
    let x := (c.takeBack t n.toNat).grantFrom c.crewId (some r) n.toNat
    some ((x.1.modCrew c.crewId fun k => { k with pool := k.pool + x.2 }).grantPool c.crewId)
  | .tdone k act =>
    match c.gang.handler, c.gang.task with
    | some h, some tk =>
      let done := laneSet fun l => h.resolved.any (·.1 == l)
      let now := h.trap.lanes &&& c.gang.mask k.toNat &&& c.gang.live &&& ~~~ done
      let h' := { h with resolved := h.resolved ++ (lanes now).map fun l => (l, act.toNat) }
      let t' := t.modGang u.gang fun g => let g := { g with handler := some h' }; if act = 3 then g.exit now else g
      if now = 0 then some t
      else if h.trap.lanes &&& (t'.gang u.gang).live &&& ~~~ (done ||| now) = 0 then some (t'.leaveHandler u.gang h' fun t => t.resolve u.gang h' tk)
      else some t'
    | _, _ => some t
  | .trap n => some ((s.advance u c.next).trapAt u i.len 0x07 n.toNat 255)
  | .brk n => if (s.layer c.layer).dbgctl % 2 = 1 then none else some ((s.advance u c.next).trapAt u i.len 0x08 n.toNat 255)
  | .eret => some (match c.gang.handler with | some h => t.leaveHandler u.gang h id | none => t)
  | .eretKill => some (match c.gang.handler with | some h => t.killCrew c.crewId h.trap.cause h.trap.faddr | none => t)
  | .iclock d _ _ =>
    let ls := (List.range (Nat.min (c.u 1) 256)).map fun k => c.u 0 / 64 * 64 + 64 * k
    let w := (ls.foldl (fun t x => t.lockLine c.crewId c.gang.level x) t).modCrew c.crewId fun k => { k with lost := false }
    some (c.write w d.toNat 1 fun _ => (ls.filter fun x => (find (w.crew c.crewId).locked x).isSome).length)
  | .ecmp _ cc k _ v =>
    if (lanes c.act).any (c.ivBad true) then none
    else if settled true = 0 then some (c.parks t (some (cc.toNat, k.toNat)) 0 v.toNat)
    else some ((c.parks t (some (cc.toNat, k.toNat)) 0 v.toNat).writeMaskLanes u.gang k.toNat (settled true)
      fun l => icond cc.toNat (c.sign true l) 0)
  | .esgn _ d _ v =>
    if (lanes c.act).any (c.ivBad false) then none
    else some (c.zeroRest ((lanes (settled false)).foldl (fun t l => t.writeVs u.gang d.toNat 1 l (trunc (c.sign false l) 32))
      (c.parks t none d.toNat v.toNat)) d.toNat 1)
  | _ => none

/-! ### Acts: the state an act leaves, where it is due -/

/-- The target operation, where it is in flight, its edges are satisfied and nothing has captured or failed it (R157, R178). -/
def State.live? (s : State) : Option Op :=
  match s.opAt s.choice.target with
  | some o => if o.captured || o.failed.isSome || !s.edgesMet o then none else some o
  | none => none

/-- The gang's threads that wait as `p` says run past their instruction, of n bytes. -/
def State.wake (s : State) (gid n : Nat) (p : Wait → Bool) : State :=
  s.modGang gid fun g => { g with threads := g.threads.map fun t => if p t.wait then { t with wait := .none, pc := t.pc + n } else t }

/-- Loads, stores, atomics, translation, barriers, tickets, locks, sleeps and the aqueduct (R80, R101, R147, R155, R178, R190 to
R200, R207, R213 to R231, R405 to R414, R448). -/
def memoryAct (a : Instr) (s : State) : Option State :=
  let i := s.choice.target
  match a with
  | .sleepEnd =>
    let g := s.gang i
    let x := g.thread s.choice.lane
    match x.wait with
    | .sleep wake =>
      if wake < s.clk ∧ hasLane g.live s.choice.lane = true then
        some (s.modGang i fun g => { g with threads := g.threads.mapIdx fun l t => (
          if l < 32 ∧ t.wait = .sleep wake ∧ t.pc = x.pc then { t with wait := .none } else t) })
      else none
    | _ => none
  | .starvationTurn => if s.starved i then some (s.modGang i fun g => { g with offer := s.starvationPick (fun _ t => .next t) i }) else none
  | .sfqComplete =>
    match (s.gang i).sf.find? (·.tok == s.choice.unit) with
    | none => none
    | some r =>
      if s.sfFirst i r then
        some ((((r.vals.filter fun v => hasLane (s.gang i).live v.1).foldl (fun t v => t.writeVs i r.d 1 v.1 (Sf.eval r.fn (s.ftz i) v.2))
          (s.modGang i fun x => { x with sf := x.sf.filter (·.tok != r.tok) }))).enterTrap i)
      else none
  | .loadComplete =>
    match s.opAt i with
    | some o =>
      (match o.kind, o.place with
       | .load ea size ty d, some p =>
         if o.captured || s.readBlocked i o then none
         else if s.choice.unit = 1 then
           if o.readsEarly p then some (s.modOp i fun o => { o with early := some (s.readAt p size) }) else none
         else if !s.edgesMet o then none
         else match s.readMeets o p ea size with
         | .error x => some (x.1.fail i x.2.1 x.2.2 o.lane none)
         | .ok t =>
           let t := t.hostAnswer p size
           some (t.finish i d (loadValue ty (if o.vol then t.readAt p size else t.loadBytes i o p size)))
       | _, _ => none)
    | none => none
  | .storeComplete =>
    match s.opAt i with
    | some o =>
      (match o.kind, o.place with
       | .store ea _, some p =>
         let l := s.siblings i o
         if o.captured || o.byAqueduct then none
         else if o.visible then some (s.finish i none 0)
         else if p.cached = true ∧ o.vol = false ∧ s.choice.unit = 4 then (if s.canLeak l then some (s.leak l) else none)
         else if p.cached = true ∧ o.vol = false ∧ (s.choice.unit ≠ 0 ∨ (o.scope = 0 ∧ o.buffered = false)) then
           let v := s.choice.unit - 1
           if v ≤ Nat.min o.scope 2 ∧ (o.buffered = false ∨ o.shown < v) ∧ s.canBuffer l = true then
             some (if s.staleAt p then s.fail i 0x19 ea o.lane none else (s.enterBuffer v l).enterTrap o.gang)
           else none
         else if !o.buffered && l.all (·.2.posted) then (if s.canBuffer l then some ((s.enterBuffer o.scope l).enterTrap o.gang) else none)
         else if !s.groupReady l then none
         else match p.isHost && !o.posted, s.choice.answer with
         | true, .status _ => some (s.fail i 0x17 ea o.lane none)
         | _, _ => some (if s.staleAt p then s.fail i 0x19 ea o.lane none else (l.foldl (fun t q => t.writeOp q.1) s).finish i none 0)
       | _, _ => none)
    | none => none
  | .prefetchComplete =>
    match s.opAt i with
    | some o =>
      (match o.kind with
       | .prefetch ea _ =>
         if o.captured || !s.edgesMet o then none
         else match s.tlbHit o.layer (s.viaOf o.crew) ea, s.translate o.layer (s.viaOf o.crew) .read false ea with
           | some _, .ok p => some ((s.readAhead o.layer p).finish i none 0)
           | _, _ => some (s.finish i none 0)
       | _ => none)
    | none =>
      match s.translate s.choice.layer 0 .fetch false s.choice.value with
      | .ok p => some (s.readAhead s.choice.layer p)
      | .fault .. => none
  | .pageTableWalk =>
    match s.opAt i with
    | some o =>
      if o.translates && !o.waiting && o.failed.isNone && !o.captured then
        o.kind.access.map fun x => (s.fillTlb o.layer (s.viaOf o.crew) x.1).noteTranslation i
      else none
    | none => none
  | .replay => some (s.replay s.choice.layer)
  | .operationFailure =>
    match s.opAt i with
    | some o => if o.captured || o.kind.ownFault then none else o.failed.map fun x => s.fail i x.1 x.2 o.lane none
    | none => none
  | .hostCompletionTimeout =>
    match s.opAt i with
    | some o =>
      (match o.place with
       | some (.host port _) => if !o.captured && !o.visible && !(o.kind.isStore && o.posted) && s.edgesMet o && s.timedOut port o.sent then some (s.hostAbort i o) else none
       | _ => none)
    | none => none
  | .atomicPerform =>
    match s.opAt i with
    | some o =>
      (match o.kind, o.place with
       | .atomic ea size op _ _ _ _ _ none, some p =>
         let l := s.atomicGroup i o
         if o.captured || !s.atomicReady i o then none
         else match p, s.choice.answer, l.find? (·.2.lane == s.choice.lane) with
         | .host .., .status _, some (j, q) => some (if op = 0 then s.hostAbort i o else (s.performGroup l op size (some j)).hostAbort j q)
         | .host .., .status _, none => some (s.hostAbort i o)
         | _, _, _ =>
           match s.readMeets o p ea size with
           | .error x => some (x.1.fail i x.2.1 x.2.2 o.lane none)
           | .ok t => some (t.performGroup l op size none)
       | _, _ => none)
    | none => none
  | .atomicComplete =>
    match s.opAt i with
    | some o =>
      (match o.kind with
       | .atomic _ _ _ _ _ _ _ d (some old) => if o.captured then none else some (s.finish i d old)
       | _ => none)
    | none => none
  | .barrierArrivalCounts =>
    match s.opAt i with
    | some o =>
      if o.captured || !s.edgesMet o then none
      else (match o.kind with
        | .barr b p d =>
          some (((s.setBarrier o.crew b (((s.barrier o.crew b).count p).settle 5)).finish i d p).wakeBarrier o.crew b)
        | .barw b _ => some (s.wakeBarrier o.crew b)
        | _ => none)
    | none => none
  | .barsActs =>
    match s.opAt i with
    | some o =>
      (match o.kind with
       | .bars b x =>
         if o.captured || !s.edgesMet o then none
         else some ((s.setBarrier o.crew b { s.barrier o.crew b with exp := x }).finish i none 0)
       | _ => none)
    | none => none
  | .tktComplete =>
    match s.opAt i with
    | some o =>
      (match o.kind with
       | .tkt x d =>
         if o.captured || !s.edgesMet o then none
         else
           let v := s.ticket o.layer x
           some ((s.setTicket o.layer x ((v.1 + 1) % 2 ^ 32, v.2)).finish i (some d) v.1)
       | _ => none)
    | none => none
  | .tktsUpdate =>
    match s.opAt i with
    | some o =>
      (match o.kind with
       | .tkts x y =>
         if o.captured || !s.edgesMet o then none
         else
           let v := s.ticket o.layer x
           some (((s.setTicket o.layer x (match y with | some y => (y, y) | none => (v.1, (v.2 + 1) % 2 ^ 32))).broadcast o.layer x).finish i none 0)
       | _ => none)
    | none => none
  | .tktwWake => if s.seated i then some (s.wake i 4 fun w => match w with | .tktw _ _ met => met | _ => false) else none
  | .slotwWake => if s.seated i then some (s.wake i 4 fun w => match w with | .slotw x => s.slotReached x | _ => false) else none
  | .qlkGrant =>
    match s.opAt i with
    | some o =>
      (match o.kind with
       | .qlk x _ _ =>
         let t := s.grantLock o.layer x
         if o.failed.isSome || !s.edgesMet o then none
         else (match t.opAt i with
          | some p =>
            (match p.kind with
             | .qlk _ d (some v) =>
               if p.captured then some t
               else some ((t.modGang o.gang fun g => g.modLanes o.threads fun th =>
                 if th.wait = .qlk x then { th with wait := .none, pc := th.pc + 4 } else th).finish i (some d) v)
             | _ => some t)
          | none => some t)
       | _ => none)
    | none => none
  | .qulRelease =>
    match s.live? with
    | some o => (match o.kind with | .qul x => some ((s.freeLock o.layer x false).finish i none 0) | _ => none)
    | none => none
  | .aqueductSlot =>
    let key := Nat.max (4 * s.slots) s.aqKey
    let units := s.slotQueue.take (4 * s.slots + 4 - key)
    if s.ready.getLsbD 27 = true ∧ units ≠ [] then
      some (units.zipIdx.foldl (fun t u => t.takeChannel u.1 (key + u.2)) s)
    else none
  | .aqueductWriteApply =>
    match s.opAt i with
    | some o =>
      (match o.key, o.place with
       | some k, some (.replica l r off) =>
         (match o.kind with
           | .mcst _ data =>
             if s.keyTurn [(i, o)] = true ∧ s.bufferedBefore [(i, o)] = false then
               some (((s.applyWrite l r off data o.skips).freshen o (s.aqRanges l r off data.length)).stampDone i k o)
             else none
           | .store _ _ =>
             if o.visible then some (s.stampDone i k o)
             else if s.groupReady (s.siblings i o) then some (((s.siblings i o).foldl (fun t q => t.writeOp q.1) s).stampDone i k o)
             else none
           | _ => none)
       | _, _ => none)
    | none => none
  | .rchkComplete =>
    match s.opAt i with
    | some o =>
      (match o.kind, o.key, o.place with
       | .rchk _ d (some x), some k, _ =>
         if decide (224 ≤ d.reg) && s.qRoom o.gang (d.reg - 224) == 0 then none
         else some ((if d.reg < 224 then s.writeDest o.gang d fun _ => x else s.push o.gang (d.reg - 224) [x]).stampDone i k o)
       | .rchk ea d none, some _, some (.replica l r off) =>
         if !s.keyTurn [(i, o)] then none
         else (match s.readMeets o (.replica l r off) ea 64 with
           | .error x => some (x.1.fail i x.2.1 x.2.2 o.lane none)
           | .ok t =>
             some (t.modOp i fun o => { o with visible := true, kind := .rchk ea d (some (t.replicaCheck l r off o.slotAsleep o.slotStale)) }))
       | _, _, _ => none)
    | none => none
  | .resyncComplete =>
    match s.opAt i with
    | some o =>
      (match o.kind, o.key, o.place with
       | .resync _, some k, some (.replica l r _) =>
         let e := look (s.layer l).regions r 0
         let src := s.key (refPlace e 0)
         let dst := s.key (.replica l r 0)
         let own := s.recordOf (.replica l r 0)
         let n := regionExtent e
         if o.visible then (if s.awake l then some ((s.setStale l r ((s.removeOp i).resyncs r l)).stampDone i k o) else none)
         else if !s.keyTurn [(i, o)] then none
         else match s.poison.find? fun p => decide (src < p * 64 + 64) && decide (p * 64 < src + n) with
         | some p => some (s.fail i 0x1C (regionVbase e + (p * 64 - src)) o.lane none)
         | none =>
           some (((({ s with
             mem := Memory.copyRange (s.memUnder own src n) s.mem src dst n
             lineKeys := (linesOf dst n).foldl (fun m line => put m line own 0) s.lineKeys
             poison := s.poison.filter fun p => !(decide (dst ≤ p * 64) && decide (p * 64 + 64 ≤ dst + n)) }).noteCorrected l).freshen o
               [(dst, n)]).modOp i fun o => { o with visible := true })
       | _, _, _ => none)
    | none => none
  | _ => none

/-- The part's barges that have not ended, on the cluster of an operation's crew: their numbers, and which the engine has
taken (R511). -/
def State.clusterBarges (s : State) (o : Op) : List (Nat × Bool) :=
  s.ops.filterMap fun p =>
    match p.2.kind with
    | .barge _ taken =>
      if (s.crew p.2.crew).layer = (s.crew o.crew).layer ∧ (s.crew p.2.crew).cluster = (s.crew o.crew).cluster ∧ p.2.captured = false then
        some (p.1, taken)
      else none
    | _ => none

/-- Barges, rings and I/O requests (R245 to R247, R250, R257, R511). -/
def bargeAct (a : Instr) (s : State) : Option State :=
  let i := s.choice.target
  match a with
  | .bargeEngineTake =>
    match s.opAt i with
    | some o =>
      (match o.kind with
       | .barge b false =>
         let all := s.clusterBarges o
         if o.captured = false ∧ o.failed = none ∧ (all.filter (·.2)).length < 2 ∧ all.all (fun p => p.2 || decide (i ≤ p.1)) = true then
           some (s.modOp i fun o => { o with kind := .barge b true })
         else none
       | _ => none)
    | none => none
  | .bargeComplete =>
    match s.live? with
    | some o =>
      (match o.kind with
       | .barge r true =>
         let all := s.bargeAll o r
         let n := s.choice.size
         if o.waiting then none
         else if 0 < n ∧ n < r.total - r.first then
           (match s.bargeScan o r r.first n with
            | (l, none) =>
              some (((s.bargeMoves o (all.1 ++ all.2.1) all.1 l).noteCorrected o.layer).modOp i fun o =>
                { o with kind := .barge { r with at_ := some (r.first + n) } true })
            | _ => none)
         else
           (match all with
            | (before, l, none) =>
              let t := (s.bargeMoves o (before ++ l) before l).noteCorrected o.layer
              let t := match r.tag with | some k => t.setTag o.crew k .ready | none => t
              some ((t.advanceReady o.crew i).finish i none 0)
            | _ => none)
       | _ => none)
    | none => none
  | .bargeFault =>
    match s.live? with
    | some o =>
      (match o.kind with
       | .barge r true =>
         (match s.bargeStop o r with
          | none => none
          | some e =>
            if s.choice.err = .uncorrectable ∧ e.cause = 0x1C then none
            else
              let all := s.bargeAll o r
              let l := s.bargePart o r e.vec s.choice.nums
              let t := s.bargeMoves o (all.1 ++ all.2.1 ++ l) all.1 l
              let t := match r.tag with | some k => t.setTag o.crew k .held | none => t
              let t := t.modAdvances o.crew fun l => l.map fun a => if a.op = i then { a with held := some r.restart } else a
              some (t.fail i e.cause (trunc e.faddr 64) o.lane (some (r.report e))))
       | _ => none)
    | none => none
  | .rawaitComplete =>
    match s.live? with
    | some o =>
      (match o.kind with
       | .rawait off n free d =>
         if ringPassed (s.ring o.crew off) n free then some (s.finish i (some d) (ringSlotAddr (s.ring o.crew off) n)) else none
       | _ => none)
    | none => none
  | .rarelRelease =>
    match s.live? with
    | some o =>
      (match o.kind with
       | .rarel off => some ((s.setRing o.crew off 24 ((ringRd (s.ring o.crew off) + 1) % 2 ^ 32)).finish i none 0)
       | _ => none)
    | none => none
  | .advanceReady =>
    match s.live? with
    | some o => (match o.kind with | .rapub .. => some ((s.advanceReady o.crew i).finish i none 0) | _ => none)
    | none => none
  | .ioreqPost =>
    match s.opAt i with
    | some o =>
      (match o.kind with
       | .ioreq ls false =>
         if o.captured || o.waiting || !s.edgesMet o || ls.any fun r => match s.ioRange o.layer r with | .error _ => true | .ok _ => false then none
         else
           let range (r : IoRec) := match s.ioRange o.layer r with | .ok p => p | .error _ => none
           let ls' := ls.map fun r => { r with ended := s.ioStatus o.layer r (range r) }
           some (((ls'.filter (·.ended.isSome)).foldl (fun t r => t.ioScrub o.layer r)
             (s.modOp i fun o => { o with kind := .ioreq ls' true, born := s.clk })).ioSettle i)
       | _ => none)
    | none => none
  | .ioRequestEnd =>
    match s.opAt i with
    | some o =>
      (match o.kind with
       | .ioreq ls true =>
         (match ls.find? fun r => r.lane == s.choice.lane && r.ended.isNone with
          | none => none
          | some r =>
            (match s.choice.answer, s.ioRange o.layer r with
             | .data b, .ok (some ps) => if b.length = r.len then some (((s.writePlaces ps b).freshen o (ps.map fun p => (s.key p.1, p.2))).ioEnd i ls r.lane 0) else none
             | .data b, .ok none => if b.length = r.len then some ((s.ioScrub o.layer r).ioEnd i ls r.lane 3) else none
             | .status c, _ =>
               if (r.kind = 0 ∧ (c.toNat = 2 ∨ c.toNat = 4)) ∨ (r.kind ≠ 0 ∧ c.toNat = 5) then some ((s.ioScrub o.layer r).ioEnd i ls r.lane c.toNat)
               else none
             | _, _ => none))
       | _ => none)
    | none => none
  | .ioTimeout =>
    match s.opAt i with
    | some o =>
      (match o.kind with
       | .ioreq ls true =>
         (match ls.find? fun r => r.lane == s.choice.lane && r.ended.isNone with
          | none => none
          | some r =>
            (match find (s.layer o.layer).iotgts r.tgt with
             | none => none
             | some t => if t.timeout * s.clkMhz ≤ s.clk - o.born then some ((s.ioScrub o.layer r).ioEnd i ls r.lane 6) else none))
       | _ => none)
    | none => none
  | _ => none

/-- The refinement, matrix, weir and neighbour engines, the caddy unit and the bin unit (R271, R291 to R299, R313, R320 to R332,
R336 to R348, R358 to R368, R374). -/
def engineAct (a : Instr) (s : State) : Option State :=
  let i := s.choice.target
  match a with
  | .reclamation =>
    let t := s.releaseGone i
    if (find (t.crew i).caddy.nodes s.choice.unit).any (·.rc == 0) && (t.entryDelay i s.choice.unit).isSome then none
    else some (t.reclaim i s.choice.unit)
  | .refinementAdmit =>
    match find s.reqs i with
    | none => none
    | some r =>
      let all := s.engineReqs r.crew
      if r.captured = false ∧ ((all.find? fun p => !p.2.served && p.2.alone.isNone).map (·.1)) = some i ∧
          (all.filter (·.2.served)).length < 16 ∧ all.all (·.2.alone.isNone) = true then
        some { s with reqs := alter s.reqs i fun r => { r with served := true } }
      else none
  | .refinementEnd =>
    match find s.reqs i with
    | none => none
    | some r =>
      let g := r.graph (s.crew r.crew)
      if r.captured = false ∧ r.alone = none ∧ r.served = true ∧ s.spillRead r g = none then
        some (if slotStore < g.outcome.2 then
            { s with reqs := alter s.reqs i fun r => { r with served := false, alone := some s.next }, next := s.next + 1 }
          else s.deliver i r g.outcome.1)
      else none
  | .matrixCommandStart =>
    match s.opAt i with
    | some o =>
      (match o.mat with
       | none => none
       | some m =>
         let k := s.coreKey o.crew
         let ready (p : Nat × Op) : Bool := s.coreKey p.2.crew == k && (match p.2.mat with | some n => s.matReady p.1 p.2 n | none => false)
         if (s.ops.find? ready).map (·.1) = some i then
           let t := s.modOp i fun o => { o with kind := .matrix { m with started := true } }
           let c := t.coreAt k
           some (if m.kind = .mma then t.setCore k { c with gated := c.gated.filter fun q => !(subarrays o.threads).contains q } else t)
         else none)
    | none => none
  | .subarrayGate =>
    let q := s.choice.unit
    let c := s.coreAt i
    let busy := s.ops.any fun p => s.coreKey p.2.crew == i && (match p.2.mat with | some m => m.kind == .mma && m.started && (subarrays p.2.threads).contains q | none => false)
    if q < 8 ∧ c.mxidle ≠ 0 ∧ c.gated.contains q = false ∧ busy = false ∧ c.mxidle ≤ s.clk - look c.idle q 0 then
      some (s.setCore i { c with gated := c.gated ++ [q] })
    else none
  | .operandsConsumed =>
    match s.opAt i with
    | some o =>
      (match o.mat with
       | none => none
       | some m =>
         if o.captured || !m.mayRead || (m.kind != .mma && s.choice.nums.isEmpty) then none
         else
           let t := s.matMeets o m
           match t.matLine m o.threads with
           | some x => some (t.matFail i o m 0x1C x.2)
           | none =>
             if s.choice.nums = [] then
               let t := t.modOp i fun o => { o with kind := .matrix { m with consumed := some (m.tileSeen s 0, m.tileSeen s 1) } }
               some (match m.tag with | some k => t.setTag o.crew k .ready | none => t)
             else some (t.modOp i fun o => { o with kind := .matrix (m.takeElems s (s.choice.nums.filter fun k => decide (k < 8192))) }))
    | none => none
  | .matrixCommandComplete =>
    match s.opAt i with
    | some o =>
      (match o.mat with
       | none => none
       | some m =>
         if o.captured || !m.started || (m.kind == .mma && m.consumed.isNone) || !(s.tiedBefore i o m).isEmpty then none
         else if m.kind = .mma then some ((s.matEffect o m).finish i none 0)
         else
           let t := s.matMeets o m
           match t.matLine m o.threads with
           | some x => some (t.matFail i o m 0x1C x.2)
           | none =>
             if m.kind = .ctbl then
               (match parseTable (t.tileRead m.a 16) with
                | some y => some ((t.modGang o.gang fun g => { g with compand := some y }).finish i none 0)
                | none => some ((t.modGang o.gang fun g => { g with compand := none }).fail i 0x30 m.a.2 o.lane none))
             else some ((t.matEffect o m).finish i none 0))
    | none => none
  | .wtestEntryUpdate =>
    match s.opAt i with
    | some o =>
      (match o.kind with
       | .weir (.wtest d skm) ls =>
         (match ls.find? (·.got.isNone) with
          | none => none
          | some x =>
            let w := (s.crew o.crew).weir
            let ea := w.tbase + 64 * x.a
            if !s.weirTurn i o || decide (2 ^ 57 < ea + 64) then none
            else match s.atomicPlace o.layer (s.viaOf o.crew) ea with
            | .ok (.home l off k) =>
              (match (s.fillTlb o.layer (s.viaOf o.crew) ea).readMeets o (.home l off k) ea 64 with
               | .error _ => none
               | .ok t =>
                 let r := (parseEntry (ofBytes (t.readAt (.home l off k) 64))).test w (ofBytes (t.readAt (.scratch o.crew x.c) 32)) x.n
                 let t := if r.2.1 then (t.writeAt (.home l off k) r.1.bytes).freshen o [(t.key (.home l off k), 64)] else t
                 let t := t.modCrew o.crew fun c => { c with weir := { c.weir with map := put c.weir.map x.a r.1.dec false } }
                 let ls' := ls.map fun y => if y.lane = x.lane then { y with got := some (r.2.2.1, r.2.2.2) } else y
                 some ((t.modOp i fun o => { o with kind := .weir (.wtest d skm) ls' }).weirTouch o.crew))
            | _ => none)
       | _ => none)
    | none => none
  | .weirContextLoad =>
    let w := (s.crewCluster i).weirs
    if w.contains i || !s.weirUsed i || (s.crew i).status == .saved || (s.crew i).status == .retired then none
    else if w.length < 32 then some (s.modCluster i fun c => { c with weirs := i :: w })
    else (w.reverse.find? fun j => !s.weirUsed j).bind fun j =>
      (match s.weirOut j with
       | .ok t => some (t.modCluster i fun c => { c with weirs := i :: c.weirs.filter (· != j) })
       | .error _ => none)
  | .weirCommandComplete =>
    match s.opAt i with
    | some o =>
      (match o.kind with
       | .weir k ls =>
         let t := s.weirTouch o.crew
         let w := (t.crew o.crew).weir
         let set (x : Weir) : State := t.modCrew o.crew fun c => { c with weir := x }
         if !s.weirTurn i o then none
         else (match k with
           | .wcfg x => some ((set { x with step := w.step, map := [] }).finish i none 0)
           | .wstep x => some ((set { w with step := x.getD ((w.step + 1) % 2 ^ 32), map := [] }).finish i none 0)
           | .wskip v x d => some (t.finish i (some ⟨d, if v = 2 then 2 else 1, o.threads⟩) (w.query v x))
           | .wsig bf =>
             let size := if bf then 2048 else 4096
             some ((ls.foldl (fun u l => u.writeScratch o.crew (decide (l.a < l.c + 32) && decide (l.c < l.a + size))
               (l.c, signature bf (s.ftz o.gang) (s.readAt (.scratch o.crew l.a) size))) t).finish i none 0)
           | .wtest d skm =>
             if ls.any fun l => l.got.isNone then none
             else
               let live := (t.gang o.gang).live
               let t := ls.foldl (fun u l => u.writeDest o.gang ⟨d, 2, laneBit l.lane⟩ fun _ => (l.got.getD (0, false)).1) t
               let skip (j : Nat) : Bool := hasLane (laneSet fun j => ls.any fun l => l.lane == j && (l.got.getD (0, false)).2) j
               some ((if skm = 15 then t else t.writeMaskLanes o.gang skm (o.threads &&& live) skip).finish i none 0))
       | _ => none)
    | none => none
  | .pointCommandComplete =>
    match s.opAt i with
    | some o =>
      (match o.kind with
       | .point p =>
         if !s.pointRuns i o then none
         else if s.choice.nums ≠ [] then some (s.readEarly i o p)
         else if 0 < s.choice.size ∧ s.choice.size < p.vectors.length then some (s.pointPart i o p s.choice.size)
         else (match s.runPoint o p none with
          | (r, none) => some (((match p.tag with | some k => r.s.setTag o.crew k .ready | none => r.s).noteCorrected o.layer).finish i none 0)
          | _ => none)
       | _ => none)
    | none => none
  | .pointCommandFault =>
    match s.opAt i with
    | some o =>
      (match o.kind with
       | .point p =>
         (match s.pointRuns i o, s.pointStop o p with
          | true, some (r, v, e) =>
            if e.replay then none
            else some ((match p.tag with | some k => r.s.setTag o.crew k .held | none => r.s).fail i e.cause e.faddr o.lane (some (p.report v e)))
          | _, _ => none)
       | _ => none)
    | none => none
  | .spawnTasksEnter =>
    match s.opAt i with
    | some o =>
      (match o.kind with
       | .spawn e base n =>
         let cr := s.crew o.crew
         if (s.binQueue cr.layer cr.cluster).head? = some (i, o) then
           let r := (s.cluster cr.layer cr.cluster).enterAll i cr.cluster cr.launch e base s.clk n 0
           let t := s.setCluster cr.layer cr.cluster r.1
           some (if r.2 = n then t.finish i none 0 else t.modOp i fun o => { o with kind := .spawn e (base + 16 * r.2) (n - r.2) })
         else none
       | _ => none)
    | none => none
  | _ => none

/-- Bins, task gangs, yields, traps, pre-emption, placing, the watchdog and the network (R93, R204, R206, R253, R254, R375 to
R388, R432, R441, R442, R455, R469, R470). -/
def scheduleAct (a : Instr) (s : State) : Option State :=
  let i := s.choice.target
  let h := s.choice
  let l := s.choice.layer
  match a with
  | .binTimerExpiry =>
    let x := s.cluster l h.cluster
    (find x.bins h.unit).bind fun b =>
      if b.closed = false ∧ b.opened + (s.launch b.launch).desc.bintime ≤ s.clk then some (s.setCluster l h.cluster (x.close h.unit)) else none
  | .taskGangPlace =>
    let y := s.cluster l h.cluster
    if (s.layer l).asleep || !s.coreOpen l h.cluster h.core || decide (Config.cores ≤ h.core) then none
    else (match y.ready.head?, s.readyFits l h.cluster (s.coreRoom l h.cluster h.core) with
      | some first, (b, x) :: _ =>
        let slot := (s.pickSlots l h.cluster h.core 1 ((h.places.head?.map (·.slots)).getD [])).headD 0
        if b ≠ first ∧ ((s.layer l).taskage = 0 ∨ y.reserved = some h.core) then none
        else if (s.areaWaits l ((s.launch x.launch).desc.taskArea h.cluster h.core slot)).isSome then none
        else
          some ((s.setCluster l h.cluster (if b = first then { y with passes := 0, reserved := none } else { y with passes := y.passes + 1 })).placeTask
            l h.cluster h.core b x slot)
      | _, _ => none)
  | .coreReserve =>
    let y := s.cluster l h.cluster
    let headFits (k : Nat) : Bool := (s.readyFits l h.cluster (s.coreRoom l h.cluster k)).any fun p => some p.1 == y.ready.head?
    let free (k : Nat) := (s.coreRoom l h.cluster k).scratch
    let old := if (s.layer l).taskage = 0 then !(List.range Config.cores).all headFits else decide ((s.layer l).taskage ≤ y.passes)
    if y.ready.isEmpty = false ∧ y.reserved = none ∧ old = true then
      some (s.setCluster l h.cluster { y with
        reserved := some ((List.range Config.cores).foldl (fun a k => if free a < free k then k else a) 0) })
    else none
  | .q24Fill =>
    (match (s.gang i).task with
     | none => none
     | some tk =>
       if tk.filled || (s.crew (s.gang i).crew).status != .resident then none
       else (match s.q24Words i tk with
         | .ok ws => some (((s.modGang i fun g => { g with task := some { tk with filled := true } }).noteRecords i tk).modGang i
             fun g => { g with q24 := ws.map (BitVec.ofNat 32 ·) })
         | .error x =>
           if x.1.replay then none
           else some (((s.modGang i fun g => { g with task := some { tk with filled := true } }).losesRecord (s.crew (s.gang i).crew).layer x.1 x.2).raise i
             { cause := x.1.cause, faddr := x.1.addr, flane := x.2, lanes := (s.gang i).live, pfx := 0, insn := 0, fpc := none, rpt := none
               dcause := 0, dlane := 255, dfaddr := 0, counters := [], at_ := tk.entry
               len := s.lengthAt (s.gang i).crew tk.entry 0, issue := true })))
  | .cyieldAct =>
    if s.allStand i (·.wait == .cyield) && s.noRegWrites i then
      some (if (s.waiters i).isEmpty then s.passCyield i else s.yieldCrew i (some (s.waiters i)))
    else none
  | .crewYield =>
    let y := 64 * (s.launch (s.crew i).launch).desc.yieldt
    let stands (t : Thread) : Bool := match t.waity with | some w => t.wait == .none && decide (w.since + y ≤ s.clk) | none => false
    if y ≠ 0 ∧ s.noRegWrites i = true ∧ s.allStand i stands = true then some (s.yieldCrew i none) else none
  | .crewReturn =>
    let cr := s.crew i
    if !s.due i || !(s.coreRoom cr.layer cr.cluster cr.core).holds (s.crewCompute (i, cr)) then none
    else (match s.loadCrew i with
      | .error _ => none
      | .ok t =>
        let t := t.takeSlots i (t.pickSlots cr.layer cr.cluster cr.core (t.liveGangs i).length ((h.places.head?.map (·.slots)).getD []))
        let t := t.modCrew i fun k => { k with status := .resident, since := s.clk, wdog := s.clk, cyielded := none }
        let t := (t.liveGangs i).foldl (fun t g => t.modGang g fun x => { x with
          offer := none, turned := s.clk, moved := 0, threads := x.threads.map fun y => { y with waity := none } }) t
        some (t.passCyield i))
  | .trapEntry =>
    if (s.gang i).pend.isSome then some (s.enterTrap i)
    else if (s.gang i).refineTrap && s.gangUp i then some (s.raiseRefine i) else none
  | .preemption =>
    let s' := s.reclaimConvoy i
    if (s.convoy i).status != .preempting || !s.convoyDrained i || (s'.liveCrews i).any (fun c => !(s'.crew c).caddy.unwritten.isEmpty || (s'.reclaimDelay c).isSome) then none
    else (match foldFault State.saveCrew (s'.liveCrews i) s' with
      | .error _ => none
      | .ok t => some ((t.captureConvoy i).modConvoy i fun y => { y with status := .saved, wanted := false }))
  | .convoyRestore =>
    let k := (s.launch (s.convoy i).launch).layer
    let y := s.convoy i
    if !s.restoreDue i || !s.restoreFits i then none
    else (match foldFault State.restoreCrew (s.liveCrews i)
        (s.modConvoy i fun y => { y with status := .resident, wanted := false, ops := [], reqs := [] }) with
      | .error _ => none
      | .ok t =>
        let t := ({ t with
          ops := t.ops.map fun (p : Nat × Op) => if y.ops.contains p.1 then (p.1, { p.2 with captured := false }) else p }).repostAll y.reqs
        some (t.setLayer k { t.layer k with preempted := (t.layer k).preempted.filter (· != i) }))
  | .gangRetire =>
    let g := s.gang i
    if (find s.gangs i).isNone || g.retired || g.live != 0 || (s.crew g.crew).status == .saved then none
    else if s.ops.any (fun p => p.2.gang == i && p.2.captured) then some (s.recount i)
    else if !(s.outstanding i).isEmpty || !g.sf.isEmpty then none
    else
      let t := ((s.releaseGone g.crew).dropReqs i).abandonLocks i
      let t := t.modCrew g.crew fun k => { k with charged := if k.status = .resident then k.charged + (s.clk - k.since) else k.charged }
      let t := t.modGang i fun x => { x with
        retired := true, v := [], g := [], hv := [], m := [], acc := [], threads := [], compand := none, q24 := [], pend := none, handler := none }
      some (t.retireCrew g.crew)
  | .convoyPlace =>
    if (s.layer l).asleep = false ∧ s.ready.getLsbD l = true then
      some (s.visit l h.places ((List.range 32).map fun k => ((s.layer l).pointer + k) % 32))
    else none
  | .drainStart =>
    if s.drainDue l then some (s.setLayer l { s.layer l with drain := some s.clk }) else none
  | .drainPreempt =>
    let y := s.layer l
    (match y.drain, y.head, s.lastConvoy l with
     | some t, some n, some v =>
       if y.draint ≠ 0 ∧ t + 1024 * y.draint ≤ s.clk ∧ s.headBlocked l n = true
           ∧ (s.convoys.any fun p => p.2.status == .preempting && (s.launch p.2.launch).layer == l) = false then
         some ((s.setLayer l { y with preempted := y.preempted ++ [v], drained := y.drained ++ [v] }).modConvoy v
           fun y => { y with status := .preempting })
       else none
     | _, _, _ => none)
  | .watchdogExpiry =>
    if s.watchdogDue i then
      some ((s.modCrew i fun k => { k with wdog := s.clk }).postLayer (s.crew i).layer { kind := 4, info := (s.crew i).ctx })
    else none
  | .routerGate =>
    let y := s.layer l
    if h.unit < 28 ∧ y.netidle ≠ 0 ∧ y.gatedRouters.contains h.unit = false ∧ (s.carrying l).contains h.unit = false
        ∧ look y.traffic h.unit 0 + 3 * y.netidle / 4 ≤ s.clk then
      some (s.setLayer l { y with gatedRouters := h.unit :: y.gatedRouters, traffic := erase y.traffic h.unit })
    else none
  | .routerWake =>
    if (s.layer l).gatedRouters.contains h.unit = true ∧ s.signals l h.unit = true then some (s.noteRouters l [h.unit]) else none
  | .deadlockEscape =>
    let y := s.layer l
    let t := s.setLayer l { y with netesc := (y.netesc + 1) % 2 ^ 32 }
    let late (since : Nat) : Bool := decide (since + 3 * y.netdlt / 4 ≤ s.clk)
    if h.unit = 1 then
      if s.gangUp i = true ∧ s.runnable i ≠ 0 ∧ (s.fetchLayers i).contains l = true ∧ late (s.gang i).turned = true ∧ (s.gang i).moved < 12 * linePackets then
        some (t.modGang i fun g => { g with moved := g.moved + 1 })
      else none
    else (match s.opAt i with
     | some o =>
       (match s.packetsSince l i o with
        | some c =>
          let k := look o.escaped l 0
          if late c = true ∧ k < s.packets l o then some (t.modOp i fun o => { o with escaped := put o.escaped l (k + 1) 0 }) else none
        | none => none)
     | none =>
       (match s.copies.find? (·.2.2.1 == i) with
        | some (m, q, _, .copy src dst n qrd begin moved) =>
          if s.copyRouters l m src dst n ≠ [] ∧ late begin = true ∧ moved < 2 * (n / 64 + 2) * linePackets then
            some (t.modCq m q fun x => { x with cmds := insert x.cmds i (.copy src dst n qrd begin (moved + 1)) })
          else none
        | _ => none))
  | _ => none

/-- A command's entry as the queue of the choice begins it: the state past its read, and the command, where its opcode is `opc`
and the order rules let it begin (R458 to R461). -/
def State.begins (s : State) (opc : Nat) : Option (State × Cmd) :=
  let l := s.choice.layer
  let q := s.choice.unit
  match s.queueRuns l q, (s.cq l q).entryAt with
  | true, some va =>
    (match s.cpRead 0 l va 16 with
     | .error _ => none
     | .ok (b, t) =>
       (parseCmd (ofBytes b) (s.cq l q).indirect.isSome).bind fun c => if c.opc = opc ∧ (s.cq l q).mayBegin c = true then some (t, c) else none)
  | _, _ => none

/-- The hosts' register writes and the commands (R457 to R468, R473, R478). -/
def commandAct (a : Instr) (s : State) : Option State :=
  let h := s.choice
  let l := h.layer
  let q := h.unit
  let cfg (p : Nat → Bool) : Option State :=
    if s.serves h.port l && decide (q < 32) && p h.value then some (s.modCq l q fun x => (x.writeCfg h.value).rest) else none
  match a with
  | .hostApertureAccess =>
    let va := (s.layer l).apbase + h.offset
    let done (t : State) (x : Option (List Byte)) : State := t.setPort h.port { t.port h.port with completion := some x }
    (match h.answer, s.serves h.port l && decide (h.offset + h.size ≤ 2 ^ 33) with
     | _, false => none
     | .data b, true =>
       (match s.sysPlaces l va b.length with
        | .ok ps => if s.aqHolds (s.sysWritePlaces l ps b) l then none else some (s.sysWritePlaces l ps b)
        | .error f => some (s.postFault l f.cause f.addr))
     | _, true => some (match s.readVa l va h.size with | .ok b => done (s.noteAccess l none .read va h.size) (some b) | .error f => done (s.postFault l f.cause f.addr) none))
  | .qwrDoorbell =>
    let v := h.value % 2 ^ 32
    let t := s.setCq l q { s.cq l q with qwr := v }
    if s.serves h.port l = true ∧ q < 32 then
      some (if (s.cq l q).size < diff32 v (s.cq l q).qrd then t.queueError l q 8 0 0 (s.cq l q).qrd else t)
    else none
  | .queueEnable => cfg fun v => !tbit v 9 && !tbit v 10
  | .queueReset => cfg fun v => tbit v 9
  | .resume => cfg fun v => tbit v 10
  | .registerWrite =>
    if h.port < 2 ∧ h.size = 4 ∧ h.offset = 0x48 then
      some ((s.setPort h.port { s.port h.port with evcfg := bits h.value 26 16 * 2 ^ 16 + bits h.value 4 0 }).postOwed h.port)
    else if h.port < 2 ∧ (h.size = 4 ∨ h.size = 8) ∧ h.offset = 0x40 then
      some (s.setPort h.port { s.port h.port with evbase := half64 (s.port h.port).evbase 0 h.size h.value / 4096 * 4096 })
    else if h.port < 2 ∧ h.size = 4 ∧ h.offset = 0x20 then
      if 100 ≤ h.value % 2 ^ 16 then some (s.setPort h.port { s.port h.port with cto := h.value % 2 ^ 16 })
      else some ((s.freeNat 16).2.setPort h.port { s.port h.port with cto := 100 + (s.freeNat 16).1 % 65436 })
    else if h.port < 2 ∧ h.size = 4 ∧ h.offset % 4 = 0 ∧ 0x8000 ≤ h.offset ∧ h.offset + 4 ≤ 0x9000 then
      some (s.setPort h.port ((s.port h.port).writeMail (h.offset - 0x8000) (toBytes h.value 4) s.clk))
    else none
  | .evrdWrite => some ((s.setPort h.port { s.port h.port with evrd := h.value % 2 ^ 32 }).postOwed h.port)
  | .commandNop => (s.begins 0).map fun x => x.1.passCmd l q
  | .launch =>
    (s.begins 1).bind fun x =>
      (match x.1.cpRead 1 l x.2.a 64 with
       | .error _ => none
       | .ok (b, t) => (parseDescriptor (ofBytes b)).map fun d =>
           ({ t with next := t.next + 1
                     launches := insert t.launches t.next { layer := l, queue := q, cmd := (t.cq l q).qrd, desc := d } }).addCmd l q (.launch t.next))
  | .launchComplete =>
    (find s.launches h.target).bind fun x =>
      if s.launchDone h.target then
        let crews := (s.launchCrews h.target).map (·.1)
        let t := { s with
          launches := erase s.launches h.target
          convoys := s.convoys.filter fun p => p.2.launch != h.target
          crews := s.crews.filter fun p => p.2.launch != h.target
          gangs := s.gangs.filter fun p => !crews.contains p.2.crew
          clusters := s.clusters.map fun (p : Nat × Cluster) => (p.1, { p.2 with counts := erase p.2.counts h.target }) }
        some (match (s.cq x.layer x.queue).cmds.find? fun p => p.2 == .launch h.target with
          | some p => t.endCmd x.layer x.queue p.1
          | none => t)
      else none
  | .depwait =>
    (s.begins 2).bind fun x =>
      (match x.1.cpRead 1 l x.2.a 8 with
       | .error _ => none
       | .ok (b, t) => some (if depMet x.2.fl (ofBytes b) x.2.v then t.passCmd l q
           else t.addCmd l q (.depwait x.2.fl x.2.a x.2.v (t.cq l q).qrd (t.cq l q).indirect)))
  | .depwaitPoll =>
    (match find (s.cq l q).cmds h.target with
     | some (.depwait cond a v _ _) =>
       (match s.cpRead 0 l a 8 with
        | .error _ => none
        | .ok (b, t) => some (if depMet cond (ofBytes b) v then t.endCmd l q h.target else t))
     | _ => none)
  | .signal =>
    (s.begins 3).map fun x =>
      x.1.writeCmd l q (if x.2.fl % 2 = 0 then x.1.sysWrite l x.2.a (toBytes x.2.v 8) 1 else x.1.signalAdd l x.2.a x.2.v) fun t =>
        if 2 ≤ x.2.fl then t.setPort (t.hostPort l) { t.port (t.hostPort l) with msix := x.2.arg :: (t.port (t.hostPort l)).msix } else t
  | .copyc =>
    (s.begins 4).bind fun x =>
      (match x.1.cpRead 1 l x.2.a 32 with
       | .error _ => none
       | .ok (b, t) =>
         let r := ofBytes b
         if bits r 255 192 = 0 ∧ 1 ≤ bits r 191 128 ∧ bits r 191 128 ≤ 2 ^ 40 ∧ bits r 127 121 = 0 ∧ bits r 63 57 = 0 then
           some (t.addCmd l q (.copy (bits r 63 0) (bits r 127 64) (bits r 191 128) (t.cq l q).qrd t.clk 0))
         else none)
  | .copyComplete =>
    (match find (s.cq l q).cmds h.target with
     | some (.copy src dst n _ _ _) =>
       (match s.copyMeets l src dst n, s.copyEnds l src dst n with
        | some _, _ => none
        | none, .error _ => none
        | none, .ok (ps, b, qs) => some ((((if s.placesMeet ps qs then s.scrub qs else s.writePlaces qs b).freshenLayer l qs).noteCorrected l).endCmd l q h.target))
     | _ => none)
  | .mark =>
    (s.begins 5).map fun x => x.1.writeCmd l q (x.1.sysWrite l x.2.a (toBytes x.2.v 4 ++ toBytes (x.1.cq l q).past.qrd 4 ++ toBytes x.1.slots 8) 1) fun t =>
      if x.2.fl = 1 then t.modCq l q fun y => { y with state := 2 } else t
  | .jump => (s.begins 6).map fun x => x.1.modCq l q fun y => { y.past with indirect := some (x.2.a, x.2.v, 0) }
  | .setpri => (s.begins 7).map fun x => (x.1.modCq l q fun y => { y with quant := x.2.v }).passCmd l q
  | .stamp => (s.begins 8).map fun x => x.1.writeCmd l q (x.1.sysWrite l x.2.a (toBytes x.1.slots 8) 1) id
  | .tlbcVa =>
    (s.begins 9).bind fun x =>
      if x.2.fl = 0 ∧ (x.1.dropTranslations l (some x.2.a)).2 = [] then some ((x.1.dropTranslations l (some x.2.a)).1.passCmd l q) else none
  | .tlbcAll =>
    (s.begins 9).bind fun x =>
      if x.2.fl = 1 ∧ (x.1.dropTranslations l none).2 = [] then some ((x.1.dropTranslations l none).1.passCmd l q) else none
  | _ => none

/-- The call code of a firmware act, and what its record says besides (R476). -/
def callOf (a : Instr) : Option (Nat × (Nat → Bool)) :=
  let any : Nat → Bool := fun _ => true
  let debug (k : Nat) : Nat × (Nat → Bool) := (9, fun r => bits (fwArg r 0) 1 0 == k)
  match a with
  | .export_ => some (1, any)
  | .import_ => some (2, any)
  | .revoke => some (3, any)
  | .createRegion => some (4, any)
  | .freeRegion => some (5, any)
  | .writeIoTargetEntry => some (6, any)
  | .assignKeyIndices => some (7, fun r => !tbit (fwArg r 0) 8)
  | .unassignKeyIndices => some (7, fun r => tbit (fwArg r 0) 8)
  | .debugHalt => some (debug 0)
  | .debugRun => some (debug 1)
  | .debugStep => some (debug 2)
  | .debugSnap => some (debug 3)
  | .sleepDevice => some (10, fun r => !tbit (fwArg r 0) 8)
  | .wakeDevice => some (10, fun r => tbit (fwArg r 0) 8)
  | .assignLayersAndPorts => some (11, any)
  | .setKernelState => some (12, any)
  | _ => none

/-- The caller of the choice, its layer or port, and its record, where it has rung, no earlier call of its logical device is
ahead, its record is well formed, and it asks for what the act does (R474, R475). -/
def State.called (s : State) (a : Instr) : Option (Caller × Nat × Nat) :=
  match s.rungAt s.choice.caller, s.fwRecord s.choice.caller, callOf a with
  | some t, some b, some (k, p) =>
    let r := ofBytes b
    if bits r 15 8 = 0xFF ∧ s.fwBehind s.choice.caller r t = false ∧ fwWellFormed s.choice.caller r = true ∧ fwCode r = k ∧ p r = true then
      some (s.choice.caller, (match s.choice.caller with | .kernel l => l | .host p => p), r)
    else none
  | _, _, _ => none

/-- What refuses a call, in ascending order of STATUS (R475, R476): x is the calling layer, or the calling host's port. -/
def callRefusals (a : Instr) (s : State) (x r : Nat) : List (Nat × Bool) :=
  let a0 := fwArg r 0
  let l := bits a0 2 0
  let whole (base size : Nat) : Bool := base % bigPage == 0 && size % bigPage == 0 && size != 0
  let keys : List (Nat × Bool) := [(1, fwArg r 2 == 0 || decide (1023 < fwArg r 2)), (2, (keyRange r).any fun k => k == 0 || decide (1023 < k))]
  let debug : List (Nat × Bool) := [(2, (s.crewByArea (bits a0 10 8) (fwArg r 1) fun k => k.status != .retired).isNone), (6, !s.serves x (bits a0 10 8))]
  match a with
  | .export_ =>
    [(2, !whole (fwArg r 1) (fwArg r 2) || decide (homeSize < fwArg r 1 + fwArg r 2)), (3, s.otherHost x (bits a0 15 8)),
     (4, (s.freeExport x).isNone), (5, !s.keyAssigned x (bits a0 25 16))]
  | .import_ =>
    (match s.handle (fwArg r 1) with
     | none => [(2, true)]
     | some (el, _, e) =>
       [(3, !tbit e.importers x || s.hostPort el != s.hostPort x), (4, (List.range 256).all fun k => (find (s.layer x).windows k).isSome),
        (5, !whole (fwArg r 2) (fwArg r 3) || decide (e.size < fwArg r 3))])
  | .revoke => [(2, match s.handle (fwArg r 1) with | none => true | some (el, _, _) => el != x)]
  | .createRegion =>
    let e := fwArg r 1 + fwArg r 2 * 2 ^ 64 + fwArg r 3 * 2 ^ 128 + fwArg r 4 * 2 ^ 192
    [(2, !regionOk e || !tbit (regionSet e) x), (3, s.otherHost x (regionSet e)),
     (4, (regionMembers e).any fun k => regionKind (look (s.layer k).regions a0 0) != 0),
     (5, (regionMembers e).any fun k => rangesMeet (regionRanges e k) (s.takenRanges k))]
  | .freeRegion => let e := look (s.layer x).regions a0 0; [(2, regionKind e == 0 || !tbit (regionSet e) x)]
  | .writeIoTargetEntry =>
    let kind := bits a0 9 8
    let answers (k : Nat) : Bool := match s.choice.answer with | .status c => c.toNat == k | _ => false
    [(1, (kind == 1 || kind == 2) && decide (fwArg r 4 < 100)), (2, kind == 3 || (kind != 0 && answers 2)),
     (3, kind == 1 && (answers 3 || !(s.choice.value == 512 || s.choice.value == 4096))),
     (4, kind == 2 && (answers 4 || s.hostmap.getLsbD (8 + bits (fwArg r 1) 26 24) != (s.hostPort x == 1))), (5, s.ioBusy x (bits a0 7 0))]
  | .assignKeyIndices =>
    keys ++ [(3, (keyRange r).any fun k => match find s.keyOwner k with | some j => j != l | none => false), (6, !s.serves x l)]
  | .unassignKeyIndices => keys ++ [(3, (keyRange r).any fun k => find s.keyOwner k != some l), (6, !s.serves x l)]
  | .debugHalt => debug
  | .debugRun => debug
  | .debugStep => debug
  | .debugSnap => debug
  | .sleepDevice => [(2, (s.layer l).asleep), (6, !s.serves x l)]
  | .wakeDevice => [(2, !(s.layer l).asleep), (6, !s.serves x l)]
  | .setKernelState =>
    [(2, fwArg r 1 % 4 != 0 || fwArg r 2 % 4096 != 0 || decide (homeSize ≤ fwArg r 2)),
     (3, (s.crews.any fun c => c.2.layer == a0 && c.2.status == .resident) || (s.layer a0).queues.any fun q => q.2.en), (6, !s.serves x a0)]
  | _ => []

/-- What a call that is not refused does, and RES0 (R393 to R398, R424, R453, R476, R477, R481); none while it waits. -/
def callEffect (a : Instr) (s : State) (x r : Nat) : Option (Nat × State) :=
  let a0 := fwArg r 0
  let l := bits a0 2 0
  let y := s.layer x
  let debug (op : Nat) : Option (Nat × State) :=
    (s.crewByArea (bits a0 10 8) (fwArg r 1) fun k => k.status != .retired).bind fun c => match s.debugOp c op (bits a0 7 4) with | .ok t => some (0, t) | .error _ => none
  match a with
  | .export_ =>
    (s.freeExport x).map fun k =>
      let gen := match find y.exports k with | some e => e.gen | none => 0
      let e : Export := { gen := gen, current := true, base := fwArg r 1, size := fwArg r 2, r := tbit a0 0, w := tbit a0 1, a := tbit a0 2
                          importers := bits a0 15 8, kix := bits a0 25 16 }
      (x * 2 ^ 61 + gen * 2 ^ 51 + k * 2 ^ 40, s.setLayer x { y with exports := insert y.exports k e })
  | .import_ =>
    (match s.handle (fwArg r 1), (List.range 256).find? fun k => (find y.windows k).isNone with
     | some (el, ix, e), some k =>
       let w : Window := { layer := el, eix := ix, gen := e.gen, base := fwArg r 2, size := fwArg r 3, revoked := false }
       some (k, (s.setLayer x { y with windows := insert y.windows k w }).mapWindow x (fwArg r 2) (fwArg r 3) k e)
     | _, _ => none)
  | .revoke =>
    (match s.handle (fwArg r 1) with
     | some (_, ix, e) =>
       let c := s.cutOff 0x1B (s.windowOf x ix)
       if c.2 then none
       else
         let t := c.1.setLayer x { c.1.layer x with exports := insert (c.1.layer x).exports ix { e with current := false, gen := (e.gen + 1) % 1024 } }
         let cut (p : Nat × Layer) : Nat × Layer := (p.1, { p.2 with
           windows := p.2.windows.map fun w => if w.2.layer = x ∧ w.2.eix = ix then (w.1, { w.2 with revoked := true }) else w
           tlb := p.2.tlb.filter fun e => !s.windowOf x ix p.1 e.pte })
         some (0, { t with layers := t.layers.map cut })
     | none => none)
  | .createRegion =>
    let e := fwArg r 1 + fwArg r 2 * 2 ^ 64 + fwArg r 3 * 2 ^ 128 + fwArg r 4 * 2 ^ 192
    some (0, (regionMembers e).foldl (fun t k => t.setLayer k { t.layer k with regions := insert (t.layer k).regions a0 e }) s)
  | .freeRegion =>
    let e := look y.regions a0 0
    let c := s.cutOff 0x15 fun k pte => pteKind pte == 2 && bits pte 5 0 == a0 && tbit (regionSet e) k
    if c.2 then none
    else some (0, (regionMembers e).foldl (fun t k => t.setLayer k { t.layer k with regions := erase (t.layer k).regions a0 }) c.1)
  | .writeIoTargetEntry =>
    let kind := bits a0 9 8
    let res := if kind = 2 then s.choice.value % 2 ^ 24 else s.choice.value
    let e : IoTarget := { kind := kind, arg1 := fwArg r 1, arg2 := fwArg r 2, arg3 := fwArg r 3, timeout := fwArg r 4, res := res }
    some (if kind = 0 then (0, s.setLayer x { y with iotgts := erase y.iotgts (bits a0 7 0) })
      else (res, s.setLayer x { y with iotgts := insert y.iotgts (bits a0 7 0) e }))
  | .assignKeyIndices => some (0, { s with keyOwner := (keyRange r).foldl (fun m k => insert m k l) s.keyOwner })
  | .unassignKeyIndices => some (0, ({ s with keyOwner := (keyRange r).foldl erase s.keyOwner }).rekey ((keyRange r).foldl erase s.keys))
  | .debugHalt => debug 0
  | .debugRun => debug 1
  | .debugStep => debug 2
  | .debugSnap => debug 3
  | .sleepDevice =>
    let vs := (s.convoys.filter fun v => v.2.status == .resident && (s.launch v.2.launch).layer == l).map (·.1)
    let t := s.setLayer l { s.layer l with asleep := true, preempted := (s.layer l).preempted ++ vs }
    some (0, (vs.foldl State.preempt t).setReady fun b => b &&& ~~~ layerBits l)
  | .wakeDevice => some (0, (s.setLayer l { s.layer l with asleep := false }).setReady fun b => b ||| layerBits l)
  | .assignLayersAndPorts =>
    let t := s.setPort x { s.port x with proposal := some a0 }
    some (t.nextMap.toNat, t)
  | .setKernelState =>
    let d := s.dropTranslations a0 none
    if d.2.isEmpty then some (0, d.1.setLayer a0 { d.1.layer a0 with kvec := fwArg r 1, ptb := fwArg r 2 }) else none
  | _ => none

/-- A pending call 08h of the choice's host, well formed and for a layer it serves: the caller and the record (R475, R491). -/
def State.loadCalled (s : State) (free : Bool) : Option (Caller × Nat) :=
  let c := s.choice.caller
  match s.rungAt c, s.fwRecord c, c with
  | some t, some b, .host p =>
    let r := ofBytes b
    if bits r 15 8 = 0xFF ∧ s.fwBehind c r t = false ∧ fwCode r = 8 ∧ tbit r 17 = free ∧ fwWellFormed c r = true ∧ loadRecordBad r = false
        ∧ s.serves p (bits r 26 24) = true then some (c, r) else none
  | _, _, _ => none

/-- Calls 08h: a load into a free code segment, with its destination aligned and its bytes read; a FREE of a segment in use
(R491 to R493). -/
def loadAct (a : Instr) (s : State) : Option State :=
  match a with
  | .loadCodeSegment =>
    (s.loadCalled false).bind fun x =>
      let l := bits x.2 26 24
      (match find (s.layer l).segments (bits x.2 23 19), s.partRead l (bits x.2 127 64) (bits x.2 191 128) with
       | none, .ok b => if bits x.2 255 192 % 2 ^ 16 = 0 ∧ bits x.2 255 192 < 2 ^ 57 then some (s.loadObject x.1 x.2 b) else none
       | _, _ => none)
  | .freeSegment =>
    (s.loadCalled true).bind fun x =>
      let l := bits x.2 26 24
      let k := bits x.2 23 19
      (find (s.layer l).segments k).map fun g =>
        ((s.releaseLines l g.base g.size false).setLayer l { s.layer l with segments := erase (s.layer l).segments k }).loadEnd x.1 0 none
  | _ => none

/-- Starts, readiness, freezing, heat and links (R29, R477 to R483). -/
def partAct (a : Instr) (s : State) : Option State :=
  let p := s.choice.port
  let second := s.clkMhz * 10 ^ 6
  let ask (v : Nat) : Option State :=
    if 2 ≤ p then none
    else if (s.port (1 - p)).link = false then some { s with startDue := v }
    else (match (s.port (1 - p)).request with
      | some (w, t) => some (if s.clk < t + second then { s with startDue := if w = v then v else 2 }
          else s.setPort p { s.port p with request := some (v, s.clk) })
      | none => some (s.setPort p { s.port p with request := some (v, s.clk) }))
  match a with
  | .warmStartRequest => ask 1
  | .coldStartRequest => ask 2
  | .startRequestLapse =>
    (s.port p).request.bind fun x => if x.2 + second ≤ s.clk then some (s.setPort p { s.port p with request := none }) else none
  | .coldStart => if s.startDue = 2 ∨ s.frozen = true then some (s.afterStart false) else none
  | .warmStart => if s.startDue = 1 then some { s.afterStart true with keys := s.keys, keyOwner := s.keyOwner } else none
  | .readySet =>
    let b := s.choice.unit
    if b < 36 ∧ (List.range 8).all (fun l => !((s.layer l).asleep && (b == l || b == 28 + l))) = true then
      some (s.setReady fun r => r ||| BitVec.ofNat 64 (2 ^ b))
    else none
  | .freezeWrite => if p < 2 ∧ s.choice.value = 0x46525A21 then some (s.setPort p { s.port p with freeze := some s.clk }) else none
  | .freezeLapse => (s.port p).freeze.bind fun t => if t + second ≤ s.clk then some (s.setPort p { s.port p with freeze := none }) else none
  | .freeze =>
    if s.choice.err = .uncorrectable ∨ s.freezeMatched 0 = true ∨ s.freezeMatched 1 = true ∨ (s.temps.any fun t => decide (1840 < t.2)) = true then
      some { s with frozen := true, ports := insert (insert s.ports 0 { s.port 0 with link := false }) 1 { s.port 1 with link := false } }
    else none
  | .thermalThrottle =>
    let h := s.choice
    let temps := (List.range 8).map fun k => (k, h.nums.getD k 0)
    let why := h.value % 2 + (if 3200 < h.size then 2 else 0) + if temps.any (fun t => decide (1680 < t.2)) then 4 else 0
    let mhz := if why = 0 then Nat.min 1500 (s.clkMhz + 100) else Nat.max 500 (s.clkMhz - 100)
    let t := { s with temps := temps, power := h.size, throt := why, clkMhz := mhz }
    some (if mhz = s.clkMhz then t else t.postAll { kind := 5 })
  | .ethernetLinkChange =>
    let k := s.choice.unit
    let up := s.choice.value % 2 == 1
    if k < 8 ∧ s.ethernet.getLsbD k ≠ up then
      some (({ s with ethernet := if up then s.ethernet ||| BitVec.ofNat 8 (2 ^ k) else s.ethernet &&& ~~~ BitVec.ofNat 8 (2 ^ k) }).postPort
        (s.ethernetHost k) { kind := 8, info := k + if up then 256 else 0 })
    else none
  | .pcieLinkChange =>
    let up := s.choice.value % 2 == 1
    if p < 2 then
      let t := s.setPort p { s.port p with link := up }
      some (match up, s.asked (1 - p) with | false, some v => { t with startDue := v } | _, _ => t)
    else none
  | _ => none

/-! ### The step -/

/-- A step's outcome, with the system operations it lets complete (R443, R448, R450). -/
def settled (o : Host.Outcome State Fault Refusal) : Host.Outcome State Fault Refusal :=
  match o with
  | .next t => .next t.afterAct
  | .fault f => .fault f
  | .refused r => .refused r

/-- The state in which gang g has its turn: a clk later, the agenda's head taken, its quadrant's rotation gone on behind it,
and a corrected error, which the turn's `err` of 255 stands for, counted (R78, R100, R451). -/
def State.turn (s : State) (g err : Nat) : State :=
  ((({ s.tick with agenda := s.agenda.tail, issue := none }).noteOffer g).errTurn g err).1

/-- The storage error that an instruction offered in the turn meets. -/
def errOf (err : Nat) : Nat := if err = 255 then 0 else err

/-- That state once the run at pc is offered its issue cycle (R77, R80). -/
def State.atFetch (s : State) (g err pc : Nat) (run : BitVec 32) : State :=
  { ((s.turn g err).tickCounts g).modGang g (fun x => { x with offer := none }) with
    lastGang := g, issue := some { gang := g, run := run, pc := pc, err := errOf err } }

/-- The translations of fetched words are held (R448), and the network carries the words (R203, notes/assumptions/57.md). -/
def State.filled (s : State) (g pc : Nat) (ws : List Word) : State :=
  ((List.range ws.length).foldl (fun t k => t.fillTlb (t.layerOf g) (t.viaOf (t.gang g).crew) ((pc + 4 * k) % 2 ^ 57)) s).noteFetch
    g pc ws.length

/-- The issue of a run whose words are fetched. -/
def issueOf (g err pc : Nat) (run : BitVec 32) (ws : List Word) : Issue :=
  { gang := g, run := run, pc := pc, pfx := (headWords ws).1, insn := (headWords ws).2, err := errOf err }

/-- The instruction of fetched words stands at issue. -/
def State.fetched (s : State) (g err pc : Nat) (run : BitVec 32) (ws : List Word) : State :=
  { s.filled g pc ws with issue := some (issueOf g err pc run ws) }

/-- Gang g has its turn, and its issue cycle offers the run at pc: the agenda names a gang of its quadrant, the quadrant's
rotation comes to it, it may issue, and this is no starvation turn (R77, R78, R80). -/
structure Turns (s : State) (g err pc : Nat) (run : BitVec 32) : Prop where
  awake : s.frozen = false
  next : ∃ q rest, s.agenda = .gang q err :: rest ∧
    ({ s.tick with agenda := rest, issue := none }).quadNext (({ s.tick with agenda := rest, issue := none }).quadOf q) = some g
  up : (s.turn g err).gangUp g = true
  calm : ((s.turn g err).gang g).refineTrap = false
  some_ : (s.turn g err).runnable g ≠ 0
  ordinary : ((s.turn g err).starved g || ((s.turn g err).gang g).offer.isSome) = false
  head : pc = ((s.turn g err).gang g).offered ((s.turn g err).runnable g)
  whole : run = ((s.turn g err).gang g).at_ ((s.turn g err).runnable g) pc
  held : run ≠ 0
  /-- No fetch of it waits on a replayable fault (R448). -/
  free : ((s.turn g err).gang g).fetchWait.any (·.1 == pc) = false

/-- What a step's fetch of the run finds. -/
def State.finds (s : State) (g err pc : Nat) (run : BitVec 32) : Fetch :=
  (s.atFetch g err pc run).fetchWords ((s.atFetch g err pc run).gang g).crew pc ((s.atFetch g err pc run).gang g).level

/-! ### The checks at issue -/

/-- Its words are legal, for its gang (R58, R64). -/
def State.formOk (s : State) (i : Instr) (u : Issue) : Bool := 
  i.info.legal && taskOk i (s.gang u.gang).task.isSome && qlenOk i (s.gang u.gang).allot && eretOk i (s.gang u.gang).level

/-- It may lie in its segment (R65, R421). -/
def State.segOk (s : State) (i : Instr) (u : Issue) : Bool := 
  !i.info.privileged || s.segmentSys (s.layerOf u.gang) (s.viaOf (s.gang u.gang).crew) u.pc

/-- The trap its level gives it (R383, R422, R437). -/
def State.levelBad (s : State) (i : Instr) (u : Issue) : Option Nat :=
  levelTrap i (s.gang u.gang).level (match (s.gang u.gang).handler with | some h => h.task | none => false)

/-- Its registers, tiles and tags lie in its allotments (R53, R61). -/
def State.allotOk (s : State) (i : Instr) (u : Issue) : Bool :=
  rangeOk i (s.gang u.gang).allot (s.launch (s.crew (s.gang u.gang).crew).launch).desc.accs (s.tagCount (s.gang u.gang).crew)

/-- What its words and the allotments decide lets it pass. -/
structure Passes (i : Instr) (s : State) (u : Issue) : Prop where
  word : i.info.word = true
  atIssue : s.issue = some u
  form : s.formOk i u = true
  seg : s.segOk i u = true
  level : s.levelBad i u = none
  allot : s.allotOk i u = true

/-- SFWAIT waits whatever lanes are active (R66). -/
def isSfwait (i : Instr) : Bool :=
  match i with
  | .sfwait .. => true
  | _ => false

/-- Its queues, registers and streams let it issue, and so does its own description (R57, R156, R162). -/
def State.unstalled (s : State) (i : Instr) (u : Issue) : Bool :=
  s.queuesReady u.gang (popcount (s.ctx i u).qlanes) i && (s.destsFree u.gang i || badIv i (s.ctx i u))
    && s.streamRoom u.gang (s.ctx i u).act i && !specialStall i (s.ctx i u) s

/-! ### Traps -/

/-- The trap a run raises at issue (R433). -/
def State.issueTrapOf (s : State) (u : Issue) (len cause faddr lane : Nat) : Trap :=
  { cause := cause, faddr := faddr, flane := lane, lanes := u.run, pfx := u.pfx, insn := u.insn, fpc := none, rpt := none
    dcause := 0, dlane := 255, dfaddr := 0, counters := s.counterList u.gang, at_ := u.pc, len := len, issue := true }

/-- The n bytes from byte k, as a number. -/
def fieldAt (b : List Byte) (k n : Nat) : Nat := ofBytes ((b.drop k).take n)

/-- The numbers of R422 Table 2. -/
def systemRegisters : List Nat :=
  (List.range 11) ++ [0x010, 0x011, 0x012, 0x013, 0x014, 0x020, 0x021, 0x030, 0x031, 0x032, 0x033, 0x034, 0x035, 0x036, 0x037, 0x038,
    0x039, 0x03A, 0x03B, 0x03C]

/-! ### Values -/

/-- x clamped to [lo, hi]. -/
def clamped (x lo hi y : Int) : Prop := (x < lo → y = lo) ∧ (hi < x → y = hi) ∧ (lo ≤ x → x ≤ hi → y = x)

end Sys2Proof.Machine
end

