-- ==== Sys2Proof/Certificates/Slice0/Obligations.lean ====
section
/-! DEFINITION. The statements for the provers. -/

open Sys2Proof Sys2Proof.Machine

/-! ### Results -/

/-- An integer, address, bit or cross-lane instruction that is ready completes, and writes its result and nothing else. The value of a
ZERO lane of a g destination follows log entry 39; what ADDC and CXS push into a queue, log entry 59. -/
def Obligations.IntegerResults : Prop :=
  ∀ (i : Instr) (s : State) (u : Issue) (r : Result), Ready i s u → integerResult i (s.ctx i u) = some r →
    ∃ t, exec i s = .next t ∧ Gave s i u r.d.toNat r.n r.f (s.moved i u) t

/-- A floating-point instruction that is ready completes, and writes its result and nothing else. -/
def Obligations.FloatResults : Prop :=
  ∀ (i : Instr) (s : State) (u : Issue) (r : Result), Ready i s u → floatResult i (s.ctx i u) = some r →
    ∃ t, exec i s = .next t ∧ Gave s i u r.d.toNat r.n r.f (s.moved i u) t

/-- A uniform instruction with one result that is ready completes, and writes its word and nothing else. -/
def Obligations.UniformResults : Prop :=
  ∀ (i : Instr) (s : State) (u : Issue) (d : Reg) (x : Nat), Ready i s u → uniformResult i (s.ctx i u) = some (d, x) →
    ∃ t, exec i s = .next t ∧ Gave s i u d.toNat 1 (fun _ => x) (s.moved i u) t

/-- A shuffle that is ready completes: each active lane takes the operand of its source lane, or its own where the source is out of range
or not live, and the flag mask tells which. -/
def Obligations.ShuffleResults : Prop :=
  ∀ (i : Instr) (s : State) (u : Issue) (d : Reg) (n : Nat) (flg : BitVec 4) (src : Nat → Nat × Bool), Ready i s u →
    shuffleFrom i (s.ctx i u) = some (d, n, flg, src) →
    ∃ t, exec i s = .next t ∧ Gave s i u d.toNat n (fun l => (s.ctx i u).val 0 (src l).1)
      (if flg = 15 then s.moved i u
       else (s.moved i u).writeMask flg.toNat ((s.ctx i u).maskWith flg.toNat fun l => (src l).2)) t

/-! ### Control flow -/

/-- A branch that is ready moves every thread of its run to the target its rule gives, and changes nothing else. That a target is taken
modulo 2^57 is the model's choice (log entry 48). -/
def Obligations.BranchesMove : Prop :=
  ∀ (i : Instr) (s : State) (u : Issue) (f : Nat → Nat), Ready i s u → branchTo i (s.ctx i u) = some f →
    (indirect i = true → ∀ l, hasLane u.run l = true → badTarget (f l) = false) →
    ∃ t, exec i s = .next t ∧ Quiet s i u (fun _ => []) t ∧ GangIs s u (s.ran u fun l th => { th with pc := f l }) t

/-- A call or a return through the stack that is ready, with room or a return address on every thread's stack, moves the threads and their
stacks; CALLI with a link register writes the return address there instead. That targets and return addresses are taken modulo 2^57 is the
model's choice (log entry 48). -/
def Obligations.CallsAndReturns : Prop :=
  (∀ (i : Instr) (s : State) (u : Issue) (f : Nat → Thread → Thread) (n : Nat), Ready i s u →
    callTo i (s.ctx i u) = some f → stackBound i = some n →
    (∀ l, hasLane u.run l = true → ((s.gang u.gang).thread l).stack.length ≠ n) →
    (indirect i = true → ∀ l, hasLane u.run l = true → badTarget ((s.ctx i u).val 0 l) = false) →
    ∃ t, exec i s = .next t ∧ Quiet s i u (fun _ => []) t ∧ GangIs s u (s.ran u f) t) ∧
  (∀ (d p : Reg) (s : State) (u : Issue), Ready (.calliLink d p) s u →
    (∀ l, hasLane u.run l = true → badTarget ((s.ctx (.calliLink d p) u).val 0 l) = false) →
    ∃ t, exec (.calliLink d p) s = .next t ∧
      Gave s (.calliLink d p) u d.toNat 2 (fun _ => (s.ctx (.calliLink d p) u).next)
        (s.ran u fun l th => { th with pc := (s.ctx (.calliLink d p) u).val 0 l }) t)

/-- A target that no program counter can hold, a call with a full stack and a return with an empty one trap at issue: 05h before 04h, and
the instruction has no other effect. -/
def Obligations.ControlTraps : Prop :=
  ∀ (i : Instr) (s : State) (u : Issue), Ready i s u →
    (indirect i = true → (∃ l, hasLane u.run l = true ∧ badTarget ((s.ctx i u).val 0 l) = true) →
      exec i s = .next (s.trapAt u i.len 0x05 0 255)) ∧
    (∀ n, stackBound i = some n → (∃ l, hasLane u.run l = true ∧ ((s.gang u.gang).thread l).stack.length = n) →
      (indirect i = true → ∀ l, hasLane u.run l = true → badTarget ((s.ctx i u).val 0 l) = false) →
      exec i s = .next (s.trapAt u i.len 0x04 0 255))

/-- An instruction that writes a mask completes: the mask, the releases it causes, and nothing else. -/
def Obligations.MaskResults : Prop :=
  ∀ (i : Instr) (s : State) (u : Issue) (k : Nat) (v : BitVec 32), Ready i s u → maskResult i (s.ctx i u) = some (k, v) →
    ∃ t, exec i s = .next t ∧ Quiet s i u (fun _ => []) t ∧ GangIs s u ((s.moved i u).writeMask k v) t

/-- The release rule: after a write of mk, if every live member waits on mk, those waiting on mk run again past their WAITM; otherwise no
thread changes. That the program counter is then not reduced modulo 2^57 is the model's choice (log entry 48). -/
def Obligations.ReleaseRule : Prop :=
  ∀ (g : Gang) (k : Nat) (v : BitVec 32),
    let h := g.writeMask k v
    h.mask k = v ∧ (∀ j, j ≠ k → h.mask j = g.mask j) ∧ h = { g with m := h.m, threads := h.threads } ∧
    ((∀ l, hasLane v l = true → hasLane h.live l = true → (g.thread l).wait = .waitm k) →
      h.threads = g.threads.map fun t => if t.wait = .waitm k then { t with wait := .none, pc := t.pc + 4 } else t) ∧
    ((∃ l, hasLane v l = true ∧ hasLane h.live l = true ∧ (g.thread l).wait ≠ .waitm k) → h.threads = g.threads)

/-- WAITM, YIELD, SLEEP, ROLE, SFWAIT and SWAIT, ready, complete with the change of their gang the spec gives them. Where a prefixed
SFWAIT leaves the program counter is log entry 55. -/
def Obligations.GangChanges : Prop :=
  ∀ (i : Instr) (s : State) (u : Issue) (g : Gang), Ready i s u → gangChange i s u = some g →
    ∃ t, exec i s = .next t ∧ Quiet s i u (fun _ => []) t ∧ GangIs s u g t

/-! ### Accesses, commands and what else an instruction leaves -/

/-- Loads, stores, prefetches, atomics and the aqueduct's instructions, ready and with every lane's address legal, complete: their
operations stand in flight, ZERO clears what it names, and nothing else changes. When ZERO clears the other lanes is log entry 39; that
store data is popped after the address, where both name one queue, log entry 58. -/
def Obligations.AccessesIssue : Prop :=
  ∀ (i : Instr) (s : State) (u : Issue) (d n : Nat) (l : List Acc), Ready i s u → accessesOf i (s.ctx i u) = some (d, n, l) →
    (∀ a ∈ l, a.addr.bad = none) →
    ∃ t, exec i s = .next t ∧ Issues s (l.map (·.op)) t ∧
      Wrote s i u d n (s.ctx i u).zeros (fun _ => []) (s.moved i u) (t.withOps s)

/-- An access with an illegal address traps at issue: the first lane whose address is illegal names the cause, the address and the lane,
and nothing is issued. -/
def Obligations.AccessTraps : Prop :=
  ∀ (i : Instr) (s : State) (u : Issue) (d n : Nat) (l : List Acc) (a : Acc) (cause faddr : Nat), Ready i s u →
    accessesOf i (s.ctx i u) = some (d, n, l) → l.find? (fun a => a.addr.bad.isSome) = some a → a.addr.bad = some (cause, faddr) →
    exec i s = .next (s.trapAt u i.len cause (faddr % 2 ^ 64) a.lane)

/-- Results, tags, barges, rings, barriers, tickets and locks: an instruction that is ready and meets no trap of its own completes; it
writes what its rule says, moves its gang on, and changes what its rule names. That QLK joins its FIFO at issue, and a BARW is woken by
arrivals, is log entry 17; that EWID of a bare operand appends no leaf, log entry 51; the sign of a zero that EBND writes, log entry 52;
the order of TKTS.SET's pops, log entry 58. -/
def Obligations.WordsComplete : Prop :=
  ∀ (i : Instr) (s : State) (u : Issue) (p : Plan), Ready i s u → issueTrap i (s.ctx i u) (s.issued i u) = none →
    wordPlan i s u = some p → ∃ w, exec i s = .next (p.post w) ∧ Wrote s i u p.d p.n p.w p.push p.gang w

/-- The matrix, weir and point-cloud instructions, ready and with legal operands, complete: their command is in flight. The compand table
a command uses is log entry 36. -/
def Obligations.EngineCommandsIssue : Prop :=
  ∀ (i : Instr) (s : State) (u : Issue) (p : Plan), Ready i s u → issueTrap i (s.ctx i u) (s.issued i u) = none →
    enginePlan i s u = some p → ∃ w, exec i s = .next (p.post w) ∧ Wrote s i u p.d p.n p.w p.push p.gang w

/-- Tasks, claims, slots and system instructions, ready and with legal operands, complete. What DBGH, TLBI, KEYLD, CTXSV and CTXLD do when
is in places log entries 24 and 25; the order in which BFLUSH closes its bins is log entry 34; CTXSV of a task gang's crew is log entry
21; the order of the pops of SPAWN, log entry 58. -/
def Obligations.SystemWordsComplete : Prop :=
  ∀ (i : Instr) (s : State) (u : Issue) (p : Plan), Ready i s u → issueTrap i (s.ctx i u) (s.issued i u) = none →
    systemPlan i s u = some p → ∃ w, exec i s = .next (p.post w) ∧ Wrote s i u p.d p.n p.w p.push p.gang w

/-- An instruction whose operands break its own rules traps at issue and has no other effect. Which point records trap rests on log
entries 14 and 35; the lane and the address a trap names where the spec does not say, on log entry 54. -/
def Obligations.OperandTraps : Prop :=
  ∀ (i : Instr) (s : State) (u : Issue) (cause faddr lane : Nat), Ready i s u →
    issueTrap i (s.ctx i u) (s.issued i u) = some (cause, faddr, lane) →
    exec i s = .next (s.trapAt u i.len cause (faddr % 2 ^ 64) lane)

/-- EXIT, CLAIM.TRY, GIVE, TDONE, TRAP, BRK, ERET, ICLOCK, ECMP and ESGN, ready and with legal operands, complete with the effect their
rules name. Which gangs BRK halts is log entry 24; that ERET returns to level 0, whatever the frame's LEVEL and STATE hold, log entry 45;
what ERET.KILL does at once, log entry 37. -/
def Obligations.EffectsComplete : Prop :=
  ∀ (i : Instr) (s : State) (u : Issue) (t : State), Ready i s u → issueTrap i (s.ctx i u) (s.issued i u) = none →
    effectOf i s u = some t → exec i s = .next t

/-! ### Intervals -/

/-- An instruction with e destinations that is ready, whose lanes pass their checks and whose nodes are free, completes: its lanes act in
ascending order. That the needs are added over ascending lanes is log entry 27; EMOV of a bare operand is log entry 28; what an unreadable
spilled node holds is log entry 4. -/
def Obligations.IntervalsComplete : Prop :=
  ∀ (i : Instr) (s : State) (u : Issue) (p : IvPlan), Ready i s u → intervalPlan i (s.ctx i u) (s.issued i u) = some p →
    (∀ l, hasLane (s.ctx i u).act l = true → p.bad l = none) → p.fits (s.ctx i u) (s.issued i u) = true →
    (runLanes (lanes (s.ctx i u).act) (p.start (s.ctx i u) (s.issued i u)) p.act).2 = none →
    exec i s = .next ((s.ctx i u).zeroRest (runLanes (lanes (s.ctx i u).act) (p.start (s.ctx i u) (s.issued i u)) p.act).1 p.d.toNat 4)

/-- The interval of an arithmetic instruction: whenever its lanes have acted without a fault, each active lane's destination holds its
operator's bounds and flag word, with a reference; the other lanes' v registers keep their values. -/
def Obligations.IntervalValues : Prop :=
  ∀ (i : Instr) (s : State) (u : Issue) (d : Reg) (op n : Nat), Ready i s u → intervalOf i = some (d, op, n) →
    let c := s.ctx i u
    let t := (runLanes (lanes c.act) ((s.issued i u).reclaimAll c.crewId) (c.ivLane d op n)).1
    (runLanes (lanes c.act) ((s.issued i u).reclaimAll c.crewId) (c.ivLane d op n)).2 = none →
    (∀ l, hasLane c.act l = true →
      (t.gang u.gang).vreg d.toNat l = (c.ivResult op n l).lo % 2 ^ 32 ∧ (t.gang u.gang).vreg (d.toNat + 1) l = (c.ivResult op n l).hi % 2 ^ 32 ∧
      (t.gang u.gang).vreg (d.toNat + 3) l = c.ivFlags op n l % 2 ^ 32 ∧ (t.gang u.gang).hvAt (d.toNat / 4) l = true) ∧
    (∀ r l, r < 192 → l < 32 → (hasLane c.act l = false ∨ r / 4 ≠ d.toNat / 4) → (t.gang u.gang).vreg r l = (s.gang u.gang).vreg r l)

/-! ### Acts -/

/-- Completions of memory operations, translation, barriers, tickets, locks, sleeps and the aqueduct: an act that is due leaves the state
its rule says. When an act is due is in places the model's reading (log entries 2 and 8). The table rests also on log entries 7 (TLB), 11
(store buffer, posted stores), 17 (locks, barriers, sleep), 20 (aqueduct), 40 (scopes) and 41 (lines under another key). -/
def Obligations.MemoryActsComplete : Prop :=
  ∀ (a : Instr) (s t : State), memoryAct a s = some t → exec a s = .next t

/-- Barges, rings and I/O requests: an act that is due leaves the state its rule says. When an act is due is in places the model's reading
(log entries 2 and 8). Log entries 18 and 19 fix the corners, 49 the STATUS where several apply, 32 the vector of an error from outside;
that RAWAIT waits for its own edges is log entry 17. -/
def Obligations.BargeActsComplete : Prop :=
  ∀ (a : Instr) (s t : State), bargeAct a s = some t → exec a s = .next t

/-- The refinement, matrix, weir and neighbour engines, the caddy unit and the bin unit: an act that is due leaves the state its rule
says. When an act is due is in places the model's reading (log entries 2 and 8). The table rests also on log entries 14 (accesses past the
partition), 26 (refinement), 32 (errors from outside), 35 (point commands), 36 (compand table, overlaps, early elements), 52 (the sign of a
signature's zero), 53 (queues), 61 (a full site table) and 63 (the order of a WSIG). -/
def Obligations.EngineActsComplete : Prop :=
  ∀ (a : Instr) (s t : State), engineAct a s = some t → exec a s = .next t

/-- Bins, task gangs, yields, traps, pre-emption, placing, the watchdog and the network: an act that is due leaves the state its rule
says. When an act is due is in places the model's reading (log entries 2 and 8). Log entries 22 and 33 fix the corners; trap entry rests
on 15 and 37, capture at pre-emption on 44 and 53, the references of exited threads on 28, the traffic of fetches on 57. -/
def Obligations.ScheduleActsComplete : Prop :=
  ∀ (a : Instr) (s t : State), scheduleAct a s = some t → exec a s = .next t

/-- The hosts' register writes and the commands: an act that is due leaves the state its rule says. When an act is due is in places the
model's reading (log entries 2 and 8). Log entry 34 fixes the corners; EVBASE's low bits, a CTO below 100 and the ringing of the mailbox
are log entry 23; what a write into a replicated region waits for is log entry 20. -/
def Obligations.CommandsComplete : Prop :=
  ∀ (a : Instr) (s t : State), commandAct a s = some t → exec a s = .next t

/-- A firmware call that nothing refuses and nothing delays does what its rule says, and ends with STATUS 00h and its RES0. What a call
does besides is in places log entry 23; the calls of debugging are log entry 24; that SLEEP and WAKE tell both ports is log entry 30. -/
def Obligations.CallsComplete : Prop :=
  ∀ (a : Instr) (s t : State) (c : Caller) (x r res : Nat), s.called a = some (c, x, r) → refusal (callRefusals a s x r) = none →
    callEffect a s x r = some (res, t) → exec a s = .next (t.fwEnd c 0 res)

/-- A firmware call that a refusal applies to ends with the lowest STATUS that does, and does nothing else. The order of refusals is log
entry 23. -/
def Obligations.CallsRefused : Prop :=
  ∀ (a : Instr) (s : State) (c : Caller) (x r status : Nat), s.called a = some (c, x, r) →
    refusal (callRefusals a s x r) = some status → exec a s = .next (s.fwEnd c status 0)

/-- A load of code into a free segment, and a FREE of one in use, do what their rules say. The order of its checks is log entry 29; how a
signature verifies, and the translator's text, log entry 12; which function records are malformed, log entry 56. -/
def Obligations.LoadCallsComplete : Prop :=
  ∀ (a : Instr) (s t : State), loadAct a s = some t → exec a s = .next t

/-- Starts, readiness, freezing, heat and links: an act that is due leaves the state its rule says. When an act is due is in places the
model's reading (log entries 2 and 8). Log entry 30 fixes the corners; that READY gates no port and no memory is log entry 62. -/
def Obligations.PartActsComplete : Prop :=
  ∀ (a : Instr) (s t : State), partAct a s = some t → exec a s = .next t

/-! ### Encodings and the step -/

/-- The words of R76 Table 20 decode to the lines they assemble from, and are what those lines encode to. -/
def Obligations.WorkedEncodings : Prop :=
  let p (msk : BitVec 4) (rnd : BitVec 2) (zero f4v : Bool) (f4 : BitVec 8) : OPfx := some ⟨msk, rnd, zero, f4v, f4, 0, 0⟩
  let both (ws : List Word) (i : Instr) : Prop := decodeWords ws = .ok i ∧ i.encode = ws
  both [0x7F260000, 0x30090304] (.fadd (p 2 1 true false 0) 9 3 4) ∧
  both [0x60040200, 0x20640004] (.ldg none 4 2 false ⟨1, 3, 1, false, 0, 0, 4⟩) ∧
  both [0x7FF10500, 0x33010203] (.ffma (p 15 0 false true 5) 1 2 3) ∧
  both [0x01000002] (.bra 2) ∧ both [0] .nop ∧ both [0x07000000] .exit

/-- Every legal instruction decodes from its own encoding: no field is dropped. -/
def Obligations.DecodeEncode : Prop :=
  ∀ (i : Instr), i.WellFormed → decodeWords i.encode = .ok i ∧ 4 * i.encode.length = i.len

/-- Words that decode are the encoding of what they decode to: no reserved field passes, no two encodings are one instruction. -/
def Obligations.EncodeDecode : Prop :=
  ∀ (ws : List Word) (i : Instr), decodeWords ws = .ok i → ws.take i.encode.length = i.encode ∧ i.info.word = true

/-- When the words at the program counter of the run that is offered decode to an instruction, the step is that instruction's `exec`, with
the run at issue. Whose turn it is follows the agenda of log entry 2. -/
def Obligations.StepRunsDecoded : Prop :=
  ∀ (s : State) (g err pc : Nat) (run : BitVec 32) (ws : List Word) (i : Instr), Turns s g err pc run →
    s.finds g err pc run = .words ws → decodeWords ws = .ok i →
    step s = settled (exec i ((s.atFetch g err pc run).fetched g err pc run ws))

/-- Words that decode to nothing raise illegal-instruction; a fatal fetch fault traps, and records the prefix word and the base word that
were fetched before it; a replayable one delays the run. That a replayable fault waits is log entry 31; the traffic of the fetch is log
entry 57. -/
def Obligations.FetchFailures : Prop :=
  ∀ (s : State) (g err pc : Nat) (run : BitVec 32), Turns s g err pc run →
    let t := s.atFetch g err pc run
    (∀ ws r, s.finds g err pc run = .words ws → decodeWords ws = .error r →
      step s = .next ((t.filled g pc ws).trapAt (issueOf g err pc run ws) (4 * ws.length) 0x01 0 255).afterAct) ∧
    (∀ cause faddr got, s.finds g err pc run = .fault cause faddr false got →
      step s = .next (t.trapAt { gang := g, run := run, pc := pc, pfx := (headWords got).1, insn := (headWords got).2 } 0 cause faddr 255).afterAct) ∧
    (∀ cause faddr got, s.finds g err pc run = .fault cause faddr true got → step s = .next (t.waitFault g pc cause faddr).afterAct)

/-- No step takes the memory out of its canonical form. The canonical form is the model's own (log entry 1). -/
def Obligations.MemoryCanonical : Prop := ∀ (s t : State), Memory.wf s.mem = true → step s = .next t → Memory.wf t.mem = true

/-- The part after a cold start: memory in canonical form; every layer's and core's system registers at the values R423 and R424 state,
the distributor's at those of R470; no function ready; nothing runs. That nothing runs, no function is ready and every other register
holds 0 are the model's choices (log entries 3 and 5). -/
def Obligations.ResetState : Prop :=
  let s := State.reset
  Memory.wf s.mem = true ∧
  (∀ l, (s.layer l).netidle = 256 ∧ (s.layer l).netdlt = 4096 ∧ (s.layer l).taskage = 16 ∧ (s.layer l).wdt = 0 ∧ (s.layer l).dbgctl = 0 ∧
    (s.layer l).kvec = 0 ∧ (s.layer l).ptb = 0 ∧ (s.layer l).netesc = 0 ∧ (s.layer l).rasce = 0 ∧ (s.layer l).raslat = 0 ∧
    s.faultCount l = 0) ∧
  (∀ k, (s.coreAt k).mxidle = 1024) ∧ (∀ l, (s.layer l).draint = 1024 ∧ (s.layer l).cvage = 16) ∧
  s.ready = 0 ∧ s.gangs = [] ∧ s.crews = [] ∧ s.ops = [] ∧ s.reqs = []

/-! ### The checks at issue -/

/-- What an instruction's words and the allotments decide comes first, in this order: illegal-instruction, privileged-instruction, what
its level forbids, register-range; each traps and does nothing else. The order among them is the model's reading of those rules. -/
def Obligations.WordChecks : Prop :=
  ∀ (i : Instr) (s : State) (u : Issue), i.info.word = true → s.issue = some u →
    let trap (cause : Nat) : Prop := exec i s = .next (s.trapAt u i.len cause 0 255)
    (s.formOk i u = false → trap 0x01) ∧
    (s.formOk i u = true → s.segOk i u = false → trap 0x02) ∧
    (∀ cause, s.formOk i u = true → s.segOk i u = true → s.levelBad i u = some cause → trap cause) ∧
    (s.formOk i u = true → s.segOk i u = true → s.levelBad i u = none → s.allotOk i u = false → trap 0x03)

/-- An instruction other than SFWAIT that passes those checks and has no active lane only moves its run on: nothing else of the part
changes but the crew's watchdog, which starts again. That the program counter is taken modulo 2^57 is the model's choice (log entry 48).
-/
def Obligations.NoActiveLane : Prop :=
  ∀ (i : Instr) (s : State) (u : Issue), Passes i s u → (s.ctx i u).act = 0 → isSfwait i = false →
    exec i s = .next { s with
      gangs := alter s.gangs u.gang fun g => { g with
        threads := g.threads.mapIdx fun l th => if hasLane u.run l then { th with pc := (u.pc + i.len) % 2 ^ 57, count := 0, waity := none } else th
        stepOnce := false, offer := none, fetchWait := g.waitsPast u.pc }
      crews := alter s.crews (s.gang u.gang).crew fun c => { c with wdog := s.clk } }

/-- An instruction with an active lane that passes those checks: one that would pop or push more than a queue holds traps; else one that
stalls changes nothing but where a WAITY notes since when its run, and each other run that stands at one, stands there; else one that
reads what a storage error has taken traps. That a stall changes only WAITY's mark is the model's reading; poison is log entry 16. -/
def Obligations.QueuesAndStalls : Prop :=
  ∀ (i : Instr) (s : State) (u : Issue), Passes i s u → ((s.ctx i u).act ≠ 0 ∨ isSfwait i = true) →
    let deep := queueRangeOk i (popcount (s.ctx i u).qlanes)
    (deep = false → exec i s = .next (s.trapAt u i.len 0x23 0 255)) ∧
    (deep = true → s.unstalled i u = false →
      exec i s = .next (s.noteStall i (s.ctx i u)) ∧ ((∀ a m, i ≠ .waity a m) → exec i s = .next s)) ∧
    (deep = true → s.unstalled i u = true → readsStore i u.err = true → exec i s = .next (s.trapAt u i.len 0x1C u.err 255))

/-! ### Traps and handlers -/

/-- A trap of an instruction whose gang is off its core stands until it is back; one raised at level 0 stands until its gang has drained,
and its gang issues nothing meanwhile; one raised at level 1 or 2 kills the crew. That a trap waits until its gang is back is log entry
22; what the kill does at once is log entry 37. -/
def Obligations.TrapsWait : Prop :=
  ∀ (s : State) (u : Issue) (len cause faddr lane : Nat), (find s.gangs u.gang).isSome →
    let raised := s.modGang u.gang fun g => { g with pend := some (s.issueTrapOf u len cause faddr lane), offer := none }
    let trapped := s.trapAt u len cause faddr lane
    (s.onCore u.gang true = false → trapped = raised) ∧
    (s.onCore u.gang true = true → 1 ≤ (s.gang u.gang).level → trapped = raised.killCrew (s.gang u.gang).crew cause faddr) ∧
    (s.onCore u.gang true = true → (s.gang u.gang).level = 0 → s.drained u.gang false = false → trapped = raised) ∧
    (trapped = raised → trapped.runnable u.gang = 0)

/-- Trap entry of a drained gang on its core: the lanes that ended undecided meanwhile join the trap; the frame is written, with the
counters as they stood at the trap: at issue, or, for a failure, as its entry begins; every live thread that is not parked stands at the
handler's entry and waits for nothing; the level is 1 in a task handler, else 2; g28 to g31 hold the frame's address, the cause and the
lanes; every other register and mask is as it was. Log entry 15 fixes the frame's corners, 48 a THAND with reserved bits set. -/
def Obligations.TrapEntry : Prop :=
  ∀ (s u : State) (gid entry : Nat) (g : Gang) (t₀ tr : Trap) (task : Bool), (find s.gangs gid).isSome → (s.gang gid).pend = some t₀ →
    g = ((s.record gid).gang gid).gather → g.pend = some tr → s.onCore gid t₀.issue = true → (s.gang gid).level = 0 → s.drained gid false = true →
    let w := (s.record gid).modGang gid Gang.gather
    w.handlerOf gid = .ok (entry, task) → entry ≠ 0 → g.live ≠ 0 →
    w.partWrite (s.layerOf gid) (s.frameAddr gid) (g.frameBytes tr) = .ok u →
    let t := s.enterTrap gid
    let h := t.gang gid
    tr.counters = (if t₀.counters = [] then s.counterList gid else t₀.counters) ∧
    t.mem = u.mem ∧ t.crews = s.crews ∧ (∀ j, j ≠ gid → t.gang j = s.gang j) ∧
    h.level = (if task then 1 else 2) ∧ h.pend = none ∧ h.m = g.m ∧ h.v = g.v ∧ h.hv = g.hv ∧ h.role = g.role ∧
    (∀ l, l < g.threads.length → hasLane g.live l = true → (g.thread l).wait ≠ .parked →
      h.thread l = { g.thread l with pc := entry, count := 0, wait := .none, waity := none }) ∧
    (∀ l, hasLane g.live l = false ∨ (g.thread l).wait = .parked → h.thread l = g.thread l) ∧
    h.greg 28 = s.frameAddr gid % 2 ^ 32 ∧ h.greg 29 = s.frameAddr gid / 2 ^ 32 % 2 ^ 32 ∧ h.greg 30 = tr.cause % 2 ^ 32 ∧
    h.greg 31 = tr.lanes.toNat ∧ (∀ r, r < 28 → h.greg r = g.greg r)

/-- The frame's fields stand where Table 7 puts them, and its reserved bytes are zero. LEVEL's value is log entry 15. -/
def Obligations.FrameFields : Prop :=
  ∀ (g : Gang) (t : Trap), t.counters.length = 256 →
    let b := g.frameBytes t
    b.length = 1024 ∧ fieldAt b 0 1 = t.cause % 256 ∧ fieldAt b 1 1 = g.level % 256 ∧ fieldAt b 3 1 = t.flane % 256 ∧
    fieldAt b 2 1 = (if t.fpc.isSome then 1 else 0) + (if t.rpt.isSome then 2 else 0) ∧
    fieldAt b 4 4 = t.pfx % 2 ^ 32 ∧ fieldAt b 8 8 = t.faddr % 2 ^ 64 ∧ fieldAt b 16 8 = t.fpc.getD 0 % 2 ^ 64 ∧
    fieldAt b 24 4 = t.lanes.toNat ∧
    (∀ l, l < 32 → (fieldAt b 28 4).testBit l = (hasLane g.live l && (g.thread l).wait == .parked)) ∧
    fieldAt b 86 2 = 0 ∧ (∀ k, k < 12 → fieldAt b (32 + 4 * k) 4 = (g.mask k).toNat) ∧ fieldAt b 80 4 = t.insn % 2 ^ 32 ∧
    fieldAt b 84 1 = t.dcause % 256 ∧ fieldAt b 85 1 = t.dlane % 256 ∧ fieldAt b 88 8 = t.dfaddr % 2 ^ 64 ∧
    fieldAt b 96 32 = t.rpt.getD 0 % 2 ^ 256 ∧ (∀ l, l < 32 → fieldAt b (128 + 8 * l) 8 = g.framePc l % 2 ^ 64) ∧
    (∀ k, k < 256 → fieldAt b (384 + k) 1 = t.counters.getD k 0 % 256) ∧ (∀ l, l < 32 → fieldAt b (640 + l) 1 = (g.thread l).sfv.toNat) ∧
    (∀ l, l < 32 → fieldAt b (672 + l) 1 = g.stateCode l % 256) ∧ (∀ k, k < 4 → fieldAt b (704 + 4 * k) 4 = g.greg (28 + k)) ∧
    (∀ k, 720 ≤ k → k < 1024 → fieldAt b k 1 = 0)

/-- What ERET takes from the frame: each live thread's program counter, its stream fault vector cleared; m1 to m11 and g28 to g31; level
0. A thread whose STATE byte is 0 runs; any other takes up again the wait it had when the handler was entered, and one parked stays
parked; but a sleep ends, and a group at WAITM whose members all wait there runs on past it. Every other register is as it was. That the
level is 0, and that other changes of STATE and LEVEL are ignored, is log entry 45; what the frame holds is log entry 15. -/
def Obligations.HandlerReturn : Prop :=
  ∀ (g : Gang) (f : FrameRead) (w : List Wait),
    let h := g.leave f w
    let wait (l : Nat) : Wait :=
      if g.threads.length ≤ l ∨ f.states.getD l 0 = 0 then .none
      else if (g.thread l).wait = .parked then .parked
      else match w.getD l .none with | .sleep _ => .none | x => x
    let met (k : Nat) : Prop := ∀ j, hasLane (h.mask k) j = true → hasLane g.live j = true → wait j = .waitm k
    h.level = 0 ∧ h.handler = none ∧ h.live = g.live ∧ h.v = g.v ∧ h.hv = g.hv ∧ h.role = g.role ∧ h.acc = g.acc ∧ h.stamp = g.stamp ∧
    (∀ k, 1 ≤ k → k < 12 → (h.mask k).toNat = f.masks.getD k 0 % 2 ^ 32) ∧
    (∀ k, k < 4 → h.greg (28 + k) = f.gsave.getD k 0 % 2 ^ 32) ∧ (∀ r, r < 28 → h.greg r = g.greg r) ∧
    (∀ l, l < g.threads.length → hasLane g.live l = true → (h.thread l).sfv = 0 ∧ (h.thread l).stack = (g.thread l).stack ∧
      (∀ k, k < 12 → wait l = .waitm k → met k → (h.thread l).wait = .none ∧ (h.thread l).pc = f.pcs.getD l 0 + 4) ∧
      ((∀ k, k < 12 → wait l = .waitm k → ¬ met k) → (h.thread l).wait = wait l ∧ (h.thread l).pc = f.pcs.getD l 0))

/-- A killed crew: no thread of its gangs lives, none is in a handler or waits for one, no claim waits; its launch's queue stops with a
launch error. What a kill does at once is log entry 37. -/
def Obligations.KilledCrew : Prop :=
  ∀ (s : State) (c cause faddr : Nat),
    let t := s.killCrew c cause faddr
    let n := s.launch (s.crew c).launch
    (∀ j, j ∈ (s.crew c).gangs → (t.gang j).live = 0 ∧ (t.gang j).pend = none ∧ (t.gang j).handler = none) ∧
    (t.crew c).claims = [] ∧ (t.cq n.layer n.queue).state = 3 ∧ (t.cq n.layer n.queue).err = 5

/-! ### Threads -/

/-- Where no starvation turn is due, an issue cycle offers the runnable threads with the lowest program counter. -/
def Obligations.HeadRun : Prop :=
  ∀ (g : Gang) (m : BitVec 32), g.offer = none → m ≠ 0 → (∀ l, hasLane m l = true → (g.thread l).pc < 2 ^ 57) →
    (∃ l, hasLane m l = true ∧ (g.thread l).pc = g.offered m) ∧ ∀ l, hasLane m l = true →
      g.offered m ≤ (g.thread l).pc ∧ (hasLane (g.at_ m (g.offered m)) l = true ↔ (g.thread l).pc = g.offered m)

/-- A quadrant's slot goes to the gang that comes first after the slot it offered last, among those it offers a slot; a yielded gang that
the others have yet to pass comes behind them. -/
def Obligations.QuadrantRotation : Prop :=
  ∀ (s : State) (q : Nat × Nat × Nat × Nat),
    let ids := (s.gangs.map (·.1)).filter fun i => s.offered i && s.quadOf i == q
    let last := look (look s.cores (quadCore q) {}).turns q.2.2.2 7
    let far (i : Nat) : Nat := ((s.gang i).slot + 63 - last) % 8
    (ids ≠ [] → (s.quadNext q).isSome = true) ∧
    ∀ g, s.quadNext q = some g → g ∈ ids ∧ (s.passedOver ids g = true → ∀ j, j ∈ ids → s.passedOver ids j = true) ∧
      ∀ j, j ∈ ids → s.passedOver ids j = s.passedOver ids g → far g ≤ far j

/-- EXIT: the run's bits of m0 fall and its threads' stacks and wait counts are gone; m1 to m11 and every register stay; of the other
threads only those change that the release rule lets go. Log entry 48 says what becomes of a WAITM in the last word. -/
def Obligations.ExitRule : Prop :=
  ∀ (g : Gang) (m : BitVec 32),
    let h := g.exit m
    h.live = g.live &&& ~~~ m ∧ (∀ k, k ≠ 0 → h.mask k = g.mask k) ∧ h = { g with m := h.m, threads := h.threads } ∧
    (∀ l, hasLane m l = true → h.thread l = {}) ∧
    (∀ l, hasLane m l = false → h.thread l = g.thread l ∨
      ∃ k, k < 12 ∧ (g.thread l).wait = .waitm k ∧ h.thread l = { g.thread l with wait := .none, pc := (g.thread l).pc + 4 } ∧
        ∀ j, hasLane (g.mask k) j = true → hasLane h.live j = true → (g.thread j).wait = .waitm k)

/-! ### Values -/

/-- R104: how a source is read and a result written under each integer type. -/
def Obligations.TypeRule : Prop :=
  ∀ (t x : Nat) (r : Int), 1 ≤ t → t ≤ 9 →
    let w := typeBits t
    let span : Int := (2 : Int) ^ w
    (extT t x % span = x % span ∧ (if isSigned t then -(span / 2) ≤ extT t x ∧ extT t x < span / 2 else 0 ≤ extT t x ∧ extT t x < span)) ∧
    (w = 8 ∨ w = 16 ∨ w = 32 ∨ w = 64) ∧
    (32 ≤ w → (putT t r : Int) = r % span) ∧
    (w < 32 → isSigned t = true → putT t r < 2 ^ 32 ∧ clamped r (-(span / 2)) (span / 2 - 1) (sext (putT t r) 32)) ∧
    (w < 32 → isSigned t = false → clamped r 0 (span - 1) (putT t r : Int))

/-- R110: DIV and REM complete; the quotient is truncated towards zero, the remainder has the dividend's sign; Table 3 gives the
borderline results. -/
def Obligations.DivisionRule : Prop :=
  ∀ (p : OPfx) (d a b : Reg) (s : State) (u : Issue),
    let t := effType p 3
    let w := typeBits t
    let x (i : Instr) (l : Nat) : Int := extT t ((s.ctx i u).val 0 l)
    let y (i : Instr) (l : Nat) : Int := extT t ((s.ctx i u).val 1 l)
    let edge (i : Instr) (l : Nat) : Prop := isSigned t = true ∧ x i l = -(2 : Int) ^ (w - 1) ∧ y i l = -1
    (∀ i, i = .div p d a b → Ready i s u → ∃ f t', exec i s = .next t' ∧ Gave s i u d.toNat (pairN t) f (s.moved i u) t' ∧
      ∀ l, f l < 2 ^ w ∧ (y i l = 0 → f l = 2 ^ w - 1) ∧ (edge i l → extT t (f l) = x i l) ∧
        (y i l ≠ 0 → ¬ edge i l → extT t (f l) = Int.tdiv (x i l) (y i l))) ∧
    (∀ i, i = .rem p d a b → Ready i s u → ∃ f t', exec i s = .next t' ∧ Gave s i u d.toNat (pairN t) f (s.moved i u) t' ∧
      ∀ l, f l < 2 ^ w ∧ (y i l = 0 → extT t (f l) = x i l) ∧ (edge i l → f l = 0) ∧
        (y i l ≠ 0 → extT t (f l) = Int.tmod (x i l) (y i l)))

/-- R113: SHL and SHR complete, with every shift amount. -/
def Obligations.ShiftRule : Prop :=
  ∀ (p : OPfx) (d a b : Reg) (s : State) (u : Issue),
    (∀ i, i = .shl p d a b → Ready i s u →
      let w := typeBits (effType p 9)
      ∃ f t, exec i s = .next t ∧ Gave s i u d.toNat (pairN (effType p 9)) f (s.moved i u) t ∧
        ∀ l, f l < 2 ^ w ∧ (w ≤ (s.ctx i u).val 1 l → f l = 0) ∧
          ((s.ctx i u).val 1 l < w → f l = (s.ctx i u).val 0 l * 2 ^ (s.ctx i u).val 1 l % 2 ^ w)) ∧
    (∀ i, i = .shr p d a b → Ready i s u →
      let ty := effType p 7
      let w := typeBits ty
      ∃ f t, exec i s = .next t ∧ Gave s i u d.toNat (pairN ty) f (s.moved i u) t ∧
        ∀ l, f l < 2 ^ w ∧
          (isSigned ty = false → f l = (s.ctx i u).val 0 l % 2 ^ w / 2 ^ (s.ctx i u).val 1 l) ∧
          (isSigned ty = true → sext (f l) w = sext ((s.ctx i u).val 0 l) w / (2 : Int) ^ (s.ctx i u).val 1 l))

/-- FADD, FSUB, FMUL, FDIV, FFMA, FSQRT and FRND: a NaN operand gives a NaN. Which one R135 chooses, the first, quietened, is not stated.
-/
def Obligations.NanOperands : Prop :=
  ∀ (f : Fmt) (mode : Nat) (ftz : Bool) (x y z : Nat), f ∈ [Fmt.f16, Fmt.bf16, Fmt.f32, Fmt.f64] →
    let nan (v : Nat) : Prop := (unpack f ftz v).isNan = true
    (nan x ∨ nan y → nan (fadd f mode ftz x y) ∧ nan (fsub f mode ftz x y) ∧ nan (fmul f mode ftz x y) ∧ nan (fdiv f mode ftz x y)) ∧
    (nan x ∨ nan y ∨ nan z → nan (ffma f mode ftz x y z)) ∧ (nan x → nan (fsqrt f mode ftz x) ∧ nan (frnd f mode ftz x))

/-- The bounds of an exact value enclose it. -/
def Obligations.OutwardRounding : Prop :=
  ∀ (x : Ep), (f32Ep (x.f32 3)).le x = true ∧ x.le (f32Ep (x.f32 2)) = true

/-- EADD, ESUB and ENEG enclose: the result of any values in the operands' bounds lies in the result's bounds. -/
def Obligations.IntervalEnclosure : Prop :=
  ∀ (a b c : IvSrc) (x y z : Ep), wellFormedIv a.lo a.hi = true → wellFormedIv b.lo b.hi = true →
    a.l.le x = true → x.le a.h = true → b.l.le y = true → y.le b.h = true →
    let inside (r : IvRes) (v : Ep) : Prop := (f32Ep r.lo).le v = true ∧ v.le (f32Ep r.hi) = true
    (x.add y = some z → inside (ivOp 1 a b c) z) ∧ (x.add y.neg = some z → inside (ivOp 2 a b c) z) ∧ inside (ivOp 6 a b c) x.neg

/-! ### Memory and shared units -/

/-- The checks of an access's address: it is legal exactly where the whole access lies in its space and is aligned; in global memory, in
the crew's partition, in a peer's; out of range comes before misaligned; the fault address is the effective address. A peer address that
names no crew is scratch-range, with that address. FADDR of a peer address that names no crew is log entry 38. -/
def Obligations.AddressRules : Prop :=
  ∀ (s : State) (crew space base : Nat) (o : Ord) (size : Nat), 0 < size →
    let a := s.laneAddr crew space base o size
    (space = 0 → a.ea = base + o.off.toInt * size ∧ a.crew = none ∧
      (a.bad = none ↔ 0 ≤ a.ea ∧ a.ea + size ≤ 2 ^ 57 ∧ a.ea % size = 0) ∧
      ((a.ea < 0 ∨ 2 ^ 57 < a.ea + size) → a.bad = some (0x10, trunc a.ea 64)) ∧
      (0 ≤ a.ea → a.ea + size ≤ 2 ^ 57 → a.ea % size ≠ 0 → a.bad = some (0x12, trunc a.ea 64))) ∧
    (space = 1 → a.ea = base + o.off.toInt * size ∧ a.crew = some crew ∧
      (a.bad = none ↔ 0 ≤ a.ea ∧ a.ea + size ≤ s.partition crew ∧ a.ea % size = 0) ∧
      ((a.ea < 0 ∨ s.partition crew < a.ea + size) → a.bad = some (0x11, trunc a.ea 64)) ∧
      (0 ≤ a.ea → a.ea + size ≤ s.partition crew → a.ea % size ≠ 0 → a.bad = some (0x12, trunc a.ea 64))) ∧
    (2 ≤ space → a.ea = bits base 23 0 + o.off.toInt * size ∧ (s.peerCrew crew base = none → a.bad = some (0x11, base % 2 ^ 32)) ∧
      ∀ k, s.peerCrew crew base = some k → a.crew = some k ∧
        (a.bad = none ↔ 0 ≤ a.ea ∧ a.ea + size ≤ s.partition k ∧ a.ea % size = 0) ∧
        ((a.ea < 0 ∨ s.partition k < a.ea + size) → a.bad = some (0x11, trunc a.ea 64)) ∧
        (0 ≤ a.ea → a.ea + size ≤ s.partition k → a.ea % size ≠ 0 → a.bad = some (0x12, trunc a.ea 64)))

/-- One atomic is one read and one write of its bytes: it keeps the old value for its result, writes what its operation makes of the old
value and its operand, and a failing compare writes nothing. No other line of memory changes; the other bytes of a written line are as an
access under the place's key record found them (R10). Log entry 1 fixes how bytes are kept; what the other bytes of a line become under
its new key record is the model's choice (log entry 41). -/
def Obligations.AtomicPerforms : Prop :=
  ∀ (s : State) (i : Nat) (o : Op) (p : Place) (ea size op ty rnd x y : Nat) (d : Option Dest),
    s.opAt i = some o → o.kind = .atomic ea size op ty rnd x y d none → o.place = some p →
    let old := ofBytes (s.readAt p size)
    let t := s.performAtomic i
    t.opAt i = some { o with visible := true, kind := .atomic ea size op ty rnd x y d (some old) } ∧ (∀ j, j ≠ i → t.opAt j = s.opAt j) ∧
    (op = 16 → old ≠ x → t.mem = s.mem ∧ t.lineKeys = s.lineKeys) ∧
    (op = 16 → old = x → ofBytes (t.readAt p size) = y % 2 ^ (8 * size)) ∧
    (op ≠ 16 → ofBytes (t.readAt p size) = atomicNew op ty rnd (s.ftz o.gang) (8 * size) old x % 2 ^ (8 * size)) ∧
    (∀ k, k / 64 ∉ linesOf (s.key p) size → Memory.get t.mem k = Memory.get s.mem k) ∧
    ((op = 16 → old = x) → ∀ k, k < s.key p ∨ s.key p + size ≤ k →
      Memory.get t.mem k = Memory.get (s.memUnder (s.recordOf p) (s.key p) size) k)

/-- An operation that completes is no longer counted, no other operation changes, and its destination holds its words in the live lanes it
names: a load's, an atomic's. That the words arrive at one completion is log entry 10. -/
def Obligations.CompletionRule : Prop :=
  ∀ (s : State) (i : Nat) (o : Op) (d : Dest) (x : Nat), s.opAt i = some o → (find s.gangs o.gang).isSome → 0 < d.n → d.reg + d.n ≤ 192 →
    let t := s.complete i (some d) x
    t.opAt i = none ∧ (∀ j, j ≠ i → t.opAt j = s.opAt j) ∧
    (∀ l k, l < 32 → k < d.n → hasLane d.lanes l = true → hasLane (s.gang o.gang).live l = true →
      (s.gang o.gang).hvAt ((d.reg + k) / 4) l = false → (t.gang o.gang).vreg (d.reg + k) l = x / 2 ^ (32 * k) % 2 ^ 32) ∧
    (∀ l r, l < 32 → r < 192 → (hasLane d.lanes l = false ∨ hasLane (s.gang o.gang).live l = false ∨ r < d.reg / 4 * 4 ∨ (d.reg + d.n + 3) / 4 * 4 ≤ r) →
      (t.gang o.gang).vreg r l = (s.gang o.gang).vreg r l) ∧
    (∀ l k, l < 32 → k < 48 → d.reg / 4 ≤ k → 4 * k < d.reg + d.n → hasLane d.lanes l = true → hasLane (s.gang o.gang).live l = true →
      (t.gang o.gang).hvAt k l = false)

/-- R267: an allocation takes the first free index after the last one allocated, in the cyclic order 1 .. T − 1. -/
def Obligations.NodeAllocation : Prop :=
  ∀ (s : State) (c : Nat) (n : Node),
    let size := (s.crew c).nodeSpace
    let d := (s.crew c).caddy
    let from_ := if d.last + 1 < size then d.last + 1 else 1
    let after (j : Nat) : Nat := (j + (size - 1) - from_) % (size - 1)
    (∃ j, 1 ≤ j ∧ j < size ∧ find d.nodes j = none) → (find s.crews c).isSome →
    let t := (s.alloc c n).1
    let i := (s.alloc c n).2.1
    1 ≤ i ∧ i < size ∧ find d.nodes i = none ∧ (∀ j, 1 ≤ j → j < size → after j < after i → (find d.nodes j).isSome) ∧
    (d.last = 0 → find d.nodes 1 = none → i = 1) ∧
    (t.crew c).caddy.last = i ∧ (i ∉ n.children → find (t.crew c).caddy.nodes i = some { n with rc := 1 })

/-- EXP arrivals fill a phase: the next phase is open then, and none before. -/
def Obligations.BarrierFills : Prop :=
  ∀ (b : Barrier) (n k : Nat), b.phases = [] → b.iss = 0 → b.open_ < 65536 → b.exp = n → 1 ≤ n → k < n →
    let f (x : Barrier) : Barrier := x.arrive.2
    (f^[k] b).open_ = b.open_ ∧ (f^[k] b).iss = k ∧ (f^[n] b).open_ = (b.open_ + 1) % 65536 ∧ (f^[n] b).iss = 0

/-- A lock that is let go passes to its first waiter, whose grant tells whether it was abandoned; the others keep their places. An
operation of its gang that has failed, and every other operation, is as it was. When the unit acts is log entry 17. -/
def Obligations.LockPasses : Prop :=
  ∀ (s : State) (l x g : Nat) (rest : List Nat) (k : Lock), look (s.layer l).locks x {} = k → k.fifo = g :: rest →
    let t := s.freeLock l x false
    look (t.layer l).locks x {} = { holder := some g, fifo := rest, abn := false } ∧
    (∀ y, y ≠ x → look (t.layer l).locks y {} = look (s.layer l).locks y {}) ∧
    (∀ j o d, find s.ops j = some o → o.gang = g → o.kind = .qlk x d none → o.failed = none →
      find t.ops j = some { o with kind := .qlk x d (some (if k.abn then 1 else 0)) }) ∧
    (∀ j o, find s.ops j = some o → (o.gang ≠ g ∨ o.failed ≠ none ∨ ∀ d, o.kind ≠ .qlk x d none) → find t.ops j = some o)

/-- An event of a port whose ring has room is the ring's next entry, and its vector is sent; in a full ring it is counted as lost, but a
fault event waits. What counts as a full ring for sizes outside 6 to 16 is log entry 13. -/
def Obligations.EventPosted : Prop :=
  ∀ (s : State) (p : Nat) (e : Event),
    let y := s.port p
    let t := s.postPort p e
    (y.ringFull = false →
      t.readAt (.host p (y.evbase + 32 * (y.evwr % y.ringSize))) 32 = e.bytes y.evwr ∧
      t.port p = { y with evwr := (y.evwr + 1) % 2 ^ 32, msix := bits y.evcfg 26 16 :: y.msix }) ∧
    (y.ringFull = true → e.kind ≠ 3 → t.port p = { y with evlost := (y.evlost + 1) % 2 ^ 32 } ∧ t.mem = s.mem) ∧
    (y.ringFull = true → e.kind = 3 → t.port p = { y with owed := y.owed ++ [e.bytes 0] } ∧ t.mem = s.mem) ∧
    (∀ q, q ≠ p → t.port q = s.port q)

/-- A system register that was written reads as R422 and R423 say; every other one reads as before. -/
def Obligations.SystemRegisters : Prop :=
  ∀ (c : Ctx) (x l : Nat), x < 2 ^ 32 →
    let after (n : Nat) : Ctx := { c with pre := c.setCsr c.pre n x }
    let reads (n v : Nat) : Prop := (after n).csr n l = v ∧ ∀ m, m ∈ systemRegisters → m ≠ n → (after n).csr m l = c.csr m l
    reads 0x021 (x % 2 ^ 16) ∧ reads 0x030 (if 0 < x % 2 ^ 16 ∧ x % 2 ^ 16 < 64 then 64 else x % 2 ^ 16) ∧
    reads 0x031 (if x % 2 ^ 16 < 1024 then 1024 else x % 2 ^ 16) ∧ reads 0x033 (x % 2 ^ 8) ∧ reads 0x034 x ∧ reads 0x035 (x % 2 ^ 25) ∧
    reads 0x036 (x % 2 ^ 16) ∧ reads 0x037 (x % 2) ∧ reads 0x03B (x / 4096 * 4096) ∧ reads 0x03C (x % 2 ^ 20)
end

