-- ==== Sys2Proof/Laws/Acts.lean ====
section
/-! SUPPORT. What the tables of acts presuppose: operations in flight, commands begun, calls pending (spec/06_streams.md R157, R178,
spec/18_commands.md R458 to R461, R475). -/

namespace Sys2Proof.Machine

theorem State.live?_spec {s : State} {o : Op} (h : s.live? = some o) :
    s.opAt s.choice.target = some o ∧ o.captured = false ∧ o.failed = none ∧ s.edgesMet o = true := by
  unfold State.live? at h
  split at h
  · next p hp =>
    split at h
    · cases h
    · next hc =>
      cases h
      simp only [Bool.or_eq_true, Bool.not_eq_true', not_or, Bool.not_eq_true, Bool.not_eq_false, Option.isSome_eq_false_iff,
        Option.isNone_iff_eq_none] at hc
      exact ⟨hp, hc.1.1, hc.1.2, hc.2⟩
  · cases h

/-- A command that may begin takes effect on the state past its entry's read. -/
theorem beginCmd_eq {s t : State} {opc : Nat} {c : Cmd} (eff : State → Nat → Nat → Cmd → State) (h : s.begins opc = some (t, c)) :
    beginCmd opc s eff = .next (eff t s.choice.layer s.choice.unit c) := by
  unfold State.begins at h
  unfold beginCmd
  dsimp only at h ⊢
  rcases hq : s.queueRuns s.choice.layer s.choice.unit with _ | _ <;>
    rcases he : (s.cq s.choice.layer s.choice.unit).entryAt with _ | va <;> simp only [hq, he, reduceCtorEq] at h ⊢
  rcases hr : s.cpRead 0 s.choice.layer va 16 with f | ⟨b, u⟩ <;> simp only [hr, reduceCtorEq] at h ⊢
  obtain ⟨c', hc, hx⟩ := Option.bind_eq_some_iff.mp h
  simp only [hc]
  by_cases hb : c'.opc = opc ∧ (s.cq s.choice.layer s.choice.unit).mayBegin c' = true
  · rw [if_pos hb] at hx ⊢; cases hx; rfl
  · rw [if_neg hb] at hx; cases hx

/-- A call that is pending runs. -/
theorem firmwareCall_eq {s : State} {a : Instr} {c : Caller} {x r k : Nat} {p : Nat → Bool} {mine : Nat → Bool}
    (run : State → Caller → Nat → FwOut) (h : s.called a = some (c, x, r)) (hk : callOf a = some (k, p))
    (hm : mine r = (fwCode r == k && p r)) :
    firmwareCall s mine run = match run s c r with
      | .done status res u => .next (if status = 0 then u.fwEnd c 0 res else s.fwEnd c status 0)
      | .wait u => .next u := by
  unfold State.called at h
  unfold firmwareCall
  split at h
  · next t b k' p' h1 h2 h3 =>
    rw [hk] at h3
    cases h3
    dsimp only at h ⊢
    rw [h1, h2]
    dsimp only
    split at h
    · next hc =>
      simp only [Option.some.injEq, Prod.mk.injEq] at h
      obtain ⟨rfl, -, rfl⟩ := h
      obtain ⟨q1, q2, q3, q4, q5⟩ := hc
      rw [if_neg (by simp [q1, q2]), if_neg (by simp [q3]), if_neg (by simp [hm, q4, q5])]
      all_goals (cases run s s.choice.caller (ofBytes b) <;> rfl)
    · cases h
  · cases h

end Sys2Proof.Machine
end

