-- ==== Sys2Proof/Laws/Lanes.lean ====
section
/-! SUPPORT. Lane sets. -/

namespace Sys2Proof.Machine

theorem mem_lanes (m : BitVec 32) (l : Nat) : l ∈ lanes m ↔ hasLane m l = true := by
  unfold lanes
  rw [List.mem_filter, List.mem_range]
  refine ⟨fun h => h.2, fun h => ⟨?_, h⟩⟩
  by_contra hl
  rw [hasLane, BitVec.getLsbD_of_ge _ _ (by omega)] at h
  cases h

theorem lanes_nodup (m : BitVec 32) : (lanes m).Nodup := List.Nodup.filter _ List.nodup_range

theorem hasLane_lt {m : BitVec 32} {l : Nat} (h : hasLane m l = true) : l < 32 := by
  have := (mem_lanes m l).mpr h
  rw [lanes, List.mem_filter, List.mem_range] at this
  exact this.1

/-- The number a set of lanes below n stands for. -/
theorem laneSum_step (p : Nat → Bool) (n : Nat) :
    (List.range n).foldl (fun a l => if p l then a + 2 ^ l else a) 0 < 2 ^ n
      ∧ ∀ i, Nat.testBit ((List.range n).foldl (fun a l => if p l then a + 2 ^ l else a) 0) i = (decide (i < n) && p i) := by
  induction n with
  | zero => simp
  | succ n ih =>
    obtain ⟨hlt, hbit⟩ := ih
    rw [List.range_succ, List.foldl_append]
    simp only [List.foldl_cons, List.foldl_nil]
    generalize (List.range n).foldl (fun a l => if p l then a + 2 ^ l else a) 0 = x at hlt hbit
    have h2 : 2 ^ (n + 1) = 2 ^ n + 2 ^ n := by rw [Nat.pow_succ]; omega
    by_cases hp : p n = true
    · rw [if_pos hp]
      refine ⟨by omega, fun i => ?_⟩
      rw [Nat.add_comm x]
      rcases Nat.lt_trichotomy i n with h | h | h
      · rw [Nat.testBit_two_pow_add_gt h, hbit]
        simp [h, Nat.lt_succ_of_lt h]
      · subst h
        rw [Nat.testBit_two_pow_add_eq, hbit]
        simp [hp]
      · rw [Nat.testBit_lt_two_pow (Nat.lt_of_lt_of_le (by omega : 2 ^ n + x < 2 ^ (n + 1)) (Nat.pow_le_pow_right (by omega) h))]
        simp [show ¬ i < n + 1 by omega]
    · rw [if_neg hp]
      refine ⟨by omega, fun i => ?_⟩
      rw [hbit]
      rcases Nat.lt_trichotomy i n with h | h | h
      · simp [h, Nat.lt_succ_of_lt h]
      · subst h; simp [hp]
      · simp [show ¬ i < n by omega, show ¬ i < n + 1 by omega]

/-- Membership in the set of lanes that satisfy p. -/
theorem hasLane_laneSet (p : Nat → Bool) (l : Nat) : hasLane (laneSet p) l = (decide (l < 32) && p l) := by
  unfold hasLane laneSet
  rw [BitVec.getLsbD_ofNat, (laneSum_step p 32).2]
  cases decide (l < 32) <;> simp

@[simp] theorem hasLane_and (a b : BitVec 32) (l : Nat) : hasLane (a &&& b) l = (hasLane a l && hasLane b l) := BitVec.getLsbD_and

@[simp] theorem hasLane_or (a b : BitVec 32) (l : Nat) : hasLane (a ||| b) l = (hasLane a l || hasLane b l) := BitVec.getLsbD_or

theorem hasLane_not (a : BitVec 32) (l : Nat) (h : l < 32) : hasLane (~~~ a) l = !hasLane a l := by
  unfold hasLane
  rw [BitVec.getLsbD_not]
  simp [h]

theorem ext_lanes {a b : BitVec 32} (h : ∀ l, l < 32 → hasLane a l = hasLane b l) : a = b :=
  BitVec.eq_of_getLsbD_eq fun i hi => h i hi

end Sys2Proof.Machine
end

