-- ==== Sys2Proof/Laws/Lists.lean ====
section
/-! SUPPORT. The sparse lists of the state: what a read gives after each change, and that a change keeps the canonical
form. None of the reads needs the list to be sorted. -/

namespace Sys2Proof.Machine

variable {α : Type}

@[simp] theorem look_nil (k : Nat) (d : α) : look [] k d = d := rfl
@[simp] theorem find_nil (k : Nat) : find ([] : List (Nat × α)) k = none := rfl
@[simp] theorem alter_nil (k : Nat) (f : α → α) : alter [] k f = [] := rfl
@[simp] theorem erase_nil (k : Nat) : erase ([] : List (Nat × α)) k = [] := rfl

theorem look_eq_find (m : List (Nat × α)) (k : Nat) (d : α) : look m k d = (find m k).getD d := by
  induction m with
  | nil => rfl
  | cons p r ih =>
    simp only [look, find]
    split
    · rfl
    · exact ih

theorem find_insert (m : List (Nat × α)) (k j : Nat) (v : α) :
    find (insert m k v) j = if k = j then some v else find m j := by
  induction m with
  | nil => rfl
  | cons p r ih =>
    obtain ⟨a, x⟩ := p
    simp only [insert]
    split
    · simp only [find, ih]
      split <;> rename_i h h' <;> simp_all
      intro hk; omega
    · split
      · subst a; simp only [find]
        split <;> simp_all
      · simp only [find]

theorem look_insert (m : List (Nat × α)) (k j : Nat) (v d : α) :
    look (insert m k v) j d = if k = j then v else look m j d := by
  simp only [look_eq_find, find_insert]
  split <;> rfl

theorem find_erase (m : List (Nat × α)) (k j : Nat) : find (erase m k) j = if k = j then none else find m j := by
  induction m with
  | nil => simp
  | cons p r ih =>
    obtain ⟨a, x⟩ := p
    simp only [erase]
    split
    · subst a; simp only [ih, find]; split <;> rfl
    · simp only [find, ih]
      split
      · rw [if_neg (by omega)]
      · rfl

theorem look_erase (m : List (Nat × α)) (k j : Nat) (d : α) :
    look (erase m k) j d = if k = j then d else look m j d := by
  simp only [look_eq_find, find_erase]
  split <;> rfl

/-- A read after a write of a sparse list. -/
theorem look_put [DecidableEq α] (m : List (Nat × α)) (k j : Nat) (v d : α) :
    look (put m k v d) j d = if k = j then v else look m j d := by
  unfold put
  split
  · subst v; exact look_erase m k j d
  · exact look_insert m k j v d

theorem find_alter (m : List (Nat × α)) (k j : Nat) (f : α → α) :
    find (alter m k f) j = if k = j then (find m j).map f else find m j := by
  induction m with
  | nil => simp
  | cons p r ih =>
    obtain ⟨a, x⟩ := p
    simp only [alter]
    split
    · subst a; simp only [find]; split <;> simp_all
    · simp only [find, ih]
      split
      · rw [if_neg (by omega)]
      · rfl

theorem look_alter (m : List (Nat × α)) (k j : Nat) (f : α → α) (d : α) (h : (find m k).isSome) :
    look (alter m k f) j d = if k = j then f (look m j d) else look m j d := by
  simp only [look_eq_find, find_alter]
  split
  · subst j
    obtain ⟨x, hx⟩ := Option.isSome_iff_exists.mp h
    simp [hx]
  · rfl

theorem look_alter_ne (m : List (Nat × α)) (k j : Nat) (f : α → α) (d : α) (h : k ≠ j) :
    look (alter m k f) j d = look m j d := by
  simp only [look_eq_find, find_alter, if_neg h]

/-- A change keeps the set of listed keys. -/
@[simp] theorem alter_keys (m : List (Nat × α)) (k : Nat) (f : α → α) : (alter m k f).map (·.1) = m.map (·.1) := by
  induction m with
  | nil => rfl
  | cons p r ih =>
    obtain ⟨a, x⟩ := p
    simp only [alter]
    split
    · rfl
    · simp [ih]

@[simp] theorem find_alter_isSome (m : List (Nat × α)) (k j : Nat) (f : α → α) :
    (find (alter m k f) j).isSome = (find m j).isSome := by
  rw [find_alter]
  split <;> simp

theorem alter_alter (m : List (Nat × α)) (k : Nat) (f g : α → α) : alter (alter m k f) k g = alter m k (fun x => g (f x)) := by
  induction m with
  | nil => rfl
  | cons p r ih =>
    obtain ⟨a, x⟩ := p
    simp only [alter]
    split
    · simp [alter, *]
    · simp [alter, *]

theorem alter_id (m : List (Nat × α)) (k : Nat) : alter m k (fun x => x) = m := by
  induction m with
  | nil => rfl
  | cons p r ih =>
    obtain ⟨a, x⟩ := p
    simp only [alter, ih, ite_self]

/-! ### The canonical form -/

section
variable [DecidableEq α]

theorem canonFrom_mono {lo lo' : Nat} {d : α} {m : List (Nat × α)} (h : canonFrom lo d m = true) (hl : lo' ≤ lo) :
    canonFrom lo' d m = true := by
  cases m with
  | nil => rfl
  | cons p r =>
    simp only [canonFrom, Bool.and_eq_true, decide_eq_true_eq] at h ⊢
    exact ⟨⟨by omega, h.1.2⟩, h.2⟩

theorem canonFrom_insert {lo k : Nat} {d v : α} {m : List (Nat × α)} (h : canonFrom lo d m = true) (hl : lo ≤ k) (hv : v ≠ d) :
    canonFrom lo d (insert m k v) = true := by
  induction m generalizing lo with
  | nil => simp [insert, canonFrom, hl, hv]
  | cons p r ih =>
    obtain ⟨a, x⟩ := p
    simp only [canonFrom, Bool.and_eq_true, decide_eq_true_eq] at h
    simp only [insert]
    split
    · simp only [canonFrom, Bool.and_eq_true, decide_eq_true_eq]
      exact ⟨h.1, ih h.2 (by omega)⟩
    · split
      · subst a; simp only [canonFrom, Bool.and_eq_true, decide_eq_true_eq]
        exact ⟨⟨hl, hv⟩, h.2⟩
      · simp only [canonFrom, Bool.and_eq_true, decide_eq_true_eq]
        exact ⟨⟨hl, hv⟩, ⟨by omega, h.1.2⟩, h.2⟩

theorem canonFrom_erase {lo k : Nat} {d : α} {m : List (Nat × α)} (h : canonFrom lo d m = true) :
    canonFrom lo d (erase m k) = true := by
  induction m generalizing lo with
  | nil => rfl
  | cons p r ih =>
    obtain ⟨a, x⟩ := p
    simp only [canonFrom, Bool.and_eq_true, decide_eq_true_eq] at h
    simp only [erase]
    split
    · exact canonFrom_mono (ih h.2) (by omega)
    · simp only [canonFrom, Bool.and_eq_true, decide_eq_true_eq]
      exact ⟨h.1, ih h.2⟩

/-- A write of a sparse list keeps its canonical form. -/
theorem canon_put {k : Nat} {d v : α} {m : List (Nat × α)} (h : canon m d = true) : canon (put m k v d) d = true := by
  unfold put canon
  split
  · exact canonFrom_erase h
  · exact canonFrom_insert h (Nat.zero_le k) ‹_›

end

end Sys2Proof.Machine
end

