-- ==== Sys2Proof/Laws/Memory.lean ====
section
/-! SUPPORT. Memory: a read after a write, and that every memory operation keeps the canonical form. -/

namespace Sys2Proof.Machine

theorem Memory.get_set (m : List Host.Cell) (k j : Nat) (b : Byte) :
    Memory.get (Memory.set m k b) j = if k = j then b else Memory.get m j := look_put m k j b blank

theorem Memory.wf_set {m : List Host.Cell} {k : Nat} {b : Byte} (h : Memory.wf m = true) : Memory.wf (Memory.set m k b) = true :=
  canon_put h

/-- Every write of bytes keeps the canonical form. -/
theorem Memory.wf_write {m : List Host.Cell} {k : Nat} {b : List Byte} (h : Memory.wf m = true) :
    Memory.wf (Memory.write m k b) = true := by
  induction b generalizing m k with
  | nil => exact h
  | cons x r ih => exact ih (Memory.wf_set h)

/-- A byte read after bytes are written: the written byte inside them, the old one outside. -/
theorem Memory.get_write (m : List Host.Cell) (k j : Nat) (b : List Byte) :
    Memory.get (Memory.write m k b) j = if k ≤ j ∧ j < k + b.length then b.getD (j - k) blank else Memory.get m j := by
  induction b generalizing m k with
  | nil => simp only [Memory.write, List.length_nil]; rw [if_neg (by omega)]
  | cons x r ih =>
    simp only [Memory.write, ih, Memory.get_set, List.length_cons]
    by_cases h1 : k + 1 ≤ j ∧ j < k + 1 + r.length
    · rw [if_pos h1, if_pos (by omega), show j - k = (j - (k + 1)) + 1 by omega, List.getD_cons_succ]
    · rw [if_neg h1]
      by_cases h2 : k = j
      · subst h2; rw [if_pos rfl, if_pos (by omega), Nat.sub_self, List.getD_cons_zero]
      · rw [if_neg h2, if_neg (by omega)]

theorem Memory.length_read (m : List Host.Cell) (k n : Nat) : (Memory.read m k n).length = n := by
  induction n generalizing k with
  | zero => rfl
  | succ n ih => simp [Memory.read, ih]

theorem Memory.getD_read (m : List Host.Cell) (k n i : Nat) (h : i < n) (d : Byte) :
    (Memory.read m k n).getD i d = Memory.get m (k + i) := by
  induction n generalizing k i with
  | zero => omega
  | succ n ih =>
    cases i with
    | zero => rfl
    | succ i =>
      rw [Memory.read, List.getD_cons_succ, ih (k + 1) i (by omega), Nat.add_assoc, Nat.add_comm 1 i]

/-- Bytes read where no byte differs are the same. -/
theorem Memory.read_congr {m m' : List Host.Cell} {k n : Nat} (h : ∀ i, i < n → Memory.get m (k + i) = Memory.get m' (k + i)) :
    Memory.read m k n = Memory.read m' k n := by
  induction n generalizing k with
  | zero => rfl
  | succ n ih =>
    have h0 := h 0 (by omega)
    have hs := ih (k := k + 1) fun i hi => by
      have := h (i + 1) (by omega)
      rwa [← Nat.add_assoc, Nat.add_right_comm] at this
    simp only [Nat.add_zero] at h0
    simp only [Memory.read, h0, hs]

/-- A write leaves the bytes that do not overlap it. -/
theorem Memory.read_write_apart (m : List Host.Cell) (k j n : Nat) (b : List Byte) (h : j + n ≤ k ∨ k + b.length ≤ j) :
    Memory.read (Memory.write m k b) j n = Memory.read m j n := by
  refine Memory.read_congr fun i hi => ?_
  rw [Memory.get_write, if_neg (by omega)]

/-- What was written is read back. -/
theorem Memory.read_write (m : List Host.Cell) (k : Nat) (b : List Byte) : Memory.read (Memory.write m k b) k b.length = b := by
  refine List.ext_getElem (Memory.length_read _ _ _) fun i h1 h2 => ?_
  have hr := Memory.getD_read (Memory.write m k b) k b.length i h2 blank
  rw [Memory.get_write, if_pos (by omega), Nat.add_sub_cancel_left] at hr
  simpa [List.getD_eq_getElem, h1, h2] using hr

/-! ### Places -/

theorem State.memUnder_wf {s : State} {rec k n : Nat} (h : Memory.wf s.mem = true) : Memory.wf (s.memUnder rec k n) = true := by
  unfold State.memUnder
  generalize s.mem = m at h
  generalize linesOf k n = l
  induction l generalizing m with
  | nil => exact h
  | cons x r ih => rw [List.foldl_cons]; split <;> exact ih _ (by first | exact h | exact Memory.wf_write h)

/-- Where every line lies under the record already, an access finds memory as it is. -/
theorem State.memUnder_same {s : State} {rec k n : Nat} (h : ∀ x ∈ linesOf k n, look s.lineKeys x 0 = rec) : s.memUnder rec k n = s.mem := by
  unfold State.memUnder
  generalize linesOf k n = l at h
  induction l with
  | nil => rfl
  | cons x r ih =>
    rw [List.foldl_cons, if_pos (h x (List.mem_cons_self ..))]
    exact ih fun y hy => h y (List.mem_cons_of_mem _ hy)

theorem State.length_lineUnder (s : State) (x rec : Nat) : (s.lineUnder x rec).length = 64 := by
  simp [State.lineUnder, toBytes, List.range_succ]

/-- An access under any record finds the bytes of other lines as they are. -/
theorem State.get_memUnder {s : State} {rec k n j : Nat} (h : j / 64 ∉ linesOf k n) :
    Memory.get (s.memUnder rec k n) j = Memory.get s.mem j := by
  unfold State.memUnder
  generalize s.mem = m
  generalize linesOf k n = l at h
  induction l generalizing m with
  | nil => rfl
  | cons x r ih =>
    rw [List.mem_cons, not_or] at h
    rw [List.foldl_cons, ih _ h.2]
    split
    · rfl
    · rw [Memory.get_write, State.length_lineUnder, if_neg (by omega)]

theorem linesOf_mem {k n j : Nat} (h1 : k ≤ j) (h2 : j < k + n) : j / 64 ∈ linesOf k n := by
  unfold linesOf
  rw [if_neg (by omega), List.mem_map]
  exact ⟨j / 64 - k / 64, by rw [List.mem_range]; omega, by omega⟩

@[simp] theorem State.writeAt_mem (s : State) (p : Place) (b : List Byte) :
    (s.writeAt p b).mem = Memory.write (s.memUnder (s.recordOf p) (s.key p) b.length) (s.key p) b := rfl

/-- A write of bytes at a place changes nothing but memory, the records its lines lie under, and the poison of the lines it
covers. -/
theorem State.writeAt_rest (s : State) (p : Place) (b : List Byte) :
    s.writeAt p b = { s with mem := (s.writeAt p b).mem, lineKeys := (s.writeAt p b).lineKeys, poison := (s.writeAt p b).poison } := rfl

theorem State.writeAt_wf {s : State} {p : Place} {b : List Byte} (h : Memory.wf s.mem = true) :
    Memory.wf (s.writeAt p b).mem = true := Memory.wf_write (State.memUnder_wf h)

theorem State.writePlaces_wf {s : State} {l : List (Place × Nat)} {b : List Byte} (h : Memory.wf s.mem = true) :
    Memory.wf (s.writePlaces l b).mem = true := by
  induction l generalizing s b with
  | nil => exact h
  | cons p r ih => exact ih (State.writeAt_wf h)

/-- Writes at places change nothing but memory, its lines' records and poison. -/
theorem State.writePlaces_rest (s : State) (l : List (Place × Nat)) (b : List Byte) :
    s.writePlaces l b = { s with mem := (s.writePlaces l b).mem, lineKeys := (s.writePlaces l b).lineKeys, poison := (s.writePlaces l b).poison } := by
  induction l generalizing s b with
  | nil => rfl
  | cons p r ih =>
    rw [State.writePlaces, ih]
    simp [State.writeAt]

theorem State.writeVa_wf {s t : State} {l va : Nat} {b : List Byte} (h : Memory.wf s.mem = true) (e : s.writeVa l va b = .ok t) :
    Memory.wf t.mem = true := by
  unfold State.writeVa at e
  split at e
  · cases e
  · cases e; exact State.writePlaces_wf h

/-- A virtual write changes nothing but memory, its lines' records and poison. -/
theorem State.writeVa_rest {s t : State} {l va : Nat} {b : List Byte} (e : s.writeVa l va b = .ok t) :
    t = { s with mem := t.mem, lineKeys := t.lineKeys, poison := t.poison } := by
  unfold State.writeVa at e
  split at e
  · cases e
  · cases e; exact State.writePlaces_rest _ _ _

theorem reset_mem_wf : Memory.wf State.reset.mem = true := rfl

/-- Bytes at one place, written and read back. -/
theorem State.readAt_writeAt (s : State) (p : Place) (b : List Byte) : (s.writeAt p b).readAt p b.length = b := by
  have hk : (s.writeAt p b).key p = s.key p := by cases p <;> rfl
  have hr : (s.writeAt p b).recordOf p = s.recordOf p := by cases p <;> rfl
  unfold State.readAt
  rw [hk, hr, State.memUnder_same, State.writeAt_mem, Memory.read_write]
  show ∀ x ∈ linesOf _ _, look (List.foldl _ s.lineKeys _) x 0 = _
  generalize linesOf (s.key p) b.length = l
  generalize s.lineKeys = m
  induction l generalizing m with
  | nil => simp
  | cons y r ih =>
    intro x hx
    rw [List.foldl_cons]
    by_cases h : x ∈ r
    · exact ih _ x h
    · rw [List.mem_cons, or_iff_left h] at hx
      subst hx
      have : ∀ (m : List (Nat × Nat)), look (r.foldl (fun m z => put m z (s.recordOf p) 0) m) x 0 = look m x 0 := by
        clear ih
        induction r with
        | nil => exact fun _ => rfl
        | cons z q ih2 =>
          rw [List.mem_cons, not_or] at h
          exact fun m => by rw [List.foldl_cons, ih2 h.2, look_put, if_neg (Ne.symm h.1)]
      rw [this, look_put, if_pos rfl]

end Sys2Proof.Machine
end

