-- ==== Sys2Proof/Laws/State.lean ====
section
/-! SUPPORT. One lemma per field per update of the state, so that no proof unfolds a record update. -/

namespace Sys2Proof.Machine

/-! ### modGang -/

@[simp] theorem State.modGang_clk (s : State) (g : Nat) (f : Gang → Gang) : (s.modGang g f).clk = s.clk := rfl
@[simp] theorem State.modGang_slots (s : State) (g : Nat) (f : Gang → Gang) : (s.modGang g f).slots = s.slots := rfl
@[simp] theorem State.modGang_slotPart (s : State) (g : Nat) (f : Gang → Gang) : (s.modGang g f).slotPart = s.slotPart := rfl
@[simp] theorem State.modGang_aqKey (s : State) (g : Nat) (f : Gang → Gang) : (s.modGang g f).aqKey = s.aqKey := rfl
@[simp] theorem State.modGang_free (s : State) (g : Nat) (f : Gang → Gang) : (s.modGang g f).free = s.free := rfl
@[simp] theorem State.modGang_next (s : State) (g : Nat) (f : Gang → Gang) : (s.modGang g f).next = s.next := rfl
@[simp] theorem State.modGang_agenda (s : State) (g : Nat) (f : Gang → Gang) : (s.modGang g f).agenda = s.agenda := rfl
@[simp] theorem State.modGang_choice (s : State) (g : Nat) (f : Gang → Gang) : (s.modGang g f).choice = s.choice := rfl
@[simp] theorem State.modGang_issue (s : State) (g : Nat) (f : Gang → Gang) : (s.modGang g f).issue = s.issue := rfl
@[simp] theorem State.modGang_lastGang (s : State) (g : Nat) (f : Gang → Gang) : (s.modGang g f).lastGang = s.lastGang := rfl
@[simp] theorem State.modGang_mem (s : State) (g : Nat) (f : Gang → Gang) : (s.modGang g f).mem = s.mem := rfl
@[simp] theorem State.modGang_poison (s : State) (g : Nat) (f : Gang → Gang) : (s.modGang g f).poison = s.poison := rfl
@[simp] theorem State.modGang_gangs (s : State) (g : Nat) (f : Gang → Gang) : (s.modGang g f).gangs = alter s.gangs g f := rfl
@[simp] theorem State.modGang_crews (s : State) (g : Nat) (f : Gang → Gang) : (s.modGang g f).crews = s.crews := rfl
@[simp] theorem State.modGang_convoys (s : State) (g : Nat) (f : Gang → Gang) : (s.modGang g f).convoys = s.convoys := rfl
@[simp] theorem State.modGang_launches (s : State) (g : Nat) (f : Gang → Gang) : (s.modGang g f).launches = s.launches := rfl
@[simp] theorem State.modGang_ops (s : State) (g : Nat) (f : Gang → Gang) : (s.modGang g f).ops = s.ops := rfl
@[simp] theorem State.modGang_reqs (s : State) (g : Nat) (f : Gang → Gang) : (s.modGang g f).reqs = s.reqs := rfl
@[simp] theorem State.modGang_clusters (s : State) (g : Nat) (f : Gang → Gang) : (s.modGang g f).clusters = s.clusters := rfl
@[simp] theorem State.modGang_cores (s : State) (g : Nat) (f : Gang → Gang) : (s.modGang g f).cores = s.cores := rfl
@[simp] theorem State.modGang_layers (s : State) (g : Nat) (f : Gang → Gang) : (s.modGang g f).layers = s.layers := rfl
@[simp] theorem State.modGang_ports (s : State) (g : Nat) (f : Gang → Gang) : (s.modGang g f).ports = s.ports := rfl
@[simp] theorem State.modGang_keyOwner (s : State) (g : Nat) (f : Gang → Gang) : (s.modGang g f).keyOwner = s.keyOwner := rfl
@[simp] theorem State.modGang_keys (s : State) (g : Nat) (f : Gang → Gang) : (s.modGang g f).keys = s.keys := rfl
@[simp] theorem State.modGang_lineKeys (s : State) (g : Nat) (f : Gang → Gang) : (s.modGang g f).lineKeys = s.lineKeys := rfl
@[simp] theorem State.modGang_ready (s : State) (g : Nat) (f : Gang → Gang) : (s.modGang g f).ready = s.ready := rfl
@[simp] theorem State.modGang_hostmap (s : State) (g : Nat) (f : Gang → Gang) : (s.modGang g f).hostmap = s.hostmap := rfl
@[simp] theorem State.modGang_ethernet (s : State) (g : Nat) (f : Gang → Gang) : (s.modGang g f).ethernet = s.ethernet := rfl
@[simp] theorem State.modGang_frozen (s : State) (g : Nat) (f : Gang → Gang) : (s.modGang g f).frozen = s.frozen := rfl
@[simp] theorem State.modGang_startDue (s : State) (g : Nat) (f : Gang → Gang) : (s.modGang g f).startDue = s.startDue := rfl
@[simp] theorem State.modGang_temps (s : State) (g : Nat) (f : Gang → Gang) : (s.modGang g f).temps = s.temps := rfl
@[simp] theorem State.modGang_power (s : State) (g : Nat) (f : Gang → Gang) : (s.modGang g f).power = s.power := rfl
@[simp] theorem State.modGang_clkMhz (s : State) (g : Nat) (f : Gang → Gang) : (s.modGang g f).clkMhz = s.clkMhz := rfl
@[simp] theorem State.modGang_throt (s : State) (g : Nat) (f : Gang → Gang) : (s.modGang g f).throt = s.throt := rfl
@[simp] theorem State.modGang_pubKeys (s : State) (g : Nat) (f : Gang → Gang) : (s.modGang g f).pubKeys = s.pubKeys := rfl

/-! ### modCrew -/

@[simp] theorem State.modCrew_clk (s : State) (c : Nat) (f : Crew → Crew) : (s.modCrew c f).clk = s.clk := rfl
@[simp] theorem State.modCrew_slots (s : State) (c : Nat) (f : Crew → Crew) : (s.modCrew c f).slots = s.slots := rfl
@[simp] theorem State.modCrew_slotPart (s : State) (c : Nat) (f : Crew → Crew) : (s.modCrew c f).slotPart = s.slotPart := rfl
@[simp] theorem State.modCrew_aqKey (s : State) (c : Nat) (f : Crew → Crew) : (s.modCrew c f).aqKey = s.aqKey := rfl
@[simp] theorem State.modCrew_free (s : State) (c : Nat) (f : Crew → Crew) : (s.modCrew c f).free = s.free := rfl
@[simp] theorem State.modCrew_next (s : State) (c : Nat) (f : Crew → Crew) : (s.modCrew c f).next = s.next := rfl
@[simp] theorem State.modCrew_agenda (s : State) (c : Nat) (f : Crew → Crew) : (s.modCrew c f).agenda = s.agenda := rfl
@[simp] theorem State.modCrew_choice (s : State) (c : Nat) (f : Crew → Crew) : (s.modCrew c f).choice = s.choice := rfl
@[simp] theorem State.modCrew_issue (s : State) (c : Nat) (f : Crew → Crew) : (s.modCrew c f).issue = s.issue := rfl
@[simp] theorem State.modCrew_lastGang (s : State) (c : Nat) (f : Crew → Crew) : (s.modCrew c f).lastGang = s.lastGang := rfl
@[simp] theorem State.modCrew_mem (s : State) (c : Nat) (f : Crew → Crew) : (s.modCrew c f).mem = s.mem := rfl
@[simp] theorem State.modCrew_poison (s : State) (c : Nat) (f : Crew → Crew) : (s.modCrew c f).poison = s.poison := rfl
@[simp] theorem State.modCrew_gangs (s : State) (c : Nat) (f : Crew → Crew) : (s.modCrew c f).gangs = s.gangs := rfl
@[simp] theorem State.modCrew_crews (s : State) (c : Nat) (f : Crew → Crew) : (s.modCrew c f).crews = alter s.crews c f := rfl
@[simp] theorem State.modCrew_convoys (s : State) (c : Nat) (f : Crew → Crew) : (s.modCrew c f).convoys = s.convoys := rfl
@[simp] theorem State.modCrew_launches (s : State) (c : Nat) (f : Crew → Crew) : (s.modCrew c f).launches = s.launches := rfl
@[simp] theorem State.modCrew_ops (s : State) (c : Nat) (f : Crew → Crew) : (s.modCrew c f).ops = s.ops := rfl
@[simp] theorem State.modCrew_reqs (s : State) (c : Nat) (f : Crew → Crew) : (s.modCrew c f).reqs = s.reqs := rfl
@[simp] theorem State.modCrew_clusters (s : State) (c : Nat) (f : Crew → Crew) : (s.modCrew c f).clusters = s.clusters := rfl
@[simp] theorem State.modCrew_cores (s : State) (c : Nat) (f : Crew → Crew) : (s.modCrew c f).cores = s.cores := rfl
@[simp] theorem State.modCrew_layers (s : State) (c : Nat) (f : Crew → Crew) : (s.modCrew c f).layers = s.layers := rfl
@[simp] theorem State.modCrew_ports (s : State) (c : Nat) (f : Crew → Crew) : (s.modCrew c f).ports = s.ports := rfl
@[simp] theorem State.modCrew_keyOwner (s : State) (c : Nat) (f : Crew → Crew) : (s.modCrew c f).keyOwner = s.keyOwner := rfl
@[simp] theorem State.modCrew_keys (s : State) (c : Nat) (f : Crew → Crew) : (s.modCrew c f).keys = s.keys := rfl
@[simp] theorem State.modCrew_lineKeys (s : State) (c : Nat) (f : Crew → Crew) : (s.modCrew c f).lineKeys = s.lineKeys := rfl
@[simp] theorem State.modCrew_ready (s : State) (c : Nat) (f : Crew → Crew) : (s.modCrew c f).ready = s.ready := rfl
@[simp] theorem State.modCrew_hostmap (s : State) (c : Nat) (f : Crew → Crew) : (s.modCrew c f).hostmap = s.hostmap := rfl
@[simp] theorem State.modCrew_ethernet (s : State) (c : Nat) (f : Crew → Crew) : (s.modCrew c f).ethernet = s.ethernet := rfl
@[simp] theorem State.modCrew_frozen (s : State) (c : Nat) (f : Crew → Crew) : (s.modCrew c f).frozen = s.frozen := rfl
@[simp] theorem State.modCrew_startDue (s : State) (c : Nat) (f : Crew → Crew) : (s.modCrew c f).startDue = s.startDue := rfl
@[simp] theorem State.modCrew_temps (s : State) (c : Nat) (f : Crew → Crew) : (s.modCrew c f).temps = s.temps := rfl
@[simp] theorem State.modCrew_power (s : State) (c : Nat) (f : Crew → Crew) : (s.modCrew c f).power = s.power := rfl
@[simp] theorem State.modCrew_clkMhz (s : State) (c : Nat) (f : Crew → Crew) : (s.modCrew c f).clkMhz = s.clkMhz := rfl
@[simp] theorem State.modCrew_throt (s : State) (c : Nat) (f : Crew → Crew) : (s.modCrew c f).throt = s.throt := rfl
@[simp] theorem State.modCrew_pubKeys (s : State) (c : Nat) (f : Crew → Crew) : (s.modCrew c f).pubKeys = s.pubKeys := rfl

/-! ### modConvoy -/

@[simp] theorem State.modConvoy_clk (s : State) (v : Nat) (f : Convoy → Convoy) : (s.modConvoy v f).clk = s.clk := rfl
@[simp] theorem State.modConvoy_slots (s : State) (v : Nat) (f : Convoy → Convoy) : (s.modConvoy v f).slots = s.slots := rfl
@[simp] theorem State.modConvoy_slotPart (s : State) (v : Nat) (f : Convoy → Convoy) : (s.modConvoy v f).slotPart = s.slotPart := rfl
@[simp] theorem State.modConvoy_aqKey (s : State) (v : Nat) (f : Convoy → Convoy) : (s.modConvoy v f).aqKey = s.aqKey := rfl
@[simp] theorem State.modConvoy_free (s : State) (v : Nat) (f : Convoy → Convoy) : (s.modConvoy v f).free = s.free := rfl
@[simp] theorem State.modConvoy_next (s : State) (v : Nat) (f : Convoy → Convoy) : (s.modConvoy v f).next = s.next := rfl
@[simp] theorem State.modConvoy_agenda (s : State) (v : Nat) (f : Convoy → Convoy) : (s.modConvoy v f).agenda = s.agenda := rfl
@[simp] theorem State.modConvoy_choice (s : State) (v : Nat) (f : Convoy → Convoy) : (s.modConvoy v f).choice = s.choice := rfl
@[simp] theorem State.modConvoy_issue (s : State) (v : Nat) (f : Convoy → Convoy) : (s.modConvoy v f).issue = s.issue := rfl
@[simp] theorem State.modConvoy_lastGang (s : State) (v : Nat) (f : Convoy → Convoy) : (s.modConvoy v f).lastGang = s.lastGang := rfl
@[simp] theorem State.modConvoy_mem (s : State) (v : Nat) (f : Convoy → Convoy) : (s.modConvoy v f).mem = s.mem := rfl
@[simp] theorem State.modConvoy_poison (s : State) (v : Nat) (f : Convoy → Convoy) : (s.modConvoy v f).poison = s.poison := rfl
@[simp] theorem State.modConvoy_gangs (s : State) (v : Nat) (f : Convoy → Convoy) : (s.modConvoy v f).gangs = s.gangs := rfl
@[simp] theorem State.modConvoy_crews (s : State) (v : Nat) (f : Convoy → Convoy) : (s.modConvoy v f).crews = s.crews := rfl
@[simp] theorem State.modConvoy_convoys (s : State) (v : Nat) (f : Convoy → Convoy) : (s.modConvoy v f).convoys = alter s.convoys v f := rfl
@[simp] theorem State.modConvoy_launches (s : State) (v : Nat) (f : Convoy → Convoy) : (s.modConvoy v f).launches = s.launches := rfl
@[simp] theorem State.modConvoy_ops (s : State) (v : Nat) (f : Convoy → Convoy) : (s.modConvoy v f).ops = s.ops := rfl
@[simp] theorem State.modConvoy_reqs (s : State) (v : Nat) (f : Convoy → Convoy) : (s.modConvoy v f).reqs = s.reqs := rfl
@[simp] theorem State.modConvoy_clusters (s : State) (v : Nat) (f : Convoy → Convoy) : (s.modConvoy v f).clusters = s.clusters := rfl
@[simp] theorem State.modConvoy_cores (s : State) (v : Nat) (f : Convoy → Convoy) : (s.modConvoy v f).cores = s.cores := rfl
@[simp] theorem State.modConvoy_layers (s : State) (v : Nat) (f : Convoy → Convoy) : (s.modConvoy v f).layers = s.layers := rfl
@[simp] theorem State.modConvoy_ports (s : State) (v : Nat) (f : Convoy → Convoy) : (s.modConvoy v f).ports = s.ports := rfl
@[simp] theorem State.modConvoy_keyOwner (s : State) (v : Nat) (f : Convoy → Convoy) : (s.modConvoy v f).keyOwner = s.keyOwner := rfl
@[simp] theorem State.modConvoy_keys (s : State) (v : Nat) (f : Convoy → Convoy) : (s.modConvoy v f).keys = s.keys := rfl
@[simp] theorem State.modConvoy_lineKeys (s : State) (v : Nat) (f : Convoy → Convoy) : (s.modConvoy v f).lineKeys = s.lineKeys := rfl
@[simp] theorem State.modConvoy_ready (s : State) (v : Nat) (f : Convoy → Convoy) : (s.modConvoy v f).ready = s.ready := rfl
@[simp] theorem State.modConvoy_hostmap (s : State) (v : Nat) (f : Convoy → Convoy) : (s.modConvoy v f).hostmap = s.hostmap := rfl
@[simp] theorem State.modConvoy_ethernet (s : State) (v : Nat) (f : Convoy → Convoy) : (s.modConvoy v f).ethernet = s.ethernet := rfl
@[simp] theorem State.modConvoy_frozen (s : State) (v : Nat) (f : Convoy → Convoy) : (s.modConvoy v f).frozen = s.frozen := rfl
@[simp] theorem State.modConvoy_startDue (s : State) (v : Nat) (f : Convoy → Convoy) : (s.modConvoy v f).startDue = s.startDue := rfl
@[simp] theorem State.modConvoy_temps (s : State) (v : Nat) (f : Convoy → Convoy) : (s.modConvoy v f).temps = s.temps := rfl
@[simp] theorem State.modConvoy_power (s : State) (v : Nat) (f : Convoy → Convoy) : (s.modConvoy v f).power = s.power := rfl
@[simp] theorem State.modConvoy_clkMhz (s : State) (v : Nat) (f : Convoy → Convoy) : (s.modConvoy v f).clkMhz = s.clkMhz := rfl
@[simp] theorem State.modConvoy_throt (s : State) (v : Nat) (f : Convoy → Convoy) : (s.modConvoy v f).throt = s.throt := rfl
@[simp] theorem State.modConvoy_pubKeys (s : State) (v : Nat) (f : Convoy → Convoy) : (s.modConvoy v f).pubKeys = s.pubKeys := rfl

/-! ### modOp -/

@[simp] theorem State.modOp_clk (s : State) (i : Nat) (f : Op → Op) : (s.modOp i f).clk = s.clk := rfl
@[simp] theorem State.modOp_slots (s : State) (i : Nat) (f : Op → Op) : (s.modOp i f).slots = s.slots := rfl
@[simp] theorem State.modOp_slotPart (s : State) (i : Nat) (f : Op → Op) : (s.modOp i f).slotPart = s.slotPart := rfl
@[simp] theorem State.modOp_aqKey (s : State) (i : Nat) (f : Op → Op) : (s.modOp i f).aqKey = s.aqKey := rfl
@[simp] theorem State.modOp_free (s : State) (i : Nat) (f : Op → Op) : (s.modOp i f).free = s.free := rfl
@[simp] theorem State.modOp_next (s : State) (i : Nat) (f : Op → Op) : (s.modOp i f).next = s.next := rfl
@[simp] theorem State.modOp_agenda (s : State) (i : Nat) (f : Op → Op) : (s.modOp i f).agenda = s.agenda := rfl
@[simp] theorem State.modOp_choice (s : State) (i : Nat) (f : Op → Op) : (s.modOp i f).choice = s.choice := rfl
@[simp] theorem State.modOp_issue (s : State) (i : Nat) (f : Op → Op) : (s.modOp i f).issue = s.issue := rfl
@[simp] theorem State.modOp_lastGang (s : State) (i : Nat) (f : Op → Op) : (s.modOp i f).lastGang = s.lastGang := rfl
@[simp] theorem State.modOp_mem (s : State) (i : Nat) (f : Op → Op) : (s.modOp i f).mem = s.mem := rfl
@[simp] theorem State.modOp_poison (s : State) (i : Nat) (f : Op → Op) : (s.modOp i f).poison = s.poison := rfl
@[simp] theorem State.modOp_gangs (s : State) (i : Nat) (f : Op → Op) : (s.modOp i f).gangs = s.gangs := rfl
@[simp] theorem State.modOp_crews (s : State) (i : Nat) (f : Op → Op) : (s.modOp i f).crews = s.crews := rfl
@[simp] theorem State.modOp_convoys (s : State) (i : Nat) (f : Op → Op) : (s.modOp i f).convoys = s.convoys := rfl
@[simp] theorem State.modOp_launches (s : State) (i : Nat) (f : Op → Op) : (s.modOp i f).launches = s.launches := rfl
@[simp] theorem State.modOp_ops (s : State) (i : Nat) (f : Op → Op) : (s.modOp i f).ops = alter s.ops i f := rfl
@[simp] theorem State.modOp_reqs (s : State) (i : Nat) (f : Op → Op) : (s.modOp i f).reqs = s.reqs := rfl
@[simp] theorem State.modOp_clusters (s : State) (i : Nat) (f : Op → Op) : (s.modOp i f).clusters = s.clusters := rfl
@[simp] theorem State.modOp_cores (s : State) (i : Nat) (f : Op → Op) : (s.modOp i f).cores = s.cores := rfl
@[simp] theorem State.modOp_layers (s : State) (i : Nat) (f : Op → Op) : (s.modOp i f).layers = s.layers := rfl
@[simp] theorem State.modOp_ports (s : State) (i : Nat) (f : Op → Op) : (s.modOp i f).ports = s.ports := rfl
@[simp] theorem State.modOp_keyOwner (s : State) (i : Nat) (f : Op → Op) : (s.modOp i f).keyOwner = s.keyOwner := rfl
@[simp] theorem State.modOp_keys (s : State) (i : Nat) (f : Op → Op) : (s.modOp i f).keys = s.keys := rfl
@[simp] theorem State.modOp_lineKeys (s : State) (i : Nat) (f : Op → Op) : (s.modOp i f).lineKeys = s.lineKeys := rfl
@[simp] theorem State.modOp_ready (s : State) (i : Nat) (f : Op → Op) : (s.modOp i f).ready = s.ready := rfl
@[simp] theorem State.modOp_hostmap (s : State) (i : Nat) (f : Op → Op) : (s.modOp i f).hostmap = s.hostmap := rfl
@[simp] theorem State.modOp_ethernet (s : State) (i : Nat) (f : Op → Op) : (s.modOp i f).ethernet = s.ethernet := rfl
@[simp] theorem State.modOp_frozen (s : State) (i : Nat) (f : Op → Op) : (s.modOp i f).frozen = s.frozen := rfl
@[simp] theorem State.modOp_startDue (s : State) (i : Nat) (f : Op → Op) : (s.modOp i f).startDue = s.startDue := rfl
@[simp] theorem State.modOp_temps (s : State) (i : Nat) (f : Op → Op) : (s.modOp i f).temps = s.temps := rfl
@[simp] theorem State.modOp_power (s : State) (i : Nat) (f : Op → Op) : (s.modOp i f).power = s.power := rfl
@[simp] theorem State.modOp_clkMhz (s : State) (i : Nat) (f : Op → Op) : (s.modOp i f).clkMhz = s.clkMhz := rfl
@[simp] theorem State.modOp_throt (s : State) (i : Nat) (f : Op → Op) : (s.modOp i f).throt = s.throt := rfl
@[simp] theorem State.modOp_pubKeys (s : State) (i : Nat) (f : Op → Op) : (s.modOp i f).pubKeys = s.pubKeys := rfl

/-! ### setLayer -/

@[simp] theorem State.setLayer_clk (s : State) (l : Nat) (y : Layer) : (s.setLayer l y).clk = s.clk := rfl
@[simp] theorem State.setLayer_slots (s : State) (l : Nat) (y : Layer) : (s.setLayer l y).slots = s.slots := rfl
@[simp] theorem State.setLayer_slotPart (s : State) (l : Nat) (y : Layer) : (s.setLayer l y).slotPart = s.slotPart := rfl
@[simp] theorem State.setLayer_aqKey (s : State) (l : Nat) (y : Layer) : (s.setLayer l y).aqKey = s.aqKey := rfl
@[simp] theorem State.setLayer_free (s : State) (l : Nat) (y : Layer) : (s.setLayer l y).free = s.free := rfl
@[simp] theorem State.setLayer_next (s : State) (l : Nat) (y : Layer) : (s.setLayer l y).next = s.next := rfl
@[simp] theorem State.setLayer_agenda (s : State) (l : Nat) (y : Layer) : (s.setLayer l y).agenda = s.agenda := rfl
@[simp] theorem State.setLayer_choice (s : State) (l : Nat) (y : Layer) : (s.setLayer l y).choice = s.choice := rfl
@[simp] theorem State.setLayer_issue (s : State) (l : Nat) (y : Layer) : (s.setLayer l y).issue = s.issue := rfl
@[simp] theorem State.setLayer_lastGang (s : State) (l : Nat) (y : Layer) : (s.setLayer l y).lastGang = s.lastGang := rfl
@[simp] theorem State.setLayer_mem (s : State) (l : Nat) (y : Layer) : (s.setLayer l y).mem = s.mem := rfl
@[simp] theorem State.setLayer_poison (s : State) (l : Nat) (y : Layer) : (s.setLayer l y).poison = s.poison := rfl
@[simp] theorem State.setLayer_gangs (s : State) (l : Nat) (y : Layer) : (s.setLayer l y).gangs = s.gangs := rfl
@[simp] theorem State.setLayer_crews (s : State) (l : Nat) (y : Layer) : (s.setLayer l y).crews = s.crews := rfl
@[simp] theorem State.setLayer_convoys (s : State) (l : Nat) (y : Layer) : (s.setLayer l y).convoys = s.convoys := rfl
@[simp] theorem State.setLayer_launches (s : State) (l : Nat) (y : Layer) : (s.setLayer l y).launches = s.launches := rfl
@[simp] theorem State.setLayer_ops (s : State) (l : Nat) (y : Layer) : (s.setLayer l y).ops = s.ops := rfl
@[simp] theorem State.setLayer_reqs (s : State) (l : Nat) (y : Layer) : (s.setLayer l y).reqs = s.reqs := rfl
@[simp] theorem State.setLayer_clusters (s : State) (l : Nat) (y : Layer) : (s.setLayer l y).clusters = s.clusters := rfl
@[simp] theorem State.setLayer_cores (s : State) (l : Nat) (y : Layer) : (s.setLayer l y).cores = s.cores := rfl
@[simp] theorem State.setLayer_layers (s : State) (l : Nat) (y : Layer) : (s.setLayer l y).layers = insert s.layers l y := rfl
@[simp] theorem State.setLayer_ports (s : State) (l : Nat) (y : Layer) : (s.setLayer l y).ports = s.ports := rfl
@[simp] theorem State.setLayer_keyOwner (s : State) (l : Nat) (y : Layer) : (s.setLayer l y).keyOwner = s.keyOwner := rfl
@[simp] theorem State.setLayer_keys (s : State) (l : Nat) (y : Layer) : (s.setLayer l y).keys = s.keys := rfl
@[simp] theorem State.setLayer_lineKeys (s : State) (l : Nat) (y : Layer) : (s.setLayer l y).lineKeys = s.lineKeys := rfl
@[simp] theorem State.setLayer_ready (s : State) (l : Nat) (y : Layer) : (s.setLayer l y).ready = s.ready := rfl
@[simp] theorem State.setLayer_hostmap (s : State) (l : Nat) (y : Layer) : (s.setLayer l y).hostmap = s.hostmap := rfl
@[simp] theorem State.setLayer_ethernet (s : State) (l : Nat) (y : Layer) : (s.setLayer l y).ethernet = s.ethernet := rfl
@[simp] theorem State.setLayer_frozen (s : State) (l : Nat) (y : Layer) : (s.setLayer l y).frozen = s.frozen := rfl
@[simp] theorem State.setLayer_startDue (s : State) (l : Nat) (y : Layer) : (s.setLayer l y).startDue = s.startDue := rfl
@[simp] theorem State.setLayer_temps (s : State) (l : Nat) (y : Layer) : (s.setLayer l y).temps = s.temps := rfl
@[simp] theorem State.setLayer_power (s : State) (l : Nat) (y : Layer) : (s.setLayer l y).power = s.power := rfl
@[simp] theorem State.setLayer_clkMhz (s : State) (l : Nat) (y : Layer) : (s.setLayer l y).clkMhz = s.clkMhz := rfl
@[simp] theorem State.setLayer_throt (s : State) (l : Nat) (y : Layer) : (s.setLayer l y).throt = s.throt := rfl
@[simp] theorem State.setLayer_pubKeys (s : State) (l : Nat) (y : Layer) : (s.setLayer l y).pubKeys = s.pubKeys := rfl

/-! ### setPort -/

@[simp] theorem State.setPort_clk (s : State) (p : Nat) (y : Port) : (s.setPort p y).clk = s.clk := rfl
@[simp] theorem State.setPort_slots (s : State) (p : Nat) (y : Port) : (s.setPort p y).slots = s.slots := rfl
@[simp] theorem State.setPort_slotPart (s : State) (p : Nat) (y : Port) : (s.setPort p y).slotPart = s.slotPart := rfl
@[simp] theorem State.setPort_aqKey (s : State) (p : Nat) (y : Port) : (s.setPort p y).aqKey = s.aqKey := rfl
@[simp] theorem State.setPort_free (s : State) (p : Nat) (y : Port) : (s.setPort p y).free = s.free := rfl
@[simp] theorem State.setPort_next (s : State) (p : Nat) (y : Port) : (s.setPort p y).next = s.next := rfl
@[simp] theorem State.setPort_agenda (s : State) (p : Nat) (y : Port) : (s.setPort p y).agenda = s.agenda := rfl
@[simp] theorem State.setPort_choice (s : State) (p : Nat) (y : Port) : (s.setPort p y).choice = s.choice := rfl
@[simp] theorem State.setPort_issue (s : State) (p : Nat) (y : Port) : (s.setPort p y).issue = s.issue := rfl
@[simp] theorem State.setPort_lastGang (s : State) (p : Nat) (y : Port) : (s.setPort p y).lastGang = s.lastGang := rfl
@[simp] theorem State.setPort_mem (s : State) (p : Nat) (y : Port) : (s.setPort p y).mem = s.mem := rfl
@[simp] theorem State.setPort_poison (s : State) (p : Nat) (y : Port) : (s.setPort p y).poison = s.poison := rfl
@[simp] theorem State.setPort_gangs (s : State) (p : Nat) (y : Port) : (s.setPort p y).gangs = s.gangs := rfl
@[simp] theorem State.setPort_crews (s : State) (p : Nat) (y : Port) : (s.setPort p y).crews = s.crews := rfl
@[simp] theorem State.setPort_convoys (s : State) (p : Nat) (y : Port) : (s.setPort p y).convoys = s.convoys := rfl
@[simp] theorem State.setPort_launches (s : State) (p : Nat) (y : Port) : (s.setPort p y).launches = s.launches := rfl
@[simp] theorem State.setPort_ops (s : State) (p : Nat) (y : Port) : (s.setPort p y).ops = s.ops := rfl
@[simp] theorem State.setPort_reqs (s : State) (p : Nat) (y : Port) : (s.setPort p y).reqs = s.reqs := rfl
@[simp] theorem State.setPort_clusters (s : State) (p : Nat) (y : Port) : (s.setPort p y).clusters = s.clusters := rfl
@[simp] theorem State.setPort_cores (s : State) (p : Nat) (y : Port) : (s.setPort p y).cores = s.cores := rfl
@[simp] theorem State.setPort_layers (s : State) (p : Nat) (y : Port) : (s.setPort p y).layers = s.layers := rfl
@[simp] theorem State.setPort_ports (s : State) (p : Nat) (y : Port) : (s.setPort p y).ports = insert s.ports p y := rfl
@[simp] theorem State.setPort_keyOwner (s : State) (p : Nat) (y : Port) : (s.setPort p y).keyOwner = s.keyOwner := rfl
@[simp] theorem State.setPort_keys (s : State) (p : Nat) (y : Port) : (s.setPort p y).keys = s.keys := rfl
@[simp] theorem State.setPort_lineKeys (s : State) (p : Nat) (y : Port) : (s.setPort p y).lineKeys = s.lineKeys := rfl
@[simp] theorem State.setPort_ready (s : State) (p : Nat) (y : Port) : (s.setPort p y).ready = s.ready := rfl
@[simp] theorem State.setPort_hostmap (s : State) (p : Nat) (y : Port) : (s.setPort p y).hostmap = s.hostmap := rfl
@[simp] theorem State.setPort_ethernet (s : State) (p : Nat) (y : Port) : (s.setPort p y).ethernet = s.ethernet := rfl
@[simp] theorem State.setPort_frozen (s : State) (p : Nat) (y : Port) : (s.setPort p y).frozen = s.frozen := rfl
@[simp] theorem State.setPort_startDue (s : State) (p : Nat) (y : Port) : (s.setPort p y).startDue = s.startDue := rfl
@[simp] theorem State.setPort_temps (s : State) (p : Nat) (y : Port) : (s.setPort p y).temps = s.temps := rfl
@[simp] theorem State.setPort_power (s : State) (p : Nat) (y : Port) : (s.setPort p y).power = s.power := rfl
@[simp] theorem State.setPort_clkMhz (s : State) (p : Nat) (y : Port) : (s.setPort p y).clkMhz = s.clkMhz := rfl
@[simp] theorem State.setPort_throt (s : State) (p : Nat) (y : Port) : (s.setPort p y).throt = s.throt := rfl
@[simp] theorem State.setPort_pubKeys (s : State) (p : Nat) (y : Port) : (s.setPort p y).pubKeys = s.pubKeys := rfl

/-! ### writeAt -/

@[simp] theorem State.writeAt_clk (s : State) (p : Place) (b : List Byte) : (s.writeAt p b).clk = s.clk := rfl
@[simp] theorem State.writeAt_slots (s : State) (p : Place) (b : List Byte) : (s.writeAt p b).slots = s.slots := rfl
@[simp] theorem State.writeAt_slotPart (s : State) (p : Place) (b : List Byte) : (s.writeAt p b).slotPart = s.slotPart := rfl
@[simp] theorem State.writeAt_aqKey (s : State) (p : Place) (b : List Byte) : (s.writeAt p b).aqKey = s.aqKey := rfl
@[simp] theorem State.writeAt_free (s : State) (p : Place) (b : List Byte) : (s.writeAt p b).free = s.free := rfl
@[simp] theorem State.writeAt_next (s : State) (p : Place) (b : List Byte) : (s.writeAt p b).next = s.next := rfl
@[simp] theorem State.writeAt_agenda (s : State) (p : Place) (b : List Byte) : (s.writeAt p b).agenda = s.agenda := rfl
@[simp] theorem State.writeAt_choice (s : State) (p : Place) (b : List Byte) : (s.writeAt p b).choice = s.choice := rfl
@[simp] theorem State.writeAt_issue (s : State) (p : Place) (b : List Byte) : (s.writeAt p b).issue = s.issue := rfl
@[simp] theorem State.writeAt_lastGang (s : State) (p : Place) (b : List Byte) : (s.writeAt p b).lastGang = s.lastGang := rfl
@[simp] theorem State.writeAt_gangs (s : State) (p : Place) (b : List Byte) : (s.writeAt p b).gangs = s.gangs := rfl
@[simp] theorem State.writeAt_crews (s : State) (p : Place) (b : List Byte) : (s.writeAt p b).crews = s.crews := rfl
@[simp] theorem State.writeAt_convoys (s : State) (p : Place) (b : List Byte) : (s.writeAt p b).convoys = s.convoys := rfl
@[simp] theorem State.writeAt_launches (s : State) (p : Place) (b : List Byte) : (s.writeAt p b).launches = s.launches := rfl
@[simp] theorem State.writeAt_ops (s : State) (p : Place) (b : List Byte) : (s.writeAt p b).ops = s.ops := rfl
@[simp] theorem State.writeAt_reqs (s : State) (p : Place) (b : List Byte) : (s.writeAt p b).reqs = s.reqs := rfl
@[simp] theorem State.writeAt_clusters (s : State) (p : Place) (b : List Byte) : (s.writeAt p b).clusters = s.clusters := rfl
@[simp] theorem State.writeAt_cores (s : State) (p : Place) (b : List Byte) : (s.writeAt p b).cores = s.cores := rfl
@[simp] theorem State.writeAt_layers (s : State) (p : Place) (b : List Byte) : (s.writeAt p b).layers = s.layers := rfl
@[simp] theorem State.writeAt_ports (s : State) (p : Place) (b : List Byte) : (s.writeAt p b).ports = s.ports := rfl
@[simp] theorem State.writeAt_keyOwner (s : State) (p : Place) (b : List Byte) : (s.writeAt p b).keyOwner = s.keyOwner := rfl
@[simp] theorem State.writeAt_keys (s : State) (p : Place) (b : List Byte) : (s.writeAt p b).keys = s.keys := rfl
@[simp] theorem State.writeAt_ready (s : State) (p : Place) (b : List Byte) : (s.writeAt p b).ready = s.ready := rfl
@[simp] theorem State.writeAt_hostmap (s : State) (p : Place) (b : List Byte) : (s.writeAt p b).hostmap = s.hostmap := rfl
@[simp] theorem State.writeAt_ethernet (s : State) (p : Place) (b : List Byte) : (s.writeAt p b).ethernet = s.ethernet := rfl
@[simp] theorem State.writeAt_frozen (s : State) (p : Place) (b : List Byte) : (s.writeAt p b).frozen = s.frozen := rfl
@[simp] theorem State.writeAt_startDue (s : State) (p : Place) (b : List Byte) : (s.writeAt p b).startDue = s.startDue := rfl
@[simp] theorem State.writeAt_temps (s : State) (p : Place) (b : List Byte) : (s.writeAt p b).temps = s.temps := rfl
@[simp] theorem State.writeAt_power (s : State) (p : Place) (b : List Byte) : (s.writeAt p b).power = s.power := rfl
@[simp] theorem State.writeAt_clkMhz (s : State) (p : Place) (b : List Byte) : (s.writeAt p b).clkMhz = s.clkMhz := rfl
@[simp] theorem State.writeAt_throt (s : State) (p : Place) (b : List Byte) : (s.writeAt p b).throt = s.throt := rfl
@[simp] theorem State.writeAt_pubKeys (s : State) (p : Place) (b : List Byte) : (s.writeAt p b).pubKeys = s.pubKeys := rfl

/-! ### What a read gives after an update -/

theorem State.gang_modGang (s : State) (g : Nat) (f : Gang → Gang) (h : (find s.gangs g).isSome) :
    (s.modGang g f).gang g = f (s.gang g) := by
  unfold State.gang
  rw [State.modGang_gangs, look_alter _ _ _ _ _ h, if_pos rfl]

theorem State.gang_modGang_ne (s : State) (g j : Nat) (f : Gang → Gang) (h : g ≠ j) : (s.modGang g f).gang j = s.gang j :=
  look_alter_ne _ _ _ _ _ h

theorem State.crew_modCrew (s : State) (c : Nat) (f : Crew → Crew) (h : (find s.crews c).isSome) :
    (s.modCrew c f).crew c = f (s.crew c) := by
  unfold State.crew
  rw [State.modCrew_crews, look_alter _ _ _ _ _ h, if_pos rfl]

theorem State.crew_modCrew_ne (s : State) (c j : Nat) (f : Crew → Crew) (h : c ≠ j) : (s.modCrew c f).crew j = s.crew j :=
  look_alter_ne _ _ _ _ _ h

theorem State.convoy_modConvoy (s : State) (v : Nat) (f : Convoy → Convoy) (h : (find s.convoys v).isSome) :
    (s.modConvoy v f).convoy v = f (s.convoy v) := by
  unfold State.convoy
  rw [State.modConvoy_convoys, look_alter _ _ _ _ _ h, if_pos rfl]

theorem State.convoy_modConvoy_ne (s : State) (v j : Nat) (f : Convoy → Convoy) (h : v ≠ j) :
    (s.modConvoy v f).convoy j = s.convoy j := look_alter_ne _ _ _ _ _ h

@[simp] theorem State.layer_setLayer (s : State) (l j : Nat) (y : Layer) :
    (s.setLayer l y).layer j = if l = j then y else s.layer j := look_insert _ _ _ _ _

@[simp] theorem State.port_setPort (s : State) (p j : Nat) (y : Port) :
    (s.setPort p y).port j = if p = j then y else s.port j := look_insert _ _ _ _ _

@[simp] theorem State.crew_modGang (s : State) (g : Nat) (f : Gang → Gang) (j : Nat) : (s.modGang g f).crew j = s.crew j := rfl
@[simp] theorem State.convoy_modGang (s : State) (g : Nat) (f : Gang → Gang) (j : Nat) : (s.modGang g f).convoy j = s.convoy j := rfl
@[simp] theorem State.launch_modGang (s : State) (g : Nat) (f : Gang → Gang) (j : Nat) : (s.modGang g f).launch j = s.launch j := rfl
@[simp] theorem State.layer_modGang (s : State) (g : Nat) (f : Gang → Gang) (j : Nat) : (s.modGang g f).layer j = s.layer j := rfl
@[simp] theorem State.port_modGang (s : State) (g : Nat) (f : Gang → Gang) (j : Nat) : (s.modGang g f).port j = s.port j := rfl
@[simp] theorem State.gang_modCrew (s : State) (c : Nat) (f : Crew → Crew) (j : Nat) : (s.modCrew c f).gang j = s.gang j := rfl
@[simp] theorem State.convoy_modCrew (s : State) (c : Nat) (f : Crew → Crew) (j : Nat) : (s.modCrew c f).convoy j = s.convoy j := rfl
@[simp] theorem State.launch_modCrew (s : State) (c : Nat) (f : Crew → Crew) (j : Nat) : (s.modCrew c f).launch j = s.launch j := rfl
@[simp] theorem State.layer_modCrew (s : State) (c : Nat) (f : Crew → Crew) (j : Nat) : (s.modCrew c f).layer j = s.layer j := rfl
@[simp] theorem State.port_modCrew (s : State) (c : Nat) (f : Crew → Crew) (j : Nat) : (s.modCrew c f).port j = s.port j := rfl
@[simp] theorem State.gang_modConvoy (s : State) (v : Nat) (f : Convoy → Convoy) (j : Nat) : (s.modConvoy v f).gang j = s.gang j := rfl
@[simp] theorem State.crew_modConvoy (s : State) (v : Nat) (f : Convoy → Convoy) (j : Nat) : (s.modConvoy v f).crew j = s.crew j := rfl
@[simp] theorem State.launch_modConvoy (s : State) (v : Nat) (f : Convoy → Convoy) (j : Nat) : (s.modConvoy v f).launch j = s.launch j := rfl
@[simp] theorem State.layer_modConvoy (s : State) (v : Nat) (f : Convoy → Convoy) (j : Nat) : (s.modConvoy v f).layer j = s.layer j := rfl
@[simp] theorem State.port_modConvoy (s : State) (v : Nat) (f : Convoy → Convoy) (j : Nat) : (s.modConvoy v f).port j = s.port j := rfl
@[simp] theorem State.gang_modOp (s : State) (i : Nat) (f : Op → Op) (j : Nat) : (s.modOp i f).gang j = s.gang j := rfl
@[simp] theorem State.crew_modOp (s : State) (i : Nat) (f : Op → Op) (j : Nat) : (s.modOp i f).crew j = s.crew j := rfl
@[simp] theorem State.convoy_modOp (s : State) (i : Nat) (f : Op → Op) (j : Nat) : (s.modOp i f).convoy j = s.convoy j := rfl
@[simp] theorem State.launch_modOp (s : State) (i : Nat) (f : Op → Op) (j : Nat) : (s.modOp i f).launch j = s.launch j := rfl
@[simp] theorem State.layer_modOp (s : State) (i : Nat) (f : Op → Op) (j : Nat) : (s.modOp i f).layer j = s.layer j := rfl
@[simp] theorem State.port_modOp (s : State) (i : Nat) (f : Op → Op) (j : Nat) : (s.modOp i f).port j = s.port j := rfl
@[simp] theorem State.gang_setLayer (s : State) (l : Nat) (y : Layer) (j : Nat) : (s.setLayer l y).gang j = s.gang j := rfl
@[simp] theorem State.crew_setLayer (s : State) (l : Nat) (y : Layer) (j : Nat) : (s.setLayer l y).crew j = s.crew j := rfl
@[simp] theorem State.convoy_setLayer (s : State) (l : Nat) (y : Layer) (j : Nat) : (s.setLayer l y).convoy j = s.convoy j := rfl
@[simp] theorem State.launch_setLayer (s : State) (l : Nat) (y : Layer) (j : Nat) : (s.setLayer l y).launch j = s.launch j := rfl
@[simp] theorem State.port_setLayer (s : State) (l : Nat) (y : Layer) (j : Nat) : (s.setLayer l y).port j = s.port j := rfl
@[simp] theorem State.gang_setPort (s : State) (p : Nat) (y : Port) (j : Nat) : (s.setPort p y).gang j = s.gang j := rfl
@[simp] theorem State.crew_setPort (s : State) (p : Nat) (y : Port) (j : Nat) : (s.setPort p y).crew j = s.crew j := rfl
@[simp] theorem State.convoy_setPort (s : State) (p : Nat) (y : Port) (j : Nat) : (s.setPort p y).convoy j = s.convoy j := rfl
@[simp] theorem State.launch_setPort (s : State) (p : Nat) (y : Port) (j : Nat) : (s.setPort p y).launch j = s.launch j := rfl
@[simp] theorem State.layer_setPort (s : State) (p : Nat) (y : Port) (j : Nat) : (s.setPort p y).layer j = s.layer j := rfl
@[simp] theorem State.gang_writeAt (s : State) (p : Place) (b : List Byte) (j : Nat) : (s.writeAt p b).gang j = s.gang j := rfl
@[simp] theorem State.crew_writeAt (s : State) (p : Place) (b : List Byte) (j : Nat) : (s.writeAt p b).crew j = s.crew j := rfl
@[simp] theorem State.convoy_writeAt (s : State) (p : Place) (b : List Byte) (j : Nat) : (s.writeAt p b).convoy j = s.convoy j := rfl
@[simp] theorem State.launch_writeAt (s : State) (p : Place) (b : List Byte) (j : Nat) : (s.writeAt p b).launch j = s.launch j := rfl
@[simp] theorem State.layer_writeAt (s : State) (p : Place) (b : List Byte) (j : Nat) : (s.writeAt p b).layer j = s.layer j := rfl
@[simp] theorem State.port_writeAt (s : State) (p : Place) (b : List Byte) (j : Nat) : (s.writeAt p b).port j = s.port j := rfl

end Sys2Proof.Machine
end

