-- ==== Sys2Proof/Laws/Registers.lean ====
section
/-! SUPPORT. Registers: what a write of v registers does (spec/02_formats.md R41, R59, R60), said once. -/

namespace Sys2Proof.Machine

/-! ### The caddy unit changes crews and memory alone -/

theorem State.spillWrite_rest (s : State) (c i : Nat) : s.spillWrite c i =
    { s with crews := (s.spillWrite c i).crews, mem := (s.spillWrite c i).mem, lineKeys := (s.spillWrite c i).lineKeys
             poison := (s.spillWrite c i).poison } := by
  unfold State.spillWrite
  dsimp only
  split
  · rename_i e; rw [State.writeVa_rest e]; rfl
  · rfl

/-- A spill write notes in its crew's caddy what has become of it. -/
theorem State.spillWrite_crews (s : State) (c i : Nat) : ∃ f : Caddy → Caddy,
    (s.spillWrite c i).crews = alter s.crews c fun cr => { cr with caddy := f cr.caddy } := by
  unfold State.spillWrite
  dsimp only
  split
  · rename_i e; exact ⟨fun d => d.wrote i, by rw [State.writeVa_rest e]; rfl⟩
  · exact ⟨fun d => { d with unwritten := if d.unwritten.contains i then d.unwritten else i :: d.unwritten }, rfl⟩

theorem State.spillTouch_rest (s : State) (c i : Nat) : s.spillTouch c i =
    { s with crews := (s.spillTouch c i).crews, mem := (s.spillTouch c i).mem, lineKeys := (s.spillTouch c i).lineKeys
             poison := (s.spillTouch c i).poison } := by
  unfold State.spillTouch
  split
  · rfl
  · exact State.spillWrite_rest s c i

theorem State.spillTouch_crews (s : State) (c i : Nat) : ∃ f : Caddy → Caddy,
    (s.spillTouch c i).crews = alter s.crews c fun cr => { cr with caddy := f cr.caddy } := by
  unfold State.spillTouch
  split
  · exact ⟨fun d => d, (alter_id _ _).symm⟩
  · exact State.spillWrite_crews s c i

theorem State.modNode_rest (s : State) (c i : Nat) (f : Node → Node) : s.modNode c i f =
    { s with crews := (s.modNode c i f).crews, mem := (s.modNode c i f).mem, lineKeys := (s.modNode c i f).lineKeys
             poison := (s.modNode c i f).poison } := by
  unfold State.modNode
  rw [State.spillTouch_rest]
  rfl

/-- A change of a node changes its crew's caddy alone. -/
theorem State.modNode_crews (s : State) (c i : Nat) (f : Node → Node) : ∃ φ : Caddy → Caddy,
    (s.modNode c i f).crews = alter s.crews c fun cr => { cr with caddy := φ cr.caddy } := by
  obtain ⟨φ, h⟩ := State.spillTouch_crews (s.modCaddy c fun d => { d with nodes := alter d.nodes i f }) c i
  exact ⟨fun d => φ { d with nodes := alter d.nodes i f }, by unfold State.modNode; rw [h]; exact alter_alter _ _ _ _⟩

@[simp] theorem State.modNode_gangs (s : State) (c i : Nat) (f : Node → Node) : (s.modNode c i f).gangs = s.gangs := by
  rw [State.modNode_rest]

/-- What a crew keeps when only its caddy changes. -/
def Crew.sameButCaddy (a b : Crew) : Prop := a = { b with caddy := a.caddy }

theorem Crew.sameButCaddy_refl (a : Crew) : a.sameButCaddy a := rfl

theorem Crew.sameButCaddy_trans {a b c : Crew} (h : a.sameButCaddy b) (k : b.sameButCaddy c) : a.sameButCaddy c := by
  unfold Crew.sameButCaddy at *
  rw [h, k]

/-- A node's reference change alters nothing of a crew but its caddy. -/
theorem State.modNode_crew (s : State) (c i j : Nat) (f : Node → Node) : ((s.modNode c i f).crew j).sameButCaddy (s.crew j) := by
  obtain ⟨φ, h⟩ := State.modNode_crews s c i f
  unfold State.crew
  rw [h, look_eq_find, look_eq_find, find_alter]
  split
  · cases find s.crews j <;> rfl
  · rfl

theorem State.modNode_crew_ne (s : State) (c i j : Nat) (f : Node → Node) (h : j ≠ c) : (s.modNode c i f).crew j = s.crew j := by
  obtain ⟨φ, hc⟩ := State.modNode_crews s c i f
  unfold State.crew
  rw [hc]
  exact look_alter_ne _ _ _ _ _ (Ne.symm h)

/-! ### An e register gives up its reference -/

/-- The gang's part of a release (R59, R60). -/
def Gang.dropE (g : Gang) (n l : Nat) : Gang :=
  if g.hvAt n l then
    { g with hv := erase g.hv (32 * n + l)
             v := put g.v (32 * (4 * n + 3) + l) (look g.v (32 * (4 * n + 3) + l) 0 &&& ~~~1#32) 0 }
  else g

theorem State.releaseE_rest (s : State) (g n l : Nat) : s.releaseE g n l =
    { s with gangs := (s.releaseE g n l).gangs, crews := (s.releaseE g n l).crews, mem := (s.releaseE g n l).mem
             lineKeys := (s.releaseE g n l).lineKeys, poison := (s.releaseE g n l).poison } := by
  unfold State.releaseE
  dsimp only
  split
  · unfold State.release; rw [State.modNode_rest]; rfl
  · rfl

theorem State.releaseE_gangs (s : State) (g n l : Nat) : (s.releaseE g n l).gangs = if (s.gang g).hvAt n l then
    alter s.gangs g (fun x => { x with
      hv := erase x.hv (32 * n + l), v := put x.v (32 * (4 * n + 3) + l) (look x.v (32 * (4 * n + 3) + l) 0 &&& ~~~1#32) 0 })
    else s.gangs := by
  unfold State.releaseE
  dsimp only
  split
  · unfold State.release; rw [State.modNode_rest]; rfl
  · rfl

theorem State.releaseE_found (s : State) (g n l j : Nat) : (find (s.releaseE g n l).gangs j).isSome = (find s.gangs j).isSome := by
  rw [State.releaseE_gangs]
  split
  · exact find_alter_isSome _ _ _ _
  · rfl

theorem State.releaseE_gang (s : State) (g n l : Nat) (h : (find s.gangs g).isSome) :
    (s.releaseE g n l).gang g = (s.gang g).dropE n l := by
  unfold State.gang Gang.dropE
  rw [State.releaseE_gangs]
  show look (if (s.gang g).hvAt n l then _ else _) g default = _
  unfold State.gang
  split
  · rw [look_alter _ _ _ _ _ h, if_pos rfl]
  · rfl

theorem State.releaseE_gang_ne (s : State) (g n l j : Nat) (h : j ≠ g) : (s.releaseE g n l).gang j = s.gang j := by
  unfold State.gang
  rw [State.releaseE_gangs]
  split
  · exact look_alter_ne _ _ _ _ _ (Ne.symm h)
  · rfl

/-- Without a reference nothing happens. -/
theorem State.releaseE_none (s : State) (g n l : Nat) (h : (s.gang g).hvAt n l = false) : s.releaseE g n l = s := by
  unfold State.releaseE
  dsimp only
  rw [if_neg (by simp [h])]

theorem State.releaseE_crew (s : State) (g n l j : Nat) : ((s.releaseE g n l).crew j).sameButCaddy (s.crew j) := by
  unfold State.releaseE
  dsimp only
  split
  · exact State.modNode_crew _ _ _ _ _
  · rfl

theorem State.releaseE_crew_ne (s : State) (g n l j : Nat) (h : j ≠ (s.gang g).crew) : (s.releaseE g n l).crew j = s.crew j := by
  unfold State.releaseE
  dsimp only
  split
  · exact State.modNode_crew_ne _ _ _ _ _ h
  · rfl

theorem State.releaseE_crewFound (s : State) (g n l j : Nat) : (find (s.releaseE g n l).crews j).isSome = (find s.crews j).isSome := by
  unfold State.releaseE
  dsimp only
  split
  · unfold State.release
    obtain ⟨φ, h⟩ := State.modNode_crews (s.modGang g fun x => { x with
      hv := erase x.hv (32 * n + l), v := put x.v (32 * (4 * n + 3) + l) (look x.v (32 * (4 * n + 3) + l) 0 &&& ~~~1#32) 0 })
      (s.gang g).crew ((s.gang g).handleIx n l) fun n => { n with rc := if n.rc = 65535 then n.rc else n.rc - 1 }
    rw [h]
    exact find_alter_isSome _ _ _ _
  · rfl

@[simp] theorem Gang.dropE_crew (g : Gang) (n l : Nat) : (g.dropE n l).crew = g.crew := by unfold Gang.dropE; split <;> rfl

theorem Gang.dropE_rest (g : Gang) (n l : Nat) : g.dropE n l = { g with v := (g.dropE n l).v, hv := (g.dropE n l).hv } := by
  unfold Gang.dropE; split <;> rfl

theorem Gang.hvAt_dropE (g : Gang) (n l k j : Nat) (hl : l < 32) (hj : j < 32) :
    (g.dropE n l).hvAt k j = (g.hvAt k j && !(decide (n = k) && decide (l = j))) := by
  unfold Gang.dropE
  split
  · rename_i h
    unfold Gang.hvAt
    rw [look_erase]
    by_cases hk : n = k ∧ l = j
    · obtain ⟨rfl, rfl⟩ := hk; simp
    · rw [if_neg (by omega)]
      have : (decide (n = k) && decide (l = j)) = false := by simpa using hk
      rw [this]; simp
  · rename_i h
    by_cases hk : n = k ∧ l = j
    · obtain ⟨rfl, rfl⟩ := hk; simp_all
    · have : (decide (n = k) && decide (l = j)) = false := by simpa using hk
      rw [this]; simp

theorem toNat_clear_bit0 (x : BitVec 32) : (x &&& ~~~1#32).toNat = x.toNat / 2 * 2 := by
  rw [BitVec.toNat_and]
  have h : (~~~1#32).toNat = 2 ^ 32 - 1 - 1 := by decide
  rw [h]
  have hx := x.isLt
  apply Nat.eq_of_testBit_eq
  intro i
  rw [Nat.testBit_and]
  cases i with
  | zero => simp [Nat.testBit_zero]
  | succ i =>
    rw [Nat.testBit_succ, Nat.testBit_succ, Nat.testBit_succ, Nat.mul_div_cancel _ (by omega : 0 < 2)]
    rw [show (2 ^ 32 - 1 - 1) / 2 = 2 ^ 31 - 1 by decide, Nat.testBit_two_pow_sub_one]
    by_cases hi : i < 31
    · simp [hi]
    · have : (x.toNat / 2).testBit i = false :=
        Nat.testBit_lt_two_pow (Nat.lt_of_lt_of_le (by omega : x.toNat / 2 < 2 ^ 31) (Nat.pow_le_pow_right (by omega) (by omega)))
      simp [this]

theorem Gang.vreg_dropE (g : Gang) (n l r j : Nat) (hl : l < 32) (hj : j < 32) :
    (g.dropE n l).vreg r j = if g.hvAt n l = true ∧ r = 4 * n + 3 ∧ j = l then g.vreg r j / 2 * 2 else g.vreg r j := by
  unfold Gang.dropE
  split
  · rename_i h
    unfold Gang.vreg
    rw [look_put]
    by_cases hk : r = 4 * n + 3 ∧ j = l
    · obtain ⟨rfl, rfl⟩ := hk
      rw [if_pos rfl, if_pos ⟨h, rfl, rfl⟩, toNat_clear_bit0]
    · rw [if_neg (by omega), if_neg (fun c => hk c.2)]
  · rename_i h
    rw [if_neg (fun c => h c.1)]

/-! ### A write of one register -/

theorem Gang.vreg_setV (g : Gang) (n l x r j : Nat) (hl : l < 32) (hj : j < 32) :
    (g.setV n l x).vreg r j = if r = n ∧ j = l then x % 2 ^ 32 else g.vreg r j := by
  unfold Gang.setV Gang.vreg
  rw [look_put]
  by_cases hk : r = n ∧ j = l
  · obtain ⟨rfl, rfl⟩ := hk; rw [if_pos rfl, if_pos ⟨rfl, rfl⟩, BitVec.toNat_ofNat]
  · rw [if_neg (by omega), if_neg hk]

@[simp] theorem Gang.hvAt_setV (g : Gang) (n l x k j : Nat) : (g.setV n l x).hvAt k j = g.hvAt k j := rfl

theorem State.writeV_gang (s : State) (gid r l x : Nat) (held : Bool) (h : (find s.gangs gid).isSome) :
    (s.writeV gid r l x held).gang gid = ((s.gang gid).dropE (r / 4) l).setV r l (if held && r % 4 == 3 then x / 2 * 2 else x) := by
  unfold State.writeV
  dsimp only
  rw [State.gang_modGang _ _ _ (by rw [State.releaseE_found]; exact h), State.releaseE_gang _ _ _ _ h]

theorem State.writeV_gang_ne (s : State) (gid r l x j : Nat) (held : Bool) (h : j ≠ gid) :
    (s.writeV gid r l x held).gang j = s.gang j := by
  unfold State.writeV
  dsimp only
  rw [State.gang_modGang_ne _ _ _ _ (Ne.symm h), State.releaseE_gang_ne _ _ _ _ _ h]

theorem State.writeV_found (s : State) (gid r l x j : Nat) (held : Bool) :
    (find (s.writeV gid r l x held).gangs j).isSome = (find s.gangs j).isSome := by
  unfold State.writeV
  dsimp only
  rw [State.modGang_gangs, find_alter_isSome, State.releaseE_found]

theorem State.writeV_crewFound (s : State) (gid r l x j : Nat) (held : Bool) :
    (find (s.writeV gid r l x held).crews j).isSome = (find s.crews j).isSome := State.releaseE_crewFound _ _ _ _ _

theorem State.writeV_rest (s : State) (gid r l x : Nat) (held : Bool) : s.writeV gid r l x held =
    { s with gangs := (s.writeV gid r l x held).gangs, crews := (s.writeV gid r l x held).crews
             mem := (s.writeV gid r l x held).mem, lineKeys := (s.writeV gid r l x held).lineKeys
             poison := (s.writeV gid r l x held).poison } := by
  unfold State.writeV
  dsimp only
  rw [State.releaseE_rest]
  rfl

theorem State.writeV_crew (s : State) (gid r l x j : Nat) (held : Bool) :
    ((s.writeV gid r l x held).crew j).sameButCaddy (s.crew j) := State.releaseE_crew s gid (r / 4) l j

theorem State.writeV_crew_ne (s : State) (gid r l x j : Nat) (held : Bool) (h : j ≠ (s.gang gid).crew) :
    (s.writeV gid r l x held).crew j = s.crew j := State.releaseE_crew_ne s gid (r / 4) l j h

theorem State.writeV_clean (s : State) (gid r l x : Nat) (held : Bool) (h : (s.gang gid).hvAt (r / 4) l = false) :
    s.writeV gid r l x held = s.modGang gid fun g => g.setV r l (if held && r % 4 == 3 then x / 2 * 2 else x) := by
  unfold State.writeV
  rw [State.releaseE_none _ _ _ _ h]

/-! ### Releases read nothing a register write changes -/

/-- A state with other gangs. -/
def State.withGangs (s : State) (G : List (Nat × Gang)) : State := { s with gangs := G }

theorem State.modGang_eq (s : State) (gid : Nat) (φ : Gang → Gang) : s.modGang gid φ = s.withGangs (alter s.gangs gid φ) := rfl

theorem State.writePlaces_withGangs (s : State) (G : List (Nat × Gang)) (ps : List (Place × Nat)) (b : List Byte) :
    (s.withGangs G).writePlaces ps b = (s.writePlaces ps b).withGangs G := by
  induction ps generalizing s b with
  | nil => rfl
  | cons p r ih => exact ih (s.writeAt p.1 (b.take p.2)) (b.drop p.2)

theorem State.writeVa_withGangs (s : State) (G : List (Nat × Gang)) (l va : Nat) (b : List Byte) :
    (s.withGangs G).writeVa l va b = (s.writeVa l va b).map fun t => t.withGangs G := by
  unfold State.writeVa
  rw [show (s.withGangs G).placesOf l .write va b.length = s.placesOf l .write va b.length from rfl]
  cases s.placesOf l .write va b.length with
  | error f => rfl
  | ok ps => exact congrArg Except.ok (State.writePlaces_withGangs s G ps b)

theorem State.spillWrite_withGangs (s : State) (G : List (Nat × Gang)) (c i : Nat) :
    (s.withGangs G).spillWrite c i = (s.spillWrite c i).withGangs G := by
  have h := State.writeVa_withGangs s G (s.crew c).layer (s.spillAddr c i) ((s.crew c).entryBytes i)
  unfold State.spillWrite
  dsimp only
  rw [show (s.withGangs G).crew c = s.crew c from rfl, show (s.withGangs G).spillAddr c i = s.spillAddr c i from rfl, h]
  cases s.writeVa (s.crew c).layer (s.spillAddr c i) ((s.crew c).entryBytes i) <;> rfl

theorem State.modNode_withGangs (s : State) (G : List (Nat × Gang)) (c i : Nat) (f : Node → Node) :
    (s.withGangs G).modNode c i f = (s.modNode c i f).withGangs G := by
  have h := State.spillWrite_withGangs (s.modCaddy c fun d => { d with nodes := alter d.nodes i f }) G c i
  unfold State.modNode State.spillTouch
  rw [show (s.withGangs G).modCaddy c (fun d => { d with nodes := alter d.nodes i f }) =
    (s.modCaddy c fun d => { d with nodes := alter d.nodes i f }).withGangs G from rfl]
  generalize s.modCaddy c (fun d => { d with nodes := alter d.nodes i f }) = t at h ⊢
  rw [show (t.withGangs G).crew c = t.crew c from rfl]
  split
  · rfl
  · exact h

/-- State t differs from r in its gangs alone, and its gang holds the same references, to the same nodes. -/
structure SameRefs (gid : Nat) (t r : State) : Prop where
  rest : t = r.withGangs t.gangs
  found : (find t.gangs gid).isSome = true ∧ (find r.gangs gid).isSome = true
  crew : (t.gang gid).crew = (r.gang gid).crew
  hv : (t.gang gid).hv = (r.gang gid).hv
  ix : ∀ n l, l < 32 → (t.gang gid).hvAt n l = true → (t.gang gid).handleIx n l = (r.gang gid).handleIx n l

theorem SameRefs.refl {gid : Nat} {s : State} (h : (find s.gangs gid).isSome = true) : SameRefs gid s s :=
  ⟨rfl, ⟨h, h⟩, rfl, rfl, fun _ _ _ _ => rfl⟩

theorem Gang.handleIx_dropE (g : Gang) (n l k j : Nat) (hl : l < 32) (hj : j < 32) : (g.dropE n l).handleIx k j = g.handleIx k j := by
  unfold Gang.dropE Gang.handleIx
  split
  · dsimp only; rw [look_put, if_neg (by omega)]
  · rfl

theorem State.releaseE_withGangs {t r : State} {gid n l : Nat} (h : t = r.withGangs t.gangs) (hh : (t.gang gid).hvAt n l = (r.gang gid).hvAt n l)
    (hc : (t.gang gid).crew = (r.gang gid).crew) (hx : (t.gang gid).hvAt n l = true → (t.gang gid).handleIx n l = (r.gang gid).handleIx n l) :
    t.releaseE gid n l = (r.releaseE gid n l).withGangs (t.releaseE gid n l).gangs := by
  by_cases ht : (t.gang gid).hvAt n l = true
  · unfold State.releaseE
    dsimp only
    rw [if_pos ht, if_pos (hh ▸ ht), hx ht, hc]
    unfold State.release
    rw [State.modGang_eq, State.modGang_eq, State.modNode_withGangs, State.modNode_withGangs]
    generalize alter t.gangs gid _ = G
    rw [h, show (r.withGangs t.gangs).modNode _ _ _ = _ from State.modNode_withGangs _ _ _ _ _]
    rfl
  · rw [State.releaseE_none t gid n l (by simpa using ht), State.releaseE_none r gid n l (by rw [← hh]; simpa using ht)]
    exact h

theorem SameRefs.releaseE {gid : Nat} {t r : State} (h : SameRefs gid t r) (n l : Nat) (hl : l < 32) :
    SameRefs gid (t.releaseE gid n l) (r.releaseE gid n l) := by
  have hat : (t.gang gid).hvAt n l = (r.gang gid).hvAt n l := by unfold Gang.hvAt; rw [h.hv]
  refine ⟨State.releaseE_withGangs h.rest hat h.crew (h.ix n l hl),
    ⟨(State.releaseE_found t gid n l gid).trans h.found.1, (State.releaseE_found r gid n l gid).trans h.found.2⟩, ?_, ?_, ?_⟩ <;>
    rw [State.releaseE_gang t gid n l h.found.1, State.releaseE_gang r gid n l h.found.2]
  · rw [Gang.dropE_crew, Gang.dropE_crew, h.crew]
  · unfold Gang.dropE
    rw [hat]
    split
    · dsimp only; rw [h.hv]
    · exact h.hv
  · intro k j hj hk
    rw [Gang.handleIx_dropE _ _ _ _ _ hl hj, Gang.handleIx_dropE _ _ _ _ _ hl hj]
    refine h.ix k j hj ?_
    rw [Gang.hvAt_dropE _ _ _ _ _ hl hj] at hk
    simp only [Bool.and_eq_true] at hk
    exact hk.1

theorem SameRefs.writeV {gid : Nat} {t r : State} (h : SameRefs gid t r) (d l x : Nat) (held : Bool) (hl : l < 32) :
    SameRefs gid (t.writeV gid d l x held) (r.releaseE gid (d / 4) l) := by
  have k := h.releaseE (d / 4) l hl
  have hd : ((t.releaseE gid (d / 4) l).gang gid).hvAt (d / 4) l = false := by
    rw [State.releaseE_gang t gid (d / 4) l h.found.1, Gang.hvAt_dropE _ _ _ _ _ hl hl]; simp
  unfold State.writeV
  dsimp only
  generalize t.releaseE gid (d / 4) l = t' at k hd ⊢
  generalize (if held && d % 4 == 3 then x / 2 * 2 else x) = y
  have hg := State.gang_modGang t' gid (fun g => g.setV d l y) k.found.1
  refine ⟨?_, ⟨(find_alter_isSome _ _ _ _).trans k.found.1, k.found.2⟩, ?_, ?_, ?_⟩
  · have e := congrArg (fun w : State => w.withGangs (alter t'.gangs gid fun g => g.setV d l y)) k.rest
    exact e
  · rw [hg]; exact k.crew
  · rw [hg]; exact k.hv
  · intro n j hj hn
    rw [hg] at hn ⊢
    rw [Gang.hvAt_setV] at hn
    rw [← k.ix n j hj hn]
    unfold Gang.setV Gang.handleIx
    dsimp only
    rw [look_put, if_neg]
    intro hc
    have h2 : l = j := by omega
    have h3 : d / 4 = n := by omega
    subst h2
    rw [h3] at hd
    rw [hd] at hn
    cases hn

/-- A write of registers lane by lane does what the releases alone do to all but gangs, and to the gang's references. -/
theorem SameRefs.writeLanes {gid : Nat} {t r : State} (h : SameRefs gid t r) (d n : Nat) (ls : List Nat) (f : Nat → Nat) (hl : ∀ l ∈ ls, l < 32) :
    SameRefs gid (ls.foldl (fun t l => t.writeVs gid d n l (f l)) t)
      (ls.foldl (fun r l => (List.range n).foldl (fun r i => r.releaseE gid ((d + i) / 4) l) r) r) := by
  induction ls generalizing t r with
  | nil => exact h
  | cons l q ih =>
    refine ih ?_ fun k hk => hl k (List.mem_cons_of_mem _ hk)
    replace hl := hl l (List.mem_cons_self ..)
    unfold State.writeVs
    dsimp only
    generalize (List.range n).map (fun i => (t.gang gid).hvAt ((d + i) / 4) l) = held
    generalize List.range n = is
    clear ih
    induction is generalizing t r with
    | nil => exact h
    | cons i p ih => exact ih (h.writeV (d + i) l _ _ hl)

/-- What two such states have in common besides. -/
theorem SameRefs.store {gid : Nat} {t r : State} (h : SameRefs gid t r) (c : Nat) :
    t.mem = r.mem ∧ t.lineKeys = r.lineKeys ∧ t.poison = r.poison ∧ (t.crew c).caddy = (r.crew c).caddy := by
  rw [h.rest]
  exact ⟨rfl, rfl, rfl, rfl⟩

end Sys2Proof.Machine
end

