-- ==== Sys2Proof/Laws/Results.lean ====
section
/-! SUPPORT. What an instruction's result does to registers, said once for every destination (spec/02_formats.md R41, R54
to R60). -/

namespace Sys2Proof.Machine

/-! ### The words of one lane -/

/-- What `writeVs` makes of a gang. -/
def Gang.putWords (g : Gang) (r n l x : Nat) : Gang :=
  (List.range n).foldl (fun a i => (a.dropE ((r + i) / 4) l).setV (r + i) l
    (if g.hvAt ((r + i) / 4) l && (r + i) % 4 == 3 then x / 2 ^ (32 * i) % 2 ^ 32 / 2 * 2 else x / 2 ^ (32 * i) % 2 ^ 32)) g

theorem touches_iff (r n k : Nat) : touches r n k = true ↔ 0 < n ∧ r ≤ 4 * k + 3 ∧ 4 * k < r + n := by
  simp [touches, and_assoc]

theorem touches_succ (r n k : Nat) : touches r (n + 1) k = (touches r n k || decide ((r + n) / 4 = k)) := by
  rw [Bool.eq_iff_iff, Bool.or_eq_true, touches_iff, touches_iff, decide_eq_true_eq]
  omega

theorem Gang.putWords_succ (g : Gang) (r n l x : Nat) : g.putWords r (n + 1) l x =
    ((g.putWords r n l x).dropE ((r + n) / 4) l).setV (r + n) l
      (if g.hvAt ((r + n) / 4) l && (r + n) % 4 == 3 then x / 2 ^ (32 * n) % 2 ^ 32 / 2 * 2 else x / 2 ^ (32 * n) % 2 ^ 32) := by
  unfold Gang.putWords
  rw [List.range_succ, List.foldl_append]
  rfl

theorem Gang.hvAt_putWords (g : Gang) (r n l x k j : Nat) (hl : l < 32) (hj : j < 32) :
    (g.putWords r n l x).hvAt k j = (g.hvAt k j && !(decide (l = j) && touches r n k)) := by
  induction n with
  | zero =>
    have : touches r 0 k = false := by simp [touches]
    rw [this]; simp [Gang.putWords]
  | succ n ih =>
    rw [Gang.putWords_succ, Gang.hvAt_setV, Gang.hvAt_dropE _ _ _ _ _ hl hj, ih, touches_succ]
    cases g.hvAt k j <;> cases touches r n k <;> cases decide ((r + n) / 4 = k) <;> cases decide (l = j) <;> rfl

/-- The words stand in their registers; HV of a released reference is bit 0 of a fourth word (R60). -/
theorem Gang.vreg_putWords (g : Gang) (r n l x k j : Nat) (hl : l < 32) (hj : j < 32) :
    (g.putWords r n l x).vreg k j =
      if l = j then
        if r ≤ k ∧ k < r + n then
          if k % 4 = 3 ∧ g.hvAt (k / 4) j = true then x / 2 ^ (32 * (k - r)) % 2 ^ 32 / 2 * 2 else x / 2 ^ (32 * (k - r)) % 2 ^ 32
        else if k % 4 = 3 ∧ touches r n (k / 4) = true ∧ g.hvAt (k / 4) j = true then g.vreg k j / 2 * 2
        else g.vreg k j
      else g.vreg k j := by
  induction n with
  | zero =>
    have : touches r 0 (k / 4) = false := by simp [touches]
    simp only [this, Nat.add_zero]
    rw [if_neg (show ¬ (r ≤ k ∧ k < r) by omega)]
    simp [Gang.putWords]
  | succ n ih =>
    have hw : x / 2 ^ (32 * n) % 2 ^ 32 < 2 ^ 32 := Nat.mod_lt _ (by decide)
    rw [Gang.putWords_succ, Gang.vreg_setV _ _ _ _ _ _ hl hj, Gang.vreg_dropE _ _ _ _ _ hl hj, ih,
      Gang.hvAt_putWords _ _ _ _ _ _ _ hl hl, touches_succ]
    by_cases hlj : l = j
    · subst hlj
      simp only [if_true, decide_true, Bool.true_and, and_true]
      by_cases hk : k = r + n
      · subst hk
        rw [if_pos rfl, if_pos (show r ≤ r + n ∧ r + n < r + (n + 1) by omega), Nat.add_sub_cancel_left]
        by_cases hh : (r + n) % 4 = 3 ∧ g.hvAt ((r + n) / 4) l = true
        · rw [if_pos hh, if_pos (by simp [hh.1, hh.2]), Nat.mod_eq_of_lt (by omega)]
        · rw [if_neg hh, if_neg (by simpa [and_comm] using hh), Nat.mod_eq_of_lt hw]
      · rw [if_neg hk]
        by_cases hin : r ≤ k ∧ k < r + n
        · rw [if_pos hin, if_pos (show r ≤ k ∧ k < r + (n + 1) by omega)]
          rw [if_neg]
          rintro ⟨-, h4, -⟩
          omega
        · rw [if_neg hin, if_neg (show ¬ (r ≤ k ∧ k < r + (n + 1)) by omega)]
          by_cases hq : k = 4 * ((r + n) / 4) + 3
          · have hk4 : k / 4 = (r + n) / 4 := by omega
            have hk3 : k % 4 = 3 := by omega
            cases hhv : g.hvAt ((r + n) / 4) l
            · rw [if_neg (by simp), hk4, hhv]
              simp
            · cases ht : touches r n ((r + n) / 4)
              · rw [if_pos ⟨by simp, hq⟩, hk4, ht, hhv]
                simp [hk3]
              · rw [if_neg (by simp), hk4, ht, hhv]
                simp [hk3]
          · rw [if_neg (fun c => hq c.2)]
            by_cases hk3 : k % 4 = 3
            · have : (r + n) / 4 ≠ k / 4 := by omega
              simp [this]
            · simp [hk3]
    · rw [if_neg (fun c => hlj c.2.symm), if_neg (fun c => hlj c.2.2.symm), if_neg hlj, if_neg hlj]

theorem Gang.putWords_rest (g : Gang) (r n l x : Nat) :
    g.putWords r n l x = { g with v := (g.putWords r n l x).v, hv := (g.putWords r n l x).hv } := by
  induction n with
  | zero => rfl
  | succ n ih =>
    rw [Gang.putWords_succ, Gang.dropE_rest, ih]
    rfl

/-! ### Writes of v registers as changes of the state -/

/-- What a write of v registers can change: its gang's v and e registers, the caddy of the gang's crew, and the memory of
that caddy's spill entries. -/
structure RegWrite (gid : Nat) (s t : State) : Prop where
  rest : t = { s with gangs := t.gangs, crews := t.crews, mem := t.mem, lineKeys := t.lineKeys, poison := t.poison }
  gangs : ∀ j, j ≠ gid → t.gang j = s.gang j
  gang : t.gang gid = { s.gang gid with v := (t.gang gid).v, hv := (t.gang gid).hv }
  found : ∀ j, (find t.gangs j).isSome = (find s.gangs j).isSome
  crewFound : ∀ j, (find t.crews j).isSome = (find s.crews j).isSome
  crew : ∀ j, (t.crew j).sameButCaddy (s.crew j)
  crews : ∀ j, j ≠ (s.gang gid).crew → t.crew j = s.crew j

theorem RegWrite.refl (gid : Nat) (s : State) : RegWrite gid s s :=
  ⟨rfl, fun _ _ => rfl, rfl, fun _ => rfl, fun _ => rfl, fun _ => rfl, fun _ _ => rfl⟩

theorem RegWrite.owner {gid : Nat} {s t : State} (h : RegWrite gid s t) : (t.gang gid).crew = (s.gang gid).crew := by
  rw [h.gang]

theorem RegWrite.trans {gid : Nat} {s t u : State} (h : RegWrite gid s t) (k : RegWrite gid t u) : RegWrite gid s u where
  rest := by rw [k.rest, h.rest]
  gangs := fun j hj => (k.gangs j hj).trans (h.gangs j hj)
  gang := by rw [k.gang, h.gang]
  found := fun j => (k.found j).trans (h.found j)
  crewFound := fun j => (k.crewFound j).trans (h.crewFound j)
  crew := fun j => Crew.sameButCaddy_trans (k.crew j) (h.crew j)
  crews := fun j hj => (k.crews j (by rw [h.owner]; exact hj)).trans (h.crews j hj)

theorem RegWrite.foldl {α : Type} {gid : Nat} {f : State → α → State} (hf : ∀ s a, (find s.gangs gid).isSome → RegWrite gid s (f s a))
    (l : List α) (s : State) (h : (find s.gangs gid).isSome) : RegWrite gid s (l.foldl f s) := by
  induction l generalizing s with
  | nil => exact RegWrite.refl gid s
  | cons a r ih =>
    have h1 := hf s a h
    exact h1.trans (ih _ (by rw [h1.found]; exact h))

theorem State.writeV_regWrite (s : State) (gid r l x : Nat) (held : Bool) (h : (find s.gangs gid).isSome) :
    RegWrite gid s (s.writeV gid r l x held) where
  rest := State.writeV_rest s gid r l x held
  gangs := fun j hj => State.writeV_gang_ne s gid r l x j held hj
  gang := by rw [State.writeV_gang _ _ _ _ _ _ h, Gang.dropE_rest]; rfl
  found := fun j => State.writeV_found s gid r l x j held
  crewFound := fun j => State.writeV_crewFound s gid r l x j held
  crew := fun j => State.writeV_crew s gid r l x j held
  crews := fun j hj => State.writeV_crew_ne s gid r l x j held hj

theorem State.writeVs_regWrite (s : State) (gid r n l x : Nat) (h : (find s.gangs gid).isSome) :
    RegWrite gid s (s.writeVs gid r n l x) := by
  unfold State.writeVs
  exact RegWrite.foldl (fun s _ hs => State.writeV_regWrite s gid _ l _ _ hs) _ s h

theorem State.writeVs_gang (s : State) (gid r n l x : Nat) (h : (find s.gangs gid).isSome) :
    (s.writeVs gid r n l x).gang gid = (s.gang gid).putWords r n l x := by
  have key : ∀ m, m ≤ n → ((List.range m).foldl (fun t i => t.writeV gid (r + i) l (x / 2 ^ (32 * i) % 2 ^ 32)
      (((List.range n).map fun i => (s.gang gid).hvAt ((r + i) / 4) l).getD i false)) s).gang gid = (s.gang gid).putWords r m l x := by
    intro m
    induction m with
    | zero => intro _; rfl
    | succ m ih =>
      intro hm
      rw [List.range_succ, List.foldl_append, Gang.putWords_succ, ← ih (by omega)]
      have hg : (((List.range n).map fun i => (s.gang gid).hvAt ((r + i) / 4) l).getD m false) = (s.gang gid).hvAt ((r + m) / 4) l := by
        rw [List.getD_eq_getElem _ _ (by simpa using hm)]
        simp
      rw [List.foldl_cons, List.foldl_nil, hg]
      exact State.writeV_gang _ _ _ _ _ _ (by
        rw [(RegWrite.foldl (fun s _ hs => State.writeV_regWrite s gid _ l _ _ hs) _ s h).found]; exact h)
  exact key n (Nat.le_refl n)

/-- Without a reference in the registers written, only the gang changes. -/
theorem State.writeVs_clean (s : State) (gid r n l x : Nat) (h : (find s.gangs gid).isSome)
    (hc : ∀ k, touches r n k = true → (s.gang gid).hvAt k l = false) :
    (s.writeVs gid r n l x).mem = s.mem ∧ (s.writeVs gid r n l x).lineKeys = s.lineKeys ∧ (s.writeVs gid r n l x).poison = s.poison ∧
      (s.writeVs gid r n l x).crews = s.crews := by
  unfold State.writeVs
  dsimp only
  generalize (List.range n).map (fun i => (s.gang gid).hvAt ((r + i) / 4) l) = held
  have key : ∀ m, m ≤ n → ∀ t, t = (List.range m).foldl (fun t i => t.writeV gid (r + i) l (x / 2 ^ (32 * i) % 2 ^ 32)
      (held.getD i false)) s → t.mem = s.mem ∧ t.lineKeys = s.lineKeys ∧ t.poison = s.poison ∧ t.crews = s.crews ∧
      (find t.gangs gid).isSome = true ∧ ∀ k, touches r n k = true → (t.gang gid).hvAt k l = false := by
    intro m
    induction m with
    | zero => rintro - t rfl; exact ⟨rfl, rfl, rfl, rfl, h, hc⟩
    | succ m ih =>
      rintro hm t rfl
      rw [List.range_succ, List.foldl_append, List.foldl_cons, List.foldl_nil]
      obtain ⟨h1, h2, h3, h6, h4, h5⟩ := ih (by omega) _ rfl
      generalize (List.range m).foldl _ s = u at *
      have hq : (u.gang gid).hvAt ((r + m) / 4) l = false := h5 _ ((touches_iff _ _ _).mpr (by omega))
      rw [State.writeV_clean _ _ _ _ _ _ hq]
      refine ⟨h1, h2, h3, h6, by rw [State.modGang_gangs, find_alter_isSome]; exact h4, fun k hk => ?_⟩
      rw [State.gang_modGang _ _ _ h4]
      exact h5 k hk
  obtain ⟨h1, h2, h3, h4, -⟩ := key n (Nat.le_refl n) _ rfl
  exact ⟨h1, h2, h3, h4⟩

/-! ### Over lanes -/

/-- The words of a list of lanes. -/
def Gang.putLanes (g : Gang) (ls : List Nat) (r n : Nat) (f : Nat → Nat) : Gang := ls.foldl (fun a l => a.putWords r n l (f l)) g

theorem State.writeLanes_regWrite (s : State) (gid r n : Nat) (ls : List Nat) (f : Nat → Nat) (h : (find s.gangs gid).isSome) :
    RegWrite gid s (ls.foldl (fun t l => t.writeVs gid r n l (f l)) s) :=
  RegWrite.foldl (fun s l hs => State.writeVs_regWrite s gid r n l (f l) hs) ls s h

theorem State.writeLanes_gang (s : State) (gid r n : Nat) (ls : List Nat) (f : Nat → Nat) (h : (find s.gangs gid).isSome) :
    (ls.foldl (fun t l => t.writeVs gid r n l (f l)) s).gang gid = (s.gang gid).putLanes ls r n f := by
  induction ls generalizing s with
  | nil => rfl
  | cons a l ih =>
    rw [List.foldl_cons, ih _ (by rw [(State.writeVs_regWrite s gid r n a (f a) h).found]; exact h), State.writeVs_gang _ _ _ _ _ _ h]
    rfl

theorem Gang.hvAt_putLanes (g : Gang) (ls : List Nat) (r n : Nat) (f : Nat → Nat) (k j : Nat) (hls : ∀ l ∈ ls, l < 32) (hj : j < 32) :
    (g.putLanes ls r n f).hvAt k j = (g.hvAt k j && !(decide (j ∈ ls) && touches r n k)) := by
  induction ls generalizing g with
  | nil => simp [Gang.putLanes]
  | cons a l ih =>
    show ((g.putWords r n a (f a)).putLanes l r n f).hvAt k j = _
    rw [ih _ fun x hx => hls x (List.mem_cons_of_mem _ hx), Gang.hvAt_putWords _ _ _ _ _ _ _ (hls a (List.mem_cons_self ..)) hj]
    by_cases haj : a = j
    · subst haj; cases g.hvAt k a <;> cases touches r n k <;> simp
    · cases g.hvAt k j <;> cases touches r n k <;> simp [haj, Ne.symm haj]

theorem Gang.vreg_putLanes (g : Gang) (ls : List Nat) (r n : Nat) (f : Nat → Nat) (k j : Nat) (hls : ∀ l ∈ ls, l < 32)
    (hnd : ls.Nodup) (hj : j < 32) :
    (g.putLanes ls r n f).vreg k j =
      if j ∈ ls then
        if r ≤ k ∧ k < r + n then
          if k % 4 = 3 ∧ g.hvAt (k / 4) j = true then f j / 2 ^ (32 * (k - r)) % 2 ^ 32 / 2 * 2 else f j / 2 ^ (32 * (k - r)) % 2 ^ 32
        else if k % 4 = 3 ∧ touches r n (k / 4) = true ∧ g.hvAt (k / 4) j = true then g.vreg k j / 2 * 2
        else g.vreg k j
      else g.vreg k j := by
  induction ls generalizing g with
  | nil => simp [Gang.putLanes]
  | cons a l ih =>
    have ha := hls a (List.mem_cons_self ..)
    obtain ⟨hna, hnd'⟩ := List.nodup_cons.mp hnd
    show ((g.putWords r n a (f a)).putLanes l r n f).vreg k j = _
    rw [ih _ (fun x hx => hls x (List.mem_cons_of_mem _ hx)) hnd', Gang.hvAt_putWords _ _ _ _ _ _ _ ha hj,
      Gang.vreg_putWords _ _ _ _ _ _ _ ha hj]
    by_cases haj : a = j
    · subst haj
      simp only [hna, if_false, List.mem_cons, true_or, if_true]
    · simp [haj, Ne.symm haj]

end Sys2Proof.Machine
end

