-- ==== Sys2Proof/Laws/Issue.lean ====
section
/-! SUPPORT. What issue does, said once: the checks of an instruction that is ready, its pops, the queues, and the writes of
a result (spec/02_formats.md R41, R54 to R60, R66, spec/03_control.md R79, R80). -/

namespace Sys2Proof.Machine

/-! ### Queues -/

/-- What an operation on queues can change. -/
structure QueueMove (gid : Nat) (s t : State) : Prop where
  rest : t = { s with gangs := t.gangs, crews := t.crews, convoys := t.convoys }
  gangs : ∀ j, j ≠ gid → t.gang j = s.gang j
  gang : t.gang gid = { s.gang gid with q24 := (t.gang gid).q24 }
  gangFound : ∀ j, (find t.gangs j).isSome = (find s.gangs j).isSome
  crewFound : ∀ j, (find t.crews j).isSome = (find s.crews j).isSome
  convoyFound : ∀ j, (find t.convoys j).isSome = (find s.convoys j).isSome
  crews : ∀ j, j ≠ (s.gang gid).crew → t.crew j = s.crew j
  crew : t.crew (s.gang gid).crew = { s.crew (s.gang gid).crew with queues := (t.crew (s.gang gid).crew).queues }
  convoys : ∀ j, j ≠ (s.crew (s.gang gid).crew).convoy → t.convoy j = s.convoy j
  convoy : t.convoy (s.crew (s.gang gid).crew).convoy = { s.convoy (s.crew (s.gang gid).crew).convoy with
    queues := (t.convoy (s.crew (s.gang gid).crew).convoy).queues }

theorem QueueMove.refl (gid : Nat) (s : State) : QueueMove gid s s :=
  ⟨rfl, fun _ _ => rfl, rfl, fun _ => rfl, fun _ => rfl, fun _ => rfl, fun _ _ => rfl, rfl, fun _ _ => rfl, rfl⟩

theorem QueueMove.owner {gid : Nat} {s t : State} (h : QueueMove gid s t) : (t.gang gid).crew = (s.gang gid).crew := by
  rw [h.gang]

theorem QueueMove.ownConvoy {gid : Nat} {s t : State} (h : QueueMove gid s t) :
    (t.crew (s.gang gid).crew).convoy = (s.crew (s.gang gid).crew).convoy := by
  rw [h.crew]

theorem QueueMove.trans {gid : Nat} {s t u : State} (h : QueueMove gid s t) (k : QueueMove gid t u) : QueueMove gid s u where
  rest := by rw [k.rest, h.rest]
  gangs := fun j hj => (k.gangs j hj).trans (h.gangs j hj)
  gang := by rw [k.gang, h.gang]
  gangFound := fun j => (k.gangFound j).trans (h.gangFound j)
  crewFound := fun j => (k.crewFound j).trans (h.crewFound j)
  convoyFound := fun j => (k.convoyFound j).trans (h.convoyFound j)
  crews := fun j hj => (k.crews j (by rw [h.owner]; exact hj)).trans (h.crews j hj)
  crew := by
    have := k.crew
    rw [h.owner] at this
    rw [this, h.crew]
  convoys := fun j hj => (k.convoys j (by rw [h.owner, h.ownConvoy]; exact hj)).trans (h.convoys j hj)
  convoy := by
    have := k.convoy
    rw [h.owner, h.ownConvoy] at this
    rw [this, h.convoy]

theorem State.setQueue_move (s : State) (gid q : Nat) (x : List (BitVec 32)) : QueueMove gid s (s.setQueue gid q x) := by
  unfold State.setQueue
  dsimp only
  split
  · refine ⟨rfl, fun j hj => State.gang_modGang_ne _ _ _ _ hj.symm, ?_, fun j => find_alter_isSome _ _ _ _, fun _ => rfl, fun _ => rfl,
      fun _ _ => rfl, rfl, fun _ _ => rfl, rfl⟩
    by_cases h : (find s.gangs gid).isSome
    · rw [State.gang_modGang _ _ _ h]
    · unfold State.gang
      rw [State.modGang_gangs, look_eq_find, look_eq_find, find_alter]
      simp only [Bool.not_eq_true, Option.isSome_eq_false_iff, Option.isNone_iff_eq_none] at h
      simp [h]
  · split
    · refine ⟨rfl, fun _ _ => rfl, rfl, fun _ => rfl, fun _ => rfl, fun j => find_alter_isSome _ _ _ _,
        fun _ _ => rfl, rfl, fun j hj => State.convoy_modConvoy_ne _ _ _ _ hj.symm, ?_⟩
      by_cases h : (find s.convoys (s.crew (s.gang gid).crew).convoy).isSome
      · rw [State.convoy_modConvoy _ _ _ h]
      · unfold State.convoy
        rw [State.modConvoy_convoys, look_eq_find, look_eq_find, find_alter]
        simp only [Bool.not_eq_true, Option.isSome_eq_false_iff, Option.isNone_iff_eq_none] at h
        simp [h]
    · refine ⟨rfl, fun _ _ => rfl, rfl, fun _ => rfl, fun j => find_alter_isSome _ _ _ _, fun _ => rfl,
        fun j hj => State.crew_modCrew_ne _ _ _ _ hj.symm, ?_, fun _ _ => rfl, rfl⟩
      by_cases h : (find s.crews (s.gang gid).crew).isSome
      · rw [State.crew_modCrew _ _ _ h]
      · unfold State.crew
        rw [State.modCrew_crews, look_eq_find, look_eq_find, find_alter]
        simp only [Bool.not_eq_true, Option.isSome_eq_false_iff, Option.isNone_iff_eq_none] at h
        simp [h]

/-- A queue of the gang stands in a place that exists. -/
structure Homed (s : State) (gid q : Nat) : Prop where
  gang : (find s.gangs gid).isSome
  crew : (find s.crews (s.gang gid).crew).isSome
  convoy : 16 ≤ q → q < 24 → (find s.convoys (s.crew (s.gang gid).crew).convoy).isSome

theorem Homed.move {s t : State} {gid q : Nat} (h : Homed s gid q) (m : QueueMove gid s t) : Homed t gid q where
  gang := by rw [m.gangFound]; exact h.gang
  crew := by rw [m.crewFound, m.owner]; exact h.crew
  convoy := fun a b => by rw [m.convoyFound, m.owner, m.ownConvoy]; exact h.convoy a b

theorem State.queue_setQueue (s : State) (gid q j : Nat) (x : List (BitVec 32)) (h : Homed s gid q) :
    (s.setQueue gid q x).queue gid j = if j = q then x else s.queue gid j := by
  obtain ⟨hg, hc, hv⟩ := h
  unfold State.setQueue State.queue
  dsimp only
  by_cases h24 : q = 24
  · subst h24
    simp only [if_true, State.gang_modGang _ _ _ hg, State.crew_modGang, State.convoy_modGang]
    by_cases hj : j = 24 <;> simp [hj]
  · rw [if_neg h24]
    by_cases hm : 16 ≤ q ∧ q < 24
    · rw [if_pos hm]
      have hv := hv hm.1 hm.2
      simp only [State.gang_modConvoy, State.crew_modConvoy, State.convoy_modConvoy _ _ _ hv, look_put]
      by_cases hj : j = q
      · subst hj; simp [h24, hm]
      · simp [hj, Ne.symm hj]
    · rw [if_neg hm]
      simp only [State.gang_modCrew, State.convoy_modCrew, State.crew_modCrew _ _ _ hc, look_put]
      by_cases hj : j = q
      · subst hj; simp [h24, hm]
      · simp [hj, Ne.symm hj]

theorem State.popSrcs_move (s : State) (gid cnt : Nat) (srcs : List (Nat × Nat)) : QueueMove gid s (s.popSrcs gid cnt srcs) := by
  unfold State.popSrcs
  induction srcs generalizing s with
  | nil => exact QueueMove.refl gid s
  | cons p r ih =>
    rw [List.foldl_cons]
    split
    · exact (State.setQueue_move s gid _ _).trans (ih _)
    · exact ih s

theorem qNeed_cons (p : Nat × Nat) (r : List (Nat × Nat)) (k cnt : Nat) :
    qNeed (p :: r) k cnt = (if p.1 = k then p.2 * cnt else 0) + qNeed r k cnt := by
  unfold qNeed
  by_cases h : p.1 = k <;> simp [h]

/-- The pops of an instruction take the front of each queue (R57). -/
theorem State.queue_popSrcs (s : State) (gid cnt : Nat) (srcs : List (Nat × Nat)) (j : Nat)
    (h : ∀ p ∈ srcs, 224 ≤ p.1 → Homed s gid (p.1 - 224)) :
    (s.popSrcs gid cnt srcs).queue gid j = (s.queue gid j).drop (qNeed srcs (j + 224) cnt) := by
  unfold State.popSrcs
  induction srcs generalizing s with
  | nil => simp [qNeed]
  | cons p r ih =>
    rw [List.foldl_cons, qNeed_cons]
    by_cases hp : 224 ≤ p.1
    · rw [if_pos hp]
      have hh := h p (List.mem_cons_self ..) hp
      unfold State.pop at ih ⊢
      rw [ih _ fun x hx hx' => (h x (List.mem_cons_of_mem _ hx) hx').move (State.setQueue_move s gid _ _)]
      rw [State.queue_setQueue _ _ _ _ _ hh]
      by_cases hj : j = p.1 - 224
      · rw [if_pos hj, if_pos (by omega), List.drop_drop, hj]
      · rw [if_neg hj, if_neg (by omega), Nat.zero_add]
    · rw [if_neg hp, if_neg (by omega), Nat.zero_add]
      exact ih s fun x hx => h x (List.mem_cons_of_mem _ hx)

/-! ### The issue of an instruction that is ready -/

theorem Ready.gate {i : Instr} {s : State} {u : Issue} (h : Ready i s u) : s.gate i u = .go := by
  unfold State.gate
  have hq := h.queues
  have hd := h.dests
  have hr := h.room
  have ho := h.own
  have hp : (i.info.privileged && !s.segmentSys (s.layerOf u.gang) (s.viaOf (s.gang u.gang).crew) u.pc) = false := by
    cases hi : i.info.privileged
    · rfl
    · rw [h.privileged hi]; rfl
  have hl := h.level
  dsimp only
  rw [h.legal, h.task, h.named, h.eret, hp, if_neg (by simp), if_neg (by simp)]
  split
  · next c hc => exact absurd (hc.symm.trans hl) (by simp)
  rw [h.range, h.depth]
  rw [if_neg (by simp), if_neg (by rw [decide_eq_false h.lanes]; simp), if_neg (by simp)]
  have hact : (s.ctx i u).act = (s.gang u.gang).active i.info u.run := rfl
  rw [hq, hd, hr, ho]
  rfl

/-- What the issue of an instruction that is ready comes to: its effect on the state past its pops. -/
theorem Ready.issue {i : Instr} {s : State} {u : Issue} (h : Ready i s u) (eff : Ctx → State → Effect) :
    issueInstr i s eff = match eff (s.ctx i u) (s.issued i u) with
      | .ok t => .next t
      | .trap cause faddr lane => .next (s.trapAt u i.len cause (faddr % 2 ^ 64) lane)
      | .soft cause faddr => .next ((s.advance u (s.ctx i u).next).trapAt u i.len cause faddr 255)
      | .wait cause faddr => .next (s.waitFault u.gang u.pc cause faddr) := by
  unfold issueInstr
  rw [h.atIssue]
  dsimp only
  rw [h.gate]
  dsimp only
  rw [if_neg (by simp [h.sound])]
  rfl

theorem Ready.issue_ok {i : Instr} {s : State} {u : Issue} (h : Ready i s u) (f : Ctx → State → State) :
    issueInstr i s (fun c t => .ok (f c t)) = .next (f (s.ctx i u) (s.issued i u)) := h.issue _

/-! ### The state past the issue -/

theorem State.advance_gangs (s : State) (u : Issue) (next : Nat) : (s.advance u next).gangs = alter s.gangs u.gang fun g =>
    { g with threads := g.threads.mapIdx fun l t => if hasLane u.run l then { t with pc := next, count := 0, waity := none } else t
             stepOnce := false, offer := none, fetchWait := g.waitsPast u.pc } := rfl

/-- The instruction moves its run and restarts its crew's watchdog (R79, R80, R455). -/
theorem State.advance_gang (s : State) (u : Issue) (next : Nat) (h : (find s.gangs u.gang).isSome) :
    (s.advance u next).gang u.gang = { s.gang u.gang with
      threads := s.ranThreads u fun _ t => { t with pc := next }
      stepOnce := false, offer := none, fetchWait := (s.gang u.gang).waitsPast u.pc } := by
  unfold State.gang
  rw [State.advance_gangs, look_alter _ _ _ _ _ h, if_pos rfl]
  rfl

theorem State.advance_crew (s : State) (u : Issue) (next : Nat) (hg : (find s.gangs u.gang).isSome)
    (h : (find s.crews (s.gang u.gang).crew).isSome) :
    (s.advance u next).crew (s.crewOf u) = { s.crew (s.crewOf u) with wdog := s.clk } := by
  unfold State.advance State.crewOf
  dsimp only
  rw [State.gang_modGang _ _ _ hg]
  exact State.crew_modCrew _ _ _ h

theorem State.advance_gang_ne (s : State) (u : Issue) (next j : Nat) (h : j ≠ u.gang) : (s.advance u next).gang j = s.gang j :=
  State.gang_modGang_ne _ _ _ _ h.symm

theorem State.advance_crew_ne (s : State) (u : Issue) (next j : Nat) (hg : (find s.gangs u.gang).isSome) (h : j ≠ s.crewOf u) :
    (s.advance u next).crew j = s.crew j := by
  unfold State.advance
  dsimp only
  rw [State.gang_modGang _ _ _ hg]
  exact State.crew_modCrew_ne _ _ _ _ h.symm

theorem State.advance_rest (s : State) (u : Issue) (next : Nat) :
    s.advance u next = { s with gangs := (s.advance u next).gangs, crews := (s.advance u next).crews } := rfl

theorem State.advance_queue (s : State) (u : Issue) (next q : Nat) (hg : (find s.gangs u.gang).isSome)
    (h : (find s.crews (s.gang u.gang).crew).isSome) : (s.advance u next).queue u.gang q = s.queue u.gang q := by
  have hc := State.advance_crew s u next hg h
  unfold State.crewOf at hc
  unfold State.queue
  dsimp only
  rw [State.advance_gang _ _ _ hg]
  dsimp only
  rw [hc]
  rfl

theorem Ready.homed {i : Instr} {s : State} {u : Issue} (h : Ready i s u) {o : Opnd} (ho : o ∈ i.info.opnds) :
    Homed s u.gang (o.reg.toNat - 224) where
  gang := h.gang
  crew := h.crew
  convoy := fun a b => by
    have ht := h.task
    unfold taskOk at ht
    dsimp only at ht
    cases hk : (s.gang u.gang).task with
    | none => exact h.convoy hk
    | some k =>
      rw [hk] at ht
      simp only [Option.isSome_some, if_true, Bool.and_eq_true, List.all_eq_true] at ht
      have hm : ∀ x : List Nat, (i.info.opnds.map fun o => o.reg.toNat) ⊆ x → (∀ r ∈ x, (!(decide (240 ≤ r) && decide (r ≤ 247))) = true) → False := by
        intro x hx hr
        have := hr _ (hx (List.mem_map_of_mem ho))
        simp at this
        omega
      exact (hm _ (by intro r hr; split <;> simp_all) ht.1).elim

/-- The state past the issue, seen from the advance: queues alone. -/
theorem Ready.issued_move {i : Instr} {s : State} {u : Issue} (_ : Ready i s u) :
    QueueMove u.gang (s.advance u (s.ctx i u).next) (s.issued i u) := State.popSrcs_move _ _ _ _

theorem Homed.advance {s : State} {u : Issue} {q : Nat} (h : Homed s u.gang q) (next : Nat) : Homed (s.advance u next) u.gang q where
  gang := by rw [State.advance_gangs, find_alter_isSome]; exact h.gang
  crew := by
    rw [State.advance_gang _ _ _ h.gang]
    show (find (alter s.crews _ _) _).isSome = true
    rw [find_alter_isSome]; exact h.crew
  convoy := fun a b => by
    have hc := State.advance_crew s u next h.gang h.crew
    unfold State.crewOf at hc
    rw [State.advance_gang _ _ _ h.gang]
    dsimp only
    rw [hc]
    exact h.convoy a b

theorem Ready.issued_gang {i : Instr} {s : State} {u : Issue} (h : Ready i s u) :
    (s.issued i u).gang u.gang = { s.gang u.gang with
      threads := (s.moved i u).threads, q24 := ((s.issued i u).gang u.gang).q24
      stepOnce := false, offer := none, fetchWait := (s.gang u.gang).waitsPast u.pc } := by
  have hm := h.issued_move.gang
  rw [State.advance_gang _ _ _ h.gang] at hm
  exact hm

theorem Ready.issued_gang_ne {i : Instr} {s : State} {u : Issue} (h : Ready i s u) (j : Nat) (hj : j ≠ u.gang) :
    (s.issued i u).gang j = s.gang j :=
  (h.issued_move.gangs j hj).trans (State.advance_gang_ne _ _ _ _ hj)

theorem Ready.issued_found {i : Instr} {s : State} {u : Issue} (h : Ready i s u) (j : Nat) :
    (find (s.issued i u).gangs j).isSome = (find s.gangs j).isSome := by
  rw [h.issued_move.gangFound, State.advance_gangs, find_alter_isSome]

theorem Ready.advance_owner {i : Instr} {s : State} {u : Issue} (h : Ready i s u) (next : Nat) :
    ((s.advance u next).gang u.gang).crew = s.crewOf u := by
  rw [State.advance_gang _ _ _ h.gang]; rfl

theorem Ready.issued_crew {i : Instr} {s : State} {u : Issue} (h : Ready i s u) :
    (s.issued i u).crew (s.crewOf u) = { s.crew (s.crewOf u) with
      wdog := s.clk, queues := ((s.issued i u).crew (s.crewOf u)).queues } := by
  have hm := h.issued_move.crew
  rw [h.advance_owner, State.advance_crew _ _ _ h.gang h.crew] at hm
  exact hm

theorem Ready.issued_crew_ne {i : Instr} {s : State} {u : Issue} (h : Ready i s u) (j : Nat) (hj : j ≠ s.crewOf u) :
    (s.issued i u).crew j = s.crew j :=
  (h.issued_move.crews j (by rw [h.advance_owner]; exact hj)).trans (State.advance_crew_ne _ _ _ _ h.gang hj)

theorem Ready.advance_convoyOf {i : Instr} {s : State} {u : Issue} (h : Ready i s u) (next : Nat) :
    ((s.advance u next).crew ((s.advance u next).gang u.gang).crew).convoy = s.convoyAt u := by
  rw [h.advance_owner, State.advance_crew _ _ _ h.gang h.crew]; rfl

theorem Ready.issued_convoy {i : Instr} {s : State} {u : Issue} (h : Ready i s u) :
    (s.issued i u).convoy (s.convoyAt u) = { s.convoy (s.convoyAt u) with
      queues := ((s.issued i u).convoy (s.convoyAt u)).queues } := by
  have hm := h.issued_move.convoy
  rw [h.advance_convoyOf] at hm
  exact hm

theorem Ready.issued_convoy_ne {i : Instr} {s : State} {u : Issue} (h : Ready i s u) (j : Nat) (hj : j ≠ s.convoyAt u) :
    (s.issued i u).convoy j = s.convoy j :=
  h.issued_move.convoys j (by rw [h.advance_convoyOf]; exact hj)

theorem Ready.issued_rest {i : Instr} {s : State} {u : Issue} (h : Ready i s u) :
    s.issued i u = { s with gangs := (s.issued i u).gangs, crews := (s.issued i u).crews, convoys := (s.issued i u).convoys } := by
  have hm := h.issued_move.rest
  rw [State.advance_rest] at hm
  exact hm

theorem Ready.issued_homed {i : Instr} {s : State} {u : Issue} (h : Ready i s u) {o : Opnd} (ho : o ∈ i.info.opnds) :
    Homed (s.issued i u) u.gang (o.reg.toNat - 224) := ((h.homed ho).advance _).move h.issued_move

/-- Each queue loses what the instruction pops (R57). -/
theorem Ready.issued_queue {i : Instr} {s : State} {u : Issue} (h : Ready i s u) (q : Nat) :
    (s.issued i u).queue u.gang q = (s.queue u.gang q).drop (qNeed i.info.srcs (q + 224) (popcount (s.ctx i u).qlanes)) := by
  unfold State.issued
  rw [State.queue_popSrcs, State.advance_queue _ _ _ _ h.gang h.crew]
  · rfl
  · intro p hp hq
    obtain ⟨o, ho, rfl⟩ := List.mem_map.mp hp
    exact (h.homed (List.mem_filter.mp ho).1).advance _

theorem Ready.issued_quiet {i : Instr} {s : State} {u : Issue} (h : Ready i s u) : Quiet s i u (fun _ => []) (s.issued i u) where
  rest := h.issued_rest
  gangs := h.issued_gang_ne
  crews := h.issued_crew_ne
  crew := h.issued_crew
  convoys := h.issued_convoy_ne
  convoy := h.issued_convoy
  queues := fun q _ => by rw [h.issued_queue, List.append_nil]

/-! ### A result in its destination -/

theorem RegWrite.queue {gid : Nat} {s t : State} (h : RegWrite gid s t) (q : Nat) : t.queue gid q = s.queue gid q := by
  have hc := h.crew (s.gang gid).crew
  have hv : ∀ j, t.convoy j = s.convoy j := fun j => by unfold State.convoy; rw [h.rest]
  unfold Crew.sameButCaddy at hc
  unfold State.queue
  dsimp only
  rw [h.owner, h.gang, hv, hc]

theorem Ctx.write_v (c : Ctx) (s : State) (d n : Nat) (f : Nat → Nat) (hd : d < 192) : c.write s d n f =
    (if c.zero then lanes (c.run &&& ~~~ c.act) else []).foldl (fun t l => t.writeVs c.gid d n l 0)
      ((lanes c.act).foldl (fun t l => t.writeVs c.gid d n l (f l)) s) := by
  unfold Ctx.write Ctx.zeroRest
  rw [if_pos hd]
  cases c.zero <;> simp [hd]

theorem State.writeLanes_clean (s : State) (gid r n : Nat) (ls : List Nat) (f : Nat → Nat) (h : (find s.gangs gid).isSome)
    (hl : ∀ l ∈ ls, l < 32) (hc : ∀ l ∈ ls, ∀ k, touches r n k = true → (s.gang gid).hvAt k l = false) :
    (ls.foldl (fun t l => t.writeVs gid r n l (f l)) s).mem = s.mem ∧
    (ls.foldl (fun t l => t.writeVs gid r n l (f l)) s).lineKeys = s.lineKeys ∧
    (ls.foldl (fun t l => t.writeVs gid r n l (f l)) s).poison = s.poison ∧
    (ls.foldl (fun t l => t.writeVs gid r n l (f l)) s).crews = s.crews := by
  induction ls generalizing s with
  | nil => exact ⟨rfl, rfl, rfl, rfl⟩
  | cons a l ih =>
    have ha := hl a (List.mem_cons_self ..)
    obtain ⟨h1, h2, h3, h4⟩ := State.writeVs_clean s gid r n a (f a) h (hc a (List.mem_cons_self ..))
    have hf : (find (s.writeVs gid r n a (f a)).gangs gid).isSome = true := by
      rw [(State.writeVs_regWrite s gid r n a (f a) h).found]; exact h
    obtain ⟨k1, k2, k3, k4⟩ := ih (s.writeVs gid r n a (f a)) hf (fun x hx => hl x (List.mem_cons_of_mem _ hx)) (by
      intro x hx k hk
      rw [State.writeVs_gang _ _ _ _ _ _ h, Gang.hvAt_putWords _ _ _ _ _ _ _ ha (hl x (List.mem_cons_of_mem _ hx)),
        hc x (List.mem_cons_of_mem _ hx) k hk]
      rfl)
    exact ⟨k1.trans h1, k2.trans h2, k3.trans h3, k4.trans h4⟩

theorem Gang.greg_setG (g : Gang) (n x r : Nat) : (g.setG n x).greg r = if n = r then x % 2 ^ 32 else g.greg r := by
  unfold Gang.greg Gang.setG
  dsimp only
  rw [look_put]
  split <;> simp

/-- The words of a g destination (R55, R56). -/
def Gang.putG (g : Gang) (r n x : Nat) : Gang := (List.range n).foldl (fun a i => a.setG (r + i) (x / 2 ^ (32 * i))) g

theorem Gang.putG_succ (g : Gang) (r n x : Nat) : g.putG r (n + 1) x = (g.putG r n x).setG (r + n) (x / 2 ^ (32 * n)) := by
  unfold Gang.putG
  rw [List.range_succ, List.foldl_append]
  rfl

theorem Gang.putG_rest (g : Gang) (r n x : Nat) : g.putG r n x = { g with g := (g.putG r n x).g } := by
  induction n with
  | zero => rfl
  | succ n ih => rw [Gang.putG_succ, ih]; rfl

theorem Gang.greg_putG (g : Gang) (r n x k : Nat) :
    (g.putG r n x).greg k = if r ≤ k ∧ k < r + n then x / 2 ^ (32 * (k - r)) % 2 ^ 32 else g.greg k := by
  induction n with
  | zero => rw [if_neg (by omega)]; rfl
  | succ n ih =>
    rw [Gang.putG_succ, Gang.greg_setG, ih]
    by_cases h : r + n = k
    · subst h; simp
    · rw [if_neg h]
      by_cases h2 : r ≤ k ∧ k < r + n
      · rw [if_pos h2, if_pos (by omega)]
      · rw [if_neg h2, if_neg (by omega)]

theorem State.putG_fold (s : State) (gid r n x : Nat) :
    (List.range n).foldl (fun t i => t.modGang gid fun g => g.setG (r + i) (x / 2 ^ (32 * i))) s
      = s.modGang gid fun g => g.putG r n x := by
  induction n with
  | zero =>
    show s = { s with gangs := alter s.gangs gid fun g => g }
    rw [alter_id]
  | succ n ih =>
    rw [List.range_succ, List.foldl_append, ih, List.foldl_cons, List.foldl_nil]
    unfold State.modGang
    dsimp only
    rw [alter_alter]
    simp only [Gang.putG_succ]

theorem Ctx.write_g (c : Ctx) (s : State) (d n : Nat) (f : Nat → Nat) (h1 : 192 ≤ d) (h2 : d < 224) :
    c.write s d n f = s.modGang c.gid fun g => g.putG (d - 192) n (f c.lane0) := by
  unfold Ctx.write
  rw [if_neg (by omega), if_pos h2, State.putG_fold]

theorem Ctx.write_q (c : Ctx) (s : State) (d n : Nat) (f : Nat → Nat) (h : 224 ≤ d) : c.write s d n f =
    s.setQueue c.gid (d - 224) (s.queue c.gid (d - 224) ++ ((lanes c.qlanes).flatMap fun l => wordsFrom (f l) n).map (BitVec.ofNat 32 ·)) := by
  unfold Ctx.write State.push
  rw [if_neg (by omega), if_neg (by omega)]

theorem Ctx.write_regWrite (c : Ctx) (s : State) (d n : Nat) (f : Nat → Nat) (hd : d < 192) (h : (find s.gangs c.gid).isSome) :
    RegWrite c.gid s (c.write s d n f) := by
  rw [Ctx.write_v _ _ _ _ _ hd]
  have h1 := State.writeLanes_regWrite s c.gid d n (lanes c.act) f h
  exact h1.trans (State.writeLanes_regWrite _ c.gid d n _ (fun _ => 0) (by rw [h1.found]; exact h))

theorem Ctx.write_gang (c : Ctx) (s : State) (d n : Nat) (f : Nat → Nat) (hd : d < 192) (h : (find s.gangs c.gid).isSome) :
    (c.write s d n f).gang c.gid = ((s.gang c.gid).putLanes (lanes c.act) d n f).putLanes
      (if c.zero then lanes (c.run &&& ~~~ c.act) else []) d n fun _ => 0 := by
  rw [Ctx.write_v _ _ _ _ _ hd]
  have h1 := State.writeLanes_regWrite s c.gid d n (lanes c.act) f h
  rw [State.writeLanes_gang _ _ _ _ _ _ (by rw [h1.found]; exact h), State.writeLanes_gang _ _ _ _ _ _ h]

theorem Ctx.mem_rest (c : Ctx) (l : Nat) (hl : l < 32) :
    (l ∈ if c.zero then lanes (c.run &&& ~~~ c.act) else []) ↔ (c.zero && hasLane c.run l) = true ∧ hasLane c.act l = false := by
  cases c.zero
  · simp
  · simp only [if_true, mem_lanes, hasLane_and, hasLane_not _ _ hl]
    cases hasLane c.act l <;> cases hasLane c.run l <;> simp

theorem Ctx.rest_lt (c : Ctx) : ∀ l ∈ (if c.zero then lanes (c.run &&& ~~~ c.act) else []), l < 32 := by
  intro l hl
  split at hl
  · exact hasLane_lt ((mem_lanes _ _).mp hl)
  · simp at hl

theorem Ctx.rest_nodup (c : Ctx) : (if c.zero then lanes (c.run &&& ~~~ c.act) else []).Nodup := by
  split
  · exact lanes_nodup _
  · exact List.nodup_nil

theorem lanes_lt {m : BitVec 32} : ∀ l ∈ lanes m, l < 32 := fun _ hl => hasLane_lt ((mem_lanes _ _).mp hl)

/-- A v destination, lane by lane (R41, R60). -/
theorem Ctx.write_vreg (c : Ctx) (s : State) (d n r l : Nat) (f : Nat → Nat) (hd : d < 192) (h : (find s.gangs c.gid).isSome) (hl : l < 32) :
    ((c.write s d n f).gang c.gid).vreg r l =
      match c.writes f l with
      | some x =>
        if d ≤ r ∧ r < d + n then
          if r % 4 = 3 ∧ (s.gang c.gid).hvAt (r / 4) l = true then x / 2 ^ (32 * (r - d)) % 2 ^ 32 / 2 * 2
          else x / 2 ^ (32 * (r - d)) % 2 ^ 32
        else if r % 4 = 3 ∧ touches d n (r / 4) = true ∧ (s.gang c.gid).hvAt (r / 4) l = true then (s.gang c.gid).vreg r l / 2 * 2
        else (s.gang c.gid).vreg r l
      | none => (s.gang c.gid).vreg r l := by
  rw [Ctx.write_gang _ _ _ _ _ hd h, Gang.vreg_putLanes _ _ _ _ _ _ _ c.rest_lt c.rest_nodup hl,
    Gang.vreg_putLanes _ _ _ _ _ _ _ lanes_lt (lanes_nodup _) hl, Gang.hvAt_putLanes _ _ _ _ _ _ _ lanes_lt hl]
  simp only [c.mem_rest l hl, mem_lanes]
  unfold Ctx.writes
  cases ha : hasLane c.act l
  · cases hw : (c.zero && hasLane c.run l) <;> simp
  · simp

theorem Ctx.write_hvAt (c : Ctx) (s : State) (d n k l : Nat) (f : Nat → Nat) (hd : d < 192) (h : (find s.gangs c.gid).isSome) (hl : l < 32) :
    ((c.write s d n f).gang c.gid).hvAt k l = ((s.gang c.gid).hvAt k l && !((c.writes f l).isSome && touches d n k)) := by
  rw [Ctx.write_gang _ _ _ _ _ hd h, Gang.hvAt_putLanes _ _ _ _ _ _ _ c.rest_lt hl,
    Gang.hvAt_putLanes _ _ _ _ _ _ _ lanes_lt hl]
  simp only [c.mem_rest l hl, mem_lanes]
  unfold Ctx.writes
  cases ha : hasLane c.act l
  · cases hw : (c.zero && hasLane c.run l) <;> simp
  · cases (s.gang c.gid).hvAt k l <;> simp

/-- The lowest active lane is active. -/
theorem lowest_mem {m : BitVec 32} (h : m ≠ 0) : hasLane m (lowest m) = true := by
  unfold lowest
  cases hl : lanes m with
  | nil =>
    refine absurd (ext_lanes fun l hl' => ?_) h
    have : l ∉ lanes m := by rw [hl]; simp
    rw [mem_lanes] at this
    simp only [Bool.not_eq_true] at this
    rw [this]
    simp [hasLane]
  | cons a r => exact (mem_lanes _ _).mp (by rw [hl]; exact List.mem_cons_self ..)

theorem Gang.putLanes_rest (g : Gang) (ls : List Nat) (r n : Nat) (f : Nat → Nat) :
    g.putLanes ls r n f = { g with v := (g.putLanes ls r n f).v, hv := (g.putLanes ls r n f).hv } := by
  have key : ∃ v hv, g.putLanes ls r n f = { g with v := v, hv := hv } := by
    induction ls generalizing g with
    | nil => exact ⟨g.v, g.hv, rfl⟩
    | cons a l ih =>
      obtain ⟨v, hv, e⟩ := ih (g.putWords r n a (f a))
      refine ⟨v, hv, e.trans ?_⟩
      rw [Gang.putWords_rest]
  obtain ⟨v, hv, e⟩ := key
  rw [e]

/-- Two changes, each of some tables of the state, as one. -/
theorem State.rest_of_write {s t w : State} (h1 : w = { t with gangs := w.gangs, crews := w.crews, mem := w.mem, lineKeys := w.lineKeys, poison := w.poison })
    (h2 : t = { s with gangs := t.gangs, crews := t.crews, convoys := t.convoys }) :
    w = { s with gangs := w.gangs, crews := w.crews, convoys := w.convoys, mem := w.mem, lineKeys := w.lineKeys, poison := w.poison } := by
  cases s; cases t; cases w
  simp only [State.mk.injEq] at *
  obtain ⟨_, _⟩ := h1
  simp_all

theorem State.rest_of_move {s t w : State} (h1 : w = { t with gangs := w.gangs, crews := w.crews, convoys := w.convoys })
    (h2 : t = { s with gangs := t.gangs, crews := t.crews, convoys := t.convoys }) :
    w = { s with gangs := w.gangs, crews := w.crews, convoys := w.convoys, mem := w.mem, lineKeys := w.lineKeys, poison := w.poison } := by
  cases s; cases t; cases w
  simp only [State.mk.injEq] at *
  simp_all

/-- The same of a gang's fields. -/
theorem Gang.rest_of_write {b w m : Gang} {f : List (Nat × Nat)} (h1 : w = { b with v := w.v, hv := w.hv, g := w.g, q24 := w.q24 })
    (h2 : b = { m with q24 := b.q24, stepOnce := false, offer := none, fetchWait := f }) :
    w = { m with v := w.v, hv := w.hv, g := w.g, q24 := w.q24, stepOnce := false, offer := none, fetchWait := f } := by
  cases m; cases b; cases w
  simp only [Gang.mk.injEq] at *
  simp_all

theorem Gang.rest_weaken {b w : Gang} (h : w = { b with v := w.v, hv := w.hv }) :
    w = { b with v := w.v, hv := w.hv, g := w.g, q24 := w.q24 } := by
  cases b; cases w
  simp only [Gang.mk.injEq] at *
  simp_all

theorem Gang.rest_weaken_q {b w : Gang} (h : w = { b with q24 := w.q24 }) :
    w = { b with v := w.v, hv := w.hv, g := w.g, q24 := w.q24 } := by
  cases b; cases w
  simp only [Gang.mk.injEq] at *
  simp_all

theorem Gang.rest_weaken_g {b w : Gang} (h : w = { b with g := w.g }) :
    w = { b with v := w.v, hv := w.hv, g := w.g, q24 := w.q24 } := by
  cases b; cases w
  simp only [Gang.mk.injEq] at *
  simp_all

/-- Where no lane is written, the releases leave the state past the issue. -/
theorem State.released_none (s : State) (i : Instr) (u : Issue) (d n : Nat) (w : Nat → Option Nat) (h : d < 192 → ∀ l, w l = none) :
    s.released i u d n w = s.issued i u := by
  unfold State.released
  dsimp only
  rw [List.filter_eq_nil_iff.mpr, List.foldl_nil]
  intro l _
  by_cases hd : d < 192
  · rw [h hd l]; simp
  · simp [hd]

/-- Memory and the nodes past the issue are those before it. -/
theorem Ready.issued_store {i : Instr} {s : State} {u : Issue} (h : Ready i s u) :
    (s.issued i u).mem = s.mem ∧ (s.issued i u).lineKeys = s.lineKeys ∧ (s.issued i u).poison = s.poison ∧
    ((s.issued i u).crew (s.crewOf u)).caddy = (s.crew (s.crewOf u)).caddy := by
  refine ⟨?_, ?_, ?_, by rw [h.issued_crew]⟩ <;> rw [h.issued_rest]

/-- What an instruction that writes no v register leaves of memory and the nodes. -/
theorem Ready.released_none {i : Instr} {s : State} {u : Issue} (h : Ready i s u) (d n : Nat) (w : Nat → Option Nat)
    (hw : d < 192 → ∀ l, w l = none) {t : State} (ht : t.mem = s.mem ∧ t.lineKeys = s.lineKeys ∧ t.poison = s.poison ∧
      (t.crew (s.crewOf u)).caddy = (s.crew (s.crewOf u)).caddy) :
    t.mem = (s.released i u d n w).mem ∧ t.lineKeys = (s.released i u d n w).lineKeys ∧ t.poison = (s.released i u d n w).poison ∧
    (t.crew (s.crewOf u)).caddy = ((s.released i u d n w).crew (s.crewOf u)).caddy := by
  obtain ⟨h1, h2, h3, h4⟩ := h.issued_store
  rw [State.released_none s i u d n w hw, h1, h2, h3, h4]
  exact ht

/-- The lanes a result writes. -/
theorem Ctx.written_lanes (c : Ctx) (f : Nat → Nat) (d : Nat) (hd : d < 192) :
    (lanes c.act ++ lanes (c.run &&& ~~~ c.act)).filter (fun l => decide (d < 192) && (c.writes f l).isSome)
      = lanes c.act ++ if c.zero then lanes (c.run &&& ~~~ c.act) else [] := by
  rw [List.filter_append]
  congr 1
  · rw [List.filter_eq_self]
    intro l hl
    unfold Ctx.writes
    rw [if_pos ((mem_lanes _ _).mp hl)]
    simpa using hd
  · split
    · next hz =>
      rw [List.filter_eq_self]
      intro l hl
      have hm := (mem_lanes _ _).mp hl
      have hlt := hasLane_lt hm
      rw [hasLane_and, hasLane_not _ _ hlt] at hm
      simp only [Bool.and_eq_true, Bool.not_eq_true'] at hm
      unfold Ctx.writes
      simp [hd, hz, hm.1, hm.2]
    · next hz =>
      rw [List.filter_eq_nil_iff]
      intro l hl
      have hm := (mem_lanes _ _).mp hl
      have hlt := hasLane_lt hm
      rw [hasLane_and, hasLane_not _ _ hlt] at hm
      simp only [Bool.and_eq_true, Bool.not_eq_true'] at hm
      unfold Ctx.writes
      simp [hz, hm.2]

/-- The lanes that ZERO alone writes. -/
theorem Ctx.zeroed_lanes (c : Ctx) (d : Nat) (hd : d < 192) (hz : c.zero = true) :
    (lanes c.act ++ lanes (c.run &&& ~~~ c.act)).filter (fun l => decide (d < 192) && (c.zeros l).isSome) = lanes (c.run &&& ~~~ c.act) := by
  rw [List.filter_append, List.filter_eq_nil_iff.mpr, List.nil_append, List.filter_eq_self]
  · intro l hl
    have hm := (mem_lanes _ _).mp hl
    have hlt := hasLane_lt hm
    rw [hasLane_and, hasLane_not _ _ hlt] at hm
    simp only [Bool.and_eq_true, Bool.not_eq_true'] at hm
    unfold Ctx.zeros
    simp [hd, hz, hm.1, hm.2]
  · intro l hl
    unfold Ctx.zeros
    simp [(mem_lanes _ _).mp hl]

/-- What a result instruction that is ready leaves (R41, R54 to R60, R79). -/
theorem Ready.wrote {i : Instr} {s : State} {u : Issue} (h : Ready i s u) (d n : Nat) (f : Nat → Nat)
    (hd : ∃ o ∈ i.info.opnds, o.reg.toNat = d) : Gave s i u d n f (s.moved i u) ((s.ctx i u).write (s.issued i u) d n f) := by
  have hf : (find (s.issued i u).gangs u.gang).isSome = true := by rw [h.issued_found]; exact h.gang
  have hg := h.issued_gang
  have hv : ∀ r l, ((s.issued i u).gang u.gang).vreg r l = (s.gang u.gang).vreg r l := fun r l => by rw [hg]; rfl
  have hhv : ∀ r l, ((s.issued i u).gang u.gang).hvAt r l = (s.gang u.gang).hvAt r l := fun r l => by rw [hg]; rfl
  have hgr : ∀ r, ((s.issued i u).gang u.gang).greg r = (s.gang u.gang).greg r := fun r => by rw [hg]; rfl
  have hgid : (s.ctx i u).gid = u.gang := rfl
  by_cases hdv : d < 192
  · have hw := Ctx.write_regWrite (s.ctx i u) (s.issued i u) d n f hdv hf
    have hx := hw.gang
    rw [hgid, hg] at hx
    have hcr : (s.issued i u).gang u.gang = _ := hg
    refine ⟨?_, ?_, ?_, ?_, ?_, ?_, ?_, ?_, ?_, ?_, ?_, ?_, ?_⟩
    · intro r l _ hl
      have := Ctx.write_vreg (s.ctx i u) (s.issued i u) d n r l f hdv hf hl
      rw [hgid, hhv, hv] at this
      rw [this]
      cases (s.ctx i u).writes f l <;> simp only [hdv, true_and, writtenWord]
    · intro k l _ hl
      have := Ctx.write_hvAt (s.ctx i u) (s.issued i u) d n k l f hdv hf hl
      rw [hgid, hhv] at this
      rw [this]
      simp [hdv]
    · intro r
      rw [hx]
      split
      · rw [if_neg (by omega)]; rfl
      · rfl
    · exact Gang.rest_of_write (Gang.rest_weaken (hgid ▸ hw.gang)) hg
    · exact fun j hj => (hw.gangs j hj).trans (h.issued_gang_ne j hj)
    · intro q _
      unfold Ctx.pushes
      rw [if_neg (by omega), List.append_nil, ← h.issued_queue]
      exact hw.queue q
    · intro j hj
      refine (hw.crews j ?_).trans (h.issued_crew_ne j hj)
      rw [hgid, hg]; exact hj
    · have := hw.crew (s.crewOf u)
      unfold Crew.sameButCaddy at this
      rw [h.issued_crew] at this
      exact this.trans (by rw [this])
    · intro j hj
      rw [← h.issued_convoy_ne j hj]
      unfold State.convoy; rw [hw.rest]
    · have : ∀ j, ((s.ctx i u).write (s.issued i u) d n f).convoy j = (s.issued i u).convoy j := fun j => by
        unfold State.convoy; rw [hw.rest]
      rw [this]; exact h.issued_convoy
    · exact State.rest_of_write hw.rest h.issued_rest
    · unfold State.released
      dsimp only
      rw [Ctx.written_lanes _ _ _ hdv, List.foldl_append, Ctx.write_v _ _ _ _ _ hdv, hgid]
      exact (((SameRefs.refl hf).writeLanes d n _ f lanes_lt).writeLanes d n _ (fun _ => 0) (s.ctx i u).rest_lt).store _
    · intro hc
      rw [Ctx.write_v _ _ _ _ _ hdv, hgid]
      obtain ⟨a1, a2, a3, a4⟩ := State.writeLanes_clean (s.issued i u) u.gang d n (Machine.lanes (s.ctx i u).act) f hf lanes_lt (by
        intro l hl k hk
        rw [hhv]
        refine hc k l ?_ hdv hk
        unfold Ctx.writes; rw [if_pos ((mem_lanes _ _).mp hl)]; rfl)
      have h1 := State.writeLanes_regWrite (s.issued i u) u.gang d n (Machine.lanes (s.ctx i u).act) f hf
      obtain ⟨b1, b2, b3, b4⟩ := State.writeLanes_clean _ u.gang d n
        (if (s.ctx i u).zero then Machine.lanes ((s.ctx i u).run &&& ~~~ (s.ctx i u).act) else []) (fun _ => 0)
        (by rw [h1.found]; exact hf) (s.ctx i u).rest_lt (by
        intro l hl k hk
        rw [State.writeLanes_gang _ _ _ _ _ _ hf, Gang.hvAt_putLanes _ _ _ _ _ _ _ lanes_lt ((s.ctx i u).rest_lt l hl), hhv,
          hc k l (by
            obtain ⟨h1, h2⟩ := ((s.ctx i u).mem_rest l ((s.ctx i u).rest_lt l hl)).mp hl
            unfold Ctx.writes; rw [h2, h1]; rfl) hdv hk]
        rfl)
      refine ⟨b1.trans (a1.trans ?_), b2.trans (a2.trans ?_), b3.trans (a3.trans ?_), ?_⟩
      · rw [h.issued_rest]
      · rw [h.issued_rest]
      · rw [h.issued_rest]
      · unfold State.crew
        rw [b4, a4]
        have := h.issued_crew
        unfold State.crew at this
        rw [this]
  · by_cases hdg : d < 224
    · rw [Ctx.write_g _ _ _ _ _ (by omega) hdg, hgid]
      have hx : ((s.issued i u).modGang u.gang fun g => g.putG (d - 192) n (f (s.ctx i u).lane0)).gang u.gang
          = ((s.issued i u).gang u.gang).putG (d - 192) n (f (s.ctx i u).lane0) := State.gang_modGang _ _ _ hf
      refine ⟨?_, ?_, ?_, ?_, ?_, ?_, ?_, ?_, ?_, ?_, ?_, ?_, ?_⟩
      · intro r l _ _
        simp only [hdv, false_and, if_false]
        rw [hx, Gang.putG_rest, ← hv]
        cases (s.ctx i u).writes f l <;> rfl
      · intro k l _ _
        rw [hx, Gang.putG_rest, ← hhv]
        simp [hdv, Gang.hvAt]
      · intro r
        rw [hx, Gang.greg_putG, hgr]
        unfold Ctx.writes
        rw [if_pos (show hasLane (s.ctx i u).act (s.ctx i u).lane0 = true from lowest_mem h.lanes)]
        dsimp only
        by_cases hr : d - 192 ≤ r ∧ r < d - 192 + n
        · rw [if_pos hr, if_pos ⟨by omega, hdg, hr⟩]
        · rw [if_neg hr, if_neg (fun c => hr c.2.2)]
      · refine Gang.rest_of_write (b := (s.issued i u).gang u.gang) (Gang.rest_weaken_g ?_) hg
        rw [hx]
        exact Gang.putG_rest _ _ _ _
      · intro j hj
        rw [State.gang_modGang_ne _ _ _ _ hj.symm, h.issued_gang_ne j hj]
      · intro q _
        unfold Ctx.pushes
        rw [if_neg (by omega), List.append_nil, ← h.issued_queue]
        unfold State.queue
        dsimp only
        rw [hx, Gang.putG_rest]
        rfl
      · exact fun j hj => h.issued_crew_ne j hj
      · rw [State.crew_modGang, h.issued_crew]
      · exact fun j hj => h.issued_convoy_ne j hj
      · rw [State.convoy_modGang]; exact h.issued_convoy
      · have h1 := h.issued_rest
        unfold State.modGang
        rw [h1]
      · exact h.released_none _ _ _ (fun c => absurd c hdv) h.issued_store
      · exact fun _ => h.issued_store
    · obtain ⟨o, ho, hod⟩ := hd
      have hh := h.issued_homed ho
      rw [hod] at hh
      rw [Ctx.write_q _ _ _ _ _ (by omega), hgid]
      have hm := State.setQueue_move (s.issued i u) u.gang (d - 224) ((s.issued i u).queue u.gang (d - 224) ++
        ((Machine.lanes (s.ctx i u).qlanes).flatMap fun l => wordsFrom (f l) n).map (BitVec.ofNat 32 ·))
      have hx := hm.gang
      rw [hg] at hx
      have how : ((s.issued i u).gang u.gang).crew = s.crewOf u := by rw [hg]; rfl
      have hcv : ((s.issued i u).crew (s.crewOf u)).convoy = s.convoyAt u := by rw [h.issued_crew]; rfl
      refine ⟨?_, ?_, ?_, ?_, ?_, ?_, ?_, ?_, ?_, ?_, ?_, ?_, ?_⟩
      · intro r l _ _
        simp only [hdv, false_and, if_false]
        rw [hx]
        cases (s.ctx i u).writes f l <;> rfl
      · intro k l _ _
        rw [hx]; simp [hdv, Gang.hvAt]
      · intro r
        rw [hx]
        split
        · rw [if_neg (fun c => hdg c.2.1)]; rfl
        · rfl
      · exact Gang.rest_of_write (Gang.rest_weaken_q hm.gang) hg
      · exact fun j hj => (hm.gangs j hj).trans (h.issued_gang_ne j hj)
      · intro q _
        unfold Ctx.pushes
        rw [State.queue_setQueue _ _ _ _ _ hh]
        by_cases hq : q = d - 224
        · rw [if_pos hq, if_pos (by omega), h.issued_queue, hq]
        · rw [if_neg hq, if_neg (by omega), List.append_nil, h.issued_queue]
      · intro j hj
        exact (hm.crews j (by rw [how]; exact hj)).trans (h.issued_crew_ne j hj)
      · have := hm.crew
        rw [how, h.issued_crew] at this
        exact this.trans (by rw [this])
      · intro j hj
        exact (hm.convoys j (by rw [how, hcv]; exact hj)).trans (h.issued_convoy_ne j hj)
      · have := hm.convoy
        rw [how, hcv, h.issued_convoy] at this
        exact this
      · exact State.rest_of_move hm.rest h.issued_rest
      · refine h.released_none _ _ _ (fun c => absurd c hdv) ?_
        have h2 := hm.crew
        rw [how, h.issued_crew] at h2
        refine ⟨?_, ?_, ?_, by rw [h2]⟩ <;> rw [hm.rest, h.issued_rest]
      · intro _
        have h2 := hm.crew
        rw [how, h.issued_crew] at h2
        refine ⟨?_, ?_, ?_, by rw [h2]⟩ <;> rw [hm.rest, h.issued_rest]

/-- A result instruction that is ready completes and leaves what `Gave` says. -/
theorem Ready.result {i : Instr} {s : State} {u : Issue} (h : Ready i s u) (d : Reg) (n : Nat) (f : Ctx → Nat → Nat)
    (hd : ∃ o ∈ i.info.opnds, o.reg = d) :
    ∃ t, resultInstr i s d n f = .next t ∧ Gave s i u d.toNat n (f (s.ctx i u)) (s.moved i u) t :=
  ⟨_, h.issue_ok fun c t => c.write t d.toNat n (f c), h.wrote _ _ _ (hd.imp fun _ ho => ⟨ho.1, congrArg _ ho.2⟩)⟩

/-- A change of a gang's other fields: what an instruction's write of registers does commutes with it. -/
def Moves (φ : Gang → Gang) : Prop :=
  ∀ (g : Gang) v hv gg q f,
    φ { g with v := v, hv := hv, g := gg, q24 := q, stepOnce := false, offer := none, fetchWait := f }
      = { φ g with v := v, hv := hv, g := gg, q24 := q, stepOnce := false, offer := none, fetchWait := f }

theorem State.modGang_queue (s : State) (gid q : Nat) (φ : Gang → Gang) (h : (find s.gangs gid).isSome)
    (hc : (φ (s.gang gid)).crew = (s.gang gid).crew) (hq : (φ (s.gang gid)).q24 = (s.gang gid).q24) :
    (s.modGang gid φ).queue gid q = s.queue gid q := by
  unfold State.queue
  dsimp only
  rw [State.gang_modGang _ _ _ h, hc, hq]
  rfl

/-- A result, and then masks, program counters or another field of the gang. -/
theorem Wrote.move {s : State} {i : Instr} {u : Issue} {d n : Nat} {w : Nat → Option Nat} {push : Nat → List (BitVec 32)}
    {g : Gang} {t : State} (h : Wrote s i u d n w push g t) (hf : (find t.gangs u.gang).isSome) {φ : Gang → Gang} (hφ : Moves φ)
    (hc : (φ g).crew = g.crew) : Wrote s i u d n w push (φ g) (t.modGang u.gang φ) := by
  have hx : (t.modGang u.gang φ).gang u.gang = φ (t.gang u.gang) := State.gang_modGang _ _ _ hf
  have ho := hφ g (t.gang u.gang).v (t.gang u.gang).hv (t.gang u.gang).g (t.gang u.gang).q24 ((s.gang u.gang).waitsPast u.pc)
  rw [← h.gang] at ho
  have hv : (φ (t.gang u.gang)).v = (t.gang u.gang).v := by rw [ho]
  have hhv : (φ (t.gang u.gang)).hv = (t.gang u.gang).hv := by rw [ho]
  have hgg : (φ (t.gang u.gang)).g = (t.gang u.gang).g := by rw [ho]
  have hq : (φ (t.gang u.gang)).q24 = (t.gang u.gang).q24 := by rw [ho]
  have hcr : (φ (t.gang u.gang)).crew = (t.gang u.gang).crew := by
    rw [ho, h.gang]; exact hc
  refine ⟨?_, ?_, ?_, ?_, ?_, ?_, ?_, ?_, ?_, ?_, ?_, ?_, ?_⟩
  · intro r l hr hl
    rw [← h.v r l hr hl, hx]; unfold Gang.vreg; rw [hv]
  · intro k l hk hl
    rw [← h.hv k l hk hl, hx]; unfold Gang.hvAt; rw [hhv]
  · intro r
    rw [← h.uniform r, hx]; unfold Gang.greg; rw [hgg]
  · rw [hx, hv, hhv, hgg, hq]; exact ho
  · exact fun j hj => (State.gang_modGang_ne _ _ _ _ hj.symm).trans (h.gangs j hj)
  · intro q hq'
    rw [State.modGang_queue _ _ _ _ hf hcr hq, h.queues q hq']
  · exact h.crews
  · exact h.crew
  · exact h.convoys
  · exact h.convoy
  · exact congrArg (fun w : State => { w with gangs := alter t.gangs u.gang φ }) h.rest
  · exact h.released
  · exact h.clean

theorem Quiet.move {s : State} {i : Instr} {u : Issue} {push : Nat → List (BitVec 32)} {t : State}
    (h : Quiet s i u push t) (hf : (find t.gangs u.gang).isSome) {φ : Gang → Gang}
    (hc : (φ (t.gang u.gang)).crew = (t.gang u.gang).crew) (hq : (φ (t.gang u.gang)).q24 = (t.gang u.gang).q24) :
    Quiet s i u push (t.modGang u.gang φ) where
  rest := congrArg (fun w : State => { w with gangs := alter t.gangs u.gang φ }) h.rest
  gangs := fun j hj => (State.gang_modGang_ne _ _ _ _ hj.symm).trans (h.gangs j hj)
  crews := h.crews
  crew := h.crew
  convoys := h.convoys
  convoy := h.convoy
  queues := fun q hq' => by rw [State.modGang_queue _ _ _ _ hf hc hq, h.queues q hq']

theorem GangIs.move {s : State} {u : Issue} {g : Gang} {t : State} (h : GangIs s u g t) (hf : (find t.gangs u.gang).isSome)
    {φ : Gang → Gang} (hφ : Moves φ) (hk : (φ g).v = g.v ∧ (φ g).hv = g.hv ∧ (φ g).g = g.g) : GangIs s u (φ g) (t.modGang u.gang φ) := by
  have hx : (t.modGang u.gang φ).gang u.gang = φ (t.gang u.gang) := State.gang_modGang _ _ _ hf
  have ho := hφ g g.v g.hv g.g (t.gang u.gang).q24 ((s.gang u.gang).waitsPast u.pc)
  unfold GangIs at h ⊢
  have he : φ (t.gang u.gang) = _ := (congrArg φ h).trans ho
  rw [hx, he, ← hk.1, ← hk.2.1, ← hk.2.2]

theorem Ready.issued_is {i : Instr} {s : State} {u : Issue} (h : Ready i s u) : GangIs s u (s.moved i u) (s.issued i u) :=
  h.issued_gang

theorem Gang.release_moves (k : Nat) : Moves fun g => g.release k := by
  intro g v hv gg q f
  have key : ∀ w : Gang, w.threads = g.threads → w.m = g.m → w.groupMet k = g.groupMet k := fun w ht hm => by
    unfold Gang.groupMet Gang.live Gang.mask Gang.thread; rw [ht, hm]
  have hw := key { g with v := v, hv := hv, g := gg, q24 := q, stepOnce := false, offer := none, fetchWait := f } rfl rfl
  show Gang.release _ _ = _
  by_cases hb : g.groupMet k = true
  · have h1 : g.release k = _ := if_pos hb
    have h2 : Gang.release _ k = _ := if_pos (hw.trans hb)
    dsimp only; rw [h1]; exact h2
  · have h1 : g.release k = _ := if_neg hb
    have h2 : Gang.release _ k = _ := if_neg (fun c => hb (hw.symm.trans c))
    dsimp only; rw [h1]; exact h2

theorem Moves.comp {φ ψ : Gang → Gang} (h : Moves φ) (k : Moves ψ) : Moves fun g => ψ (φ g) := fun g v hv gg q f => by
  show ψ (φ _) = _
  rw [h, k]

theorem Gang.writeMask_moves (k : Nat) (v : BitVec 32) : Moves fun g => g.writeMask k v :=
  Moves.comp (φ := fun g => g.setMask k v) (fun _ _ _ _ _ _ => rfl) (Gang.release_moves k)

/-- What a release leaves of a gang: all but its threads. -/
theorem Gang.release_rest (g : Gang) (k : Nat) : g.release k = { g with threads := (g.release k).threads } := by
  unfold Gang.release; split <;> rfl

/-- An instruction whose effect is a change of its gang's own fields. -/
theorem Ready.changed {i : Instr} {s : State} {u : Issue} (h : Ready i s u) {φ : Gang → Gang} (hφ : Moves φ)
    (hk : ∀ g, (φ g).v = g.v ∧ (φ g).hv = g.hv ∧ (φ g).g = g.g) (hc : ∀ g, (φ g).crew = g.crew) (hq : ∀ g, (φ g).q24 = g.q24) :
    Quiet s i u (fun _ => []) ((s.issued i u).modGang u.gang φ) ∧ GangIs s u (φ (s.moved i u)) ((s.issued i u).modGang u.gang φ) :=
  have hf : (find (s.issued i u).gangs u.gang).isSome = true := by rw [h.issued_found]; exact h.gang
  ⟨h.issued_quiet.move hf (hc _) (hq _), h.issued_is.move hf hφ (hk _)⟩

theorem Ready.unchanged {i : Instr} {s : State} {u : Issue} (h : Ready i s u) :
    Quiet s i u (fun _ => []) (s.issued i u) ∧ GangIs s u (s.moved i u) (s.issued i u) := ⟨h.issued_quiet, h.issued_is⟩

/-- Threads of a set of lanes moved. -/
def Gang.moveLanes (m : BitVec 32) (f : Nat → Thread → Thread) (g : Gang) : Gang :=
  { g with threads := g.threads.mapIdx fun l t => if hasLane m l then f l t else t }

theorem Gang.moveLanes_moves (m : BitVec 32) (f : Nat → Thread → Thread) : Moves (Gang.moveLanes m f) := fun _ _ _ _ _ _ => rfl

/-- A further move of the run is one move. -/
theorem State.moveLanes_ran (s : State) (u : Issue) (f g : Nat → Thread → Thread) :
    Gang.moveLanes u.run g (s.ran u f) = s.ran u fun l t => g l (f l t) := by
  unfold Gang.moveLanes State.ran State.ranThreads
  dsimp only
  rw [List.mapIdx_mapIdx]
  congr 2
  funext l t
  dsimp
  by_cases h : hasLane u.run l <;> simp [h]

/-- A move of some lanes of the run. -/
theorem State.moveSome_ran (s : State) (u : Issue) (m : BitVec 32) (f g : Nat → Thread → Thread)
    (hm : ∀ l, hasLane m l = true → hasLane u.run l = true) :
    Gang.moveLanes m g (s.ran u f) = s.ran u fun l t => if hasLane m l then g l (f l t) else f l t := by
  unfold Gang.moveLanes State.ran State.ranThreads
  dsimp only
  rw [List.mapIdx_mapIdx]
  congr 2
  funext l t
  dsimp
  by_cases h : hasLane u.run l
  · simp [h]
  · have : hasLane m l = false := by
      cases hh : hasLane m l
      · rfl
      · exact absurd (hm l hh) h
    simp [h, this]

theorem Ready.jumped {i : Instr} {s : State} {u : Issue} (h : Ready i s u) (g : Nat → Thread → Thread) :
    Quiet s i u (fun _ => []) ((s.issued i u).modGang u.gang (Gang.moveLanes u.run g)) ∧
    GangIs s u (s.ran u fun l t => g l { t with pc := (s.ctx i u).next }) ((s.issued i u).modGang u.gang (Gang.moveLanes u.run g)) := by
  have hx := h.changed (Gang.moveLanes_moves u.run g) (fun _ => ⟨rfl, rfl, rfl⟩) (fun _ => rfl) (fun _ => rfl)
  unfold State.moved at hx
  rw [State.moveLanes_ran] at hx
  exact hx

theorem Gang.writeMask_rest (g : Gang) (k : Nat) (v : BitVec 32) :
    g.writeMask k v = { g with m := put g.m k v 0, threads := (g.writeMask k v).threads } := by
  unfold Gang.writeMask
  exact Gang.release_rest _ _

theorem Ready.masked {i : Instr} {s : State} {u : Issue} (h : Ready i s u) (k : Nat) (v : BitVec 32) :
    Quiet s i u (fun _ => []) ((s.issued i u).modGang u.gang fun g => g.writeMask k v) ∧
    GangIs s u ((s.moved i u).writeMask k v) ((s.issued i u).modGang u.gang fun g => g.writeMask k v) :=
  h.changed (Gang.writeMask_moves k v)
    (fun g => by rw [Gang.writeMask_rest]; exact ⟨rfl, rfl, rfl⟩) (fun g => by rw [Gang.writeMask_rest])
    (fun g => by rw [Gang.writeMask_rest])

/-- Two changes that agree on the gang they meet. -/
theorem State.modGang_congr (s : State) (gid : Nat) (φ ψ : Gang → Gang) (h : φ (s.gang gid) = ψ (s.gang gid)) :
    s.modGang gid φ = s.modGang gid ψ := by
  unfold State.modGang State.gang at *
  congr 1
  generalize s.gangs = m at *
  induction m with
  | nil => rfl
  | cons a r ih =>
    obtain ⟨a, x⟩ := a
    unfold alter
    unfold look at h
    split
    · next ha => rw [if_pos ha] at h; rw [h]
    · next ha => rw [if_neg ha] at h; rw [ih h]

/-- The bits of some lanes of a mask, from the gang's own mask. -/
theorem Ready.writeMaskLanes {i : Instr} {s : State} {u : Issue} (h : Ready i s u) (k : Nat) (ls : BitVec 32) (f : Nat → Bool) :
    (s.issued i u).writeMaskLanes u.gang k ls f = (s.issued i u).modGang u.gang fun g =>
      g.writeMask k (((s.gang u.gang).mask k &&& ~~~ ls) ||| laneSet fun l => hasLane ls l && f l) := by
  have hm : ((s.issued i u).gang u.gang).mask k = (s.gang u.gang).mask k := by rw [h.issued_gang]; rfl
  unfold State.writeMaskLanes
  refine State.modGang_congr _ _ _ _ ?_
  rw [hm]

/-- What an instruction that is ready, and that only clears its destination under ZERO, leaves (R41). -/
theorem Ready.zeroed {i : Instr} {s : State} {u : Issue} (h : Ready i s u) (d n : Nat) :
    Wrote s i u d n (s.ctx i u).zeros (fun _ => []) (s.moved i u) ((s.ctx i u).zeroRest (s.issued i u) d n) := by
  have hf : (find (s.issued i u).gangs u.gang).isSome = true := by rw [h.issued_found]; exact h.gang
  have hg := h.issued_gang
  have hv : ∀ r l, ((s.issued i u).gang u.gang).vreg r l = (s.gang u.gang).vreg r l := fun r l => by rw [hg]; rfl
  have hhv : ∀ r l, ((s.issued i u).gang u.gang).hvAt r l = (s.gang u.gang).hvAt r l := fun r l => by rw [hg]; rfl
  have hgid : (s.ctx i u).gid = u.gang := rfl
  by_cases hz : (s.ctx i u).zero = true ∧ d < 192
  · obtain ⟨hz, hdv⟩ := hz
    have he : (s.ctx i u).zeroRest (s.issued i u) d n = (Machine.lanes ((s.ctx i u).run &&& ~~~ (s.ctx i u).act)).foldl
        (fun t l => t.writeVs u.gang d n l 0) (s.issued i u) := by
      unfold Ctx.zeroRest
      rw [if_pos (by simp [hz, hdv])]
      rfl
    have hmem : ∀ l, l < 32 → (l ∈ Machine.lanes ((s.ctx i u).run &&& ~~~ (s.ctx i u).act) ↔ ((s.ctx i u).zeros l).isSome = true) := by
      intro l hl
      rw [mem_lanes, hasLane_and, hasLane_not _ _ hl]
      unfold Ctx.zeros
      rw [hz]
      cases hasLane (s.ctx i u).act l <;> cases hasLane (s.ctx i u).run l <;> simp
    have hzero : ∀ l x, (s.ctx i u).zeros l = some x → x = 0 := by
      intro l x hx
      unfold Ctx.zeros at hx
      split at hx
      · exact (Option.some.inj hx).symm
      · cases hx
    rw [he]
    have hw := State.writeLanes_regWrite (s.issued i u) u.gang d n (Machine.lanes ((s.ctx i u).run &&& ~~~ (s.ctx i u).act)) (fun _ => 0) hf
    have hwg := State.writeLanes_gang (s.issued i u) u.gang d n (Machine.lanes ((s.ctx i u).run &&& ~~~ (s.ctx i u).act)) (fun _ => 0) hf
    refine ⟨?_, ?_, ?_, ?_, ?_, ?_, ?_, ?_, ?_, ?_, ?_, ?_, ?_⟩
    · intro r l _ hl
      rw [hwg, Gang.vreg_putLanes _ _ _ _ _ _ _ lanes_lt (lanes_nodup _) hl, hhv, hv]
      cases hx : (s.ctx i u).zeros l with
      | none => rw [if_neg (by rw [hmem l hl, hx]; simp)]
      | some x =>
        obtain rfl := hzero l x hx
        rw [if_pos (by rw [hmem l hl, hx]; rfl)]
        simp only [hdv, true_and, writtenWord]
    · intro k l _ hl
      rw [hwg, Gang.hvAt_putLanes _ _ _ _ _ _ _ lanes_lt hl, hhv]
      simp only [hmem l hl, hdv, decide_true, Bool.true_and]
      cases ((s.ctx i u).zeros l).isSome <;> simp
    · intro r
      have : ((Machine.lanes ((s.ctx i u).run &&& ~~~ (s.ctx i u).act)).foldl
        (fun t l => t.writeVs u.gang d n l 0) (s.issued i u)).gang u.gang = _ := hw.gang
      rw [this, hg]
      split
      · rw [if_neg (by omega)]; rfl
      · rfl
    · exact Gang.rest_of_write (Gang.rest_weaken hw.gang) hg
    · exact fun j hj => (hw.gangs j hj).trans (h.issued_gang_ne j hj)
    · intro q _
      rw [List.append_nil, ← h.issued_queue]
      exact hw.queue q
    · intro j hj
      refine (hw.crews j ?_).trans (h.issued_crew_ne j hj)
      rw [hg]; exact hj
    · have := hw.crew (s.crewOf u)
      unfold Crew.sameButCaddy at this
      rw [h.issued_crew] at this
      exact this.trans (by rw [this])
    · intro j hj
      rw [← h.issued_convoy_ne j hj]
      unfold State.convoy; rw [hw.rest]
    · have : ∀ j, ((Machine.lanes ((s.ctx i u).run &&& ~~~ (s.ctx i u).act)).foldl
          (fun t l => t.writeVs u.gang d n l 0) (s.issued i u)).convoy j = (s.issued i u).convoy j := fun j => by
        unfold State.convoy; rw [hw.rest]
      rw [this]; exact h.issued_convoy
    · exact State.rest_of_write hw.rest h.issued_rest
    · unfold State.released
      dsimp only
      rw [Ctx.zeroed_lanes _ _ hdv hz]
      exact ((SameRefs.refl hf).writeLanes d n _ (fun _ => 0) lanes_lt).store _
    · intro hc
      obtain ⟨a1, a2, a3, a4⟩ := State.writeLanes_clean (s.issued i u) u.gang d n
        (Machine.lanes ((s.ctx i u).run &&& ~~~ (s.ctx i u).act)) (fun _ => 0) hf lanes_lt (by
        intro l hl k hk
        rw [hhv]
        exact hc k l ((hmem l (lanes_lt l hl)).mp hl) hdv hk)
      refine ⟨a1.trans (by rw [h.issued_rest]), a2.trans (by rw [h.issued_rest]), a3.trans (by rw [h.issued_rest]), ?_⟩
      unfold State.crew
      rw [a4]
      have := h.issued_crew
      unfold State.crew at this
      rw [this]
  · have he : (s.ctx i u).zeroRest (s.issued i u) d n = s.issued i u := by
      unfold Ctx.zeroRest
      rw [if_neg]
      simpa using hz
    rw [he]
    have hn : ∀ l, d < 192 → (s.ctx i u).zeros l = none := by
      intro l hd
      unfold Ctx.zeros
      have : (s.ctx i u).zero = false := by
        cases hh : (s.ctx i u).zero
        · rfl
        · exact absurd ⟨hh, hd⟩ hz
      rw [this]; simp
    have h0 : (s.ctx i u).zeros (s.ctx i u).lane0 = none := by
      unfold Ctx.zeros
      rw [show hasLane (s.ctx i u).act (s.ctx i u).lane0 = true from lowest_mem h.lanes]; simp
    refine ⟨?_, ?_, ?_, ?_, h.issued_gang_ne, ?_, h.issued_crew_ne, ?_, h.issued_convoy_ne, h.issued_convoy, ?_, ?_, ?_⟩
    · intro r l _ _
      by_cases hd : d < 192
      · rw [hn l hd, hv]
      · simp only [hd, false_and, if_false]
        rw [hv]
        cases (s.ctx i u).zeros l <;> rfl
    · intro k l _ _
      by_cases hd : d < 192
      · rw [hn l hd, hhv]; simp
      · rw [hhv]; simp [hd]
    · intro r
      rw [h0, hg]; rfl
    · exact Gang.rest_of_write rfl hg
    · intro q _
      rw [List.append_nil, ← h.issued_queue]
    · exact h.issued_crew.trans (by rw [h.issued_crew])
    · have := h.issued_rest
      exact State.rest_of_move (t := s) (by exact this) rfl
    · exact h.released_none _ _ _ (fun hd l => hn l hd) h.issued_store
    · exact fun _ => h.issued_store

/-- What an instruction that writes no register leaves. -/
theorem Wrote.of_quiet {s : State} {i : Instr} {u : Issue} {g : Gang} {t : State} (hr : Ready i s u) (h : Quiet s i u (fun _ => []) t) (hg : GangIs s u g t)
    (hk : g.v = (s.gang u.gang).v ∧ g.hv = (s.gang u.gang).hv ∧ g.g = (s.gang u.gang).g) {d n : Nat} {w : Nat → Option Nat}
    (hw : w = fun _ => none) : Wrote s i u d n w (fun _ => []) g t := by
  subst hw
  have e : t.gang u.gang = _ := hg
  have hv : (t.gang u.gang).v = (s.gang u.gang).v := by rw [e]; exact hk.1
  have hh : (t.gang u.gang).hv = (s.gang u.gang).hv := by rw [e]; exact hk.2.1
  have hgg : (t.gang u.gang).g = (s.gang u.gang).g := by rw [e]; exact hk.2.2
  refine ⟨fun r l _ _ => ?_, fun k l _ _ => ?_, fun r => ?_, ?_, h.gangs, h.queues, h.crews, ?_, h.convoys, h.convoy, ?_, ?_, fun _ => ?_⟩
  · simp only [Gang.vreg, hv]
  · simp [Gang.hvAt, hh]
  · simp only [Gang.greg, hgg]
  · rw [e]
  · rw [h.crew]
  · rw [h.rest]
  · exact hr.released_none _ _ _ (fun _ _ => rfl) ⟨by rw [h.rest], by rw [h.rest], by rw [h.rest], by rw [h.crew]⟩
  · refine ⟨by rw [h.rest], by rw [h.rest], by rw [h.rest], by rw [h.crew]⟩

theorem Ready.plain {i : Instr} {s : State} {u : Issue} (h : Ready i s u) :
    Wrote s i u 255 0 (fun _ => none) (fun _ => []) (s.moved i u) (s.issued i u) :=
  Wrote.of_quiet h h.issued_quiet h.issued_is ⟨rfl, rfl, rfl⟩ rfl

theorem Ready.changes {i : Instr} {s : State} {u : Issue} (h : Ready i s u) {φ : Gang → Gang} (hφ : Moves φ)
    (hk : ∀ g, (φ g).v = g.v ∧ (φ g).hv = g.hv ∧ (φ g).g = g.g) (hc : ∀ g, (φ g).crew = g.crew) (hq : ∀ g, (φ g).q24 = g.q24) :
    Wrote s i u 255 0 (fun _ => none) (fun _ => []) (φ (s.moved i u)) ((s.issued i u).modGang u.gang φ) :=
  Wrote.of_quiet h (h.changed hφ hk hc hq).1 (h.changed hφ hk hc hq).2 (hk _) rfl
end Sys2Proof.Machine
end

