-- ==== Sys2Proof/Laws/Counted.lean ====
section
/-! SUPPORT. What issue does with counted operations (spec/06_streams.md R154 to R157, R207). -/

namespace Sys2Proof.Machine

/-- Only operations differ. -/
structure OpsOnly (s t : State) : Prop where
  rest : t = { s with ops := t.ops, next := t.next }

theorem OpsOnly.refl (s : State) : OpsOnly s s := ⟨rfl⟩

theorem OpsOnly.trans {s t u : State} (h : OpsOnly s t) (k : OpsOnly t u) : OpsOnly s u := ⟨by rw [k.rest, h.rest]⟩

theorem OpsOnly.withOps {s t : State} (h : OpsOnly s t) : t.withOps s = s := by
  unfold State.withOps
  rw [h.rest]

theorem State.addOp_only (s : State) (o : Op) : OpsOnly s (s.addOp o) := ⟨rfl⟩

theorem State.modOp_only (s : State) (i : Nat) (f : Op → Op) : OpsOnly s (s.modOp i f) := ⟨rfl⟩

/-- Loads that read again change nothing but operations (R165, R166). -/
theorem State.reread_only (s : State) (who : Op → Bool) (l : List (Nat × Nat)) : OpsOnly s (s.reread who l) := ⟨rfl⟩

theorem State.freshen_only (s : State) (w : Op) (l : List (Nat × Nat)) : OpsOnly s (s.freshen w l) := ⟨rfl⟩

theorem State.freshenLayer_only (s : State) (l : Nat) (ps : List (Place × Nat)) : OpsOnly s (s.freshenLayer l ps) := ⟨rfl⟩

/-- Neither does what a volatile lane's write holds back (R161), nor a store's coming to be seen outside its instance (R165). -/
theorem State.holdNext_only (s : State) (i : Nat) (o : Op) : OpsOnly s (s.holdNext i o) := by
  rw [State.holdNext]
  split <;> exact ⟨rfl⟩

/-- Accesses that are translated again change nothing but operations (R449, R450). -/
theorem State.retranslate_only (s : State) (who : Op → Bool) : OpsOnly s (s.retranslate who) := ⟨rfl⟩

theorem State.leak_only (s : State) (l : List (Nat × Op)) : OpsOnly s (s.leak l) := by
  suffices h : ∀ t, OpsOnly s t → OpsOnly s (l.foldl (fun t p =>
      { t.modOp p.1 fun o => { o with leaked := true, rank := t.next } with next := t.next + 1 }) t) from h s (OpsOnly.refl s)
  induction l with
  | nil => exact fun _ h => h
  | cons p r ih => exact fun t h => ih _ (h.trans ⟨rfl⟩)

/-! ### A page that a TLB holds never faults replayably (R448) -/

theorem homePlace_final (l off k : Nat) (b : Bool) (c : Nat) : homePlace l off k b ≠ .fault c true := by
  unfold homePlace
  split
  · simp
  · split <;> simp

theorem State.placeOf_final (s : State) (l : Nat) (acc : Access) (aq : Bool) (va base log pte c : Nat) :
    s.placeOf l acc aq va base log pte ≠ .fault c true := by
  unfold State.placeOf
  dsimp only
  repeat' split
  all_goals first | exact homePlace_final _ _ _ _ _ | simp

theorem State.leafOf_hit {s : State} {l via va : Nat} (h : (s.tlbHit l via va).isSome) : ∃ b g p, s.leafOf l via va = .leaf b g p := by
  obtain ⟨t, ht⟩ := Option.isSome_iff_exists.mp h
  exact ⟨t.base, t.log, t.pte, by unfold State.leafOf; rw [ht]⟩

theorem State.translateOp_final {s : State} {o : Op} {ea : Nat} {acc : Access} (h : (s.tlbHit o.layer (s.viaOf o.crew) ea).isSome) (c : Nat) :
    s.translateOp o ea acc ≠ .fault c true := by
  obtain ⟨b, g, p, hl⟩ := State.leafOf_hit h
  have h1 : ∀ w, s.aqPlace o.layer (s.viaOf o.crew) ea w ≠ .fault c true := by
    intro w
    unfold State.aqPlace
    rw [hl]
    dsimp only
    repeat' split
    any_goals first | exact State.placeOf_final _ _ _ _ _ _ _ _ _ | simp
    all_goals
      rename_i r hr
      cases r with
      | true => exact absurd hr (State.placeOf_final _ _ _ _ _ _ _ _ _)
      | false => simp
  have h2 : s.translate o.layer (s.viaOf o.crew) acc true ea ≠ .fault c true := by
    unfold State.translate
    rw [hl]
    exact State.placeOf_final _ _ _ _ _ _ _ _ _
  unfold State.translateOp
  split
  · exact h1 _
  · exact h1 _
  · exact h1 _
  · unfold State.atomicPlace State.offReplica
    rw [hl]
    dsimp only
    have final := State.placeOf_final s o.layer .atomic true ea b g p
    split
    · simp
    · next r hr => cases r with
      | true => exact absurd hr (final _)
      | false => split <;> simp
    · exact final c
  · exact h2

/-! ### Changes of the operations of one instruction -/

/-- Every operation stays, those of instruction n with their translation alone changed. -/
structure Translated (n : Nat) (s t : State) : Prop where
  only : OpsOnly s t
  next : t.next = s.next
  same : ∀ j o, find s.ops j = some o → ∃ o', find t.ops j = some o' ∧ o.sameBut o' ∧ (o.inst ≠ n → o' = o)
  absent : ∀ j, find s.ops j = none → find t.ops j = none

theorem Op.sameBut_refl (o : Op) : o.sameBut o := ⟨rfl, fun _ => rfl⟩

theorem Op.sameBut_trans {a b c : Op} (h : a.sameBut b) (k : b.sameBut c) : a.sameBut c where
  left := by rw [k.1, h.1]
  right := fun hp => by
    have hb := h.2 hp
    subst hb
    exact k.2 hp

theorem Op.sameBut_inst {a b : Op} (h : a.sameBut b) : b.inst = a.inst := by rw [h.1]

theorem Translated.refl (n : Nat) (s : State) : Translated n s s :=
  ⟨OpsOnly.refl s, rfl, fun _ o h => ⟨o, h, o.sameBut_refl, fun _ => rfl⟩, fun _ h => h⟩

theorem Translated.trans {n : Nat} {s t u : State} (h : Translated n s t) (k : Translated n t u) : Translated n s u where
  only := h.only.trans k.only
  next := k.next.trans h.next
  same := fun j o ho => by
    obtain ⟨o1, h1, h2, h3⟩ := h.same j o ho
    obtain ⟨o2, k1, k2, k3⟩ := k.same j o1 h1
    exact ⟨o2, k1, Op.sameBut_trans h2 k2, fun hn => (k3 (by rw [Op.sameBut_inst h2]; exact hn)).trans (h3 hn)⟩
  absent := fun j hj => k.absent j (h.absent j hj)

theorem State.modOp_translated (s : State) (n i : Nat) (f : Op → Op)
    (hf : ∀ o, find s.ops i = some o → o.sameBut (f o) ∧ (o.inst ≠ n → f o = o)) : Translated n s (s.modOp i f) where
  only := s.modOp_only i f
  next := rfl
  same := fun j o ho => by
    have hx : find (s.modOp i f).ops j = _ := find_alter s.ops i j f
    rw [ho] at hx
    by_cases h : i = j
    · subst h
      obtain ⟨h1, h2⟩ := hf o ho
      exact ⟨f o, by rw [hx]; simp, h1, h2⟩
    · exact ⟨o, by rw [hx]; simp [h], o.sameBut_refl, fun _ => rfl⟩
  absent := fun j hj => by
    have hx : find (s.modOp i f).ops j = _ := find_alter s.ops i j f
    rw [hx, hj]; simp

theorem State.noteTranslation_translated (s : State) (n i ea size : Nat) (acc : Access) (o : Op) (ho : find s.ops i = some o)
    (hi : o.inst = n) (hp : o.place = none) (ha : o.kind.access = some (ea, size, acc)) (hit : (s.tlbHit o.layer (s.viaOf o.crew) ea).isSome) :
    Translated n s (s.noteTranslation i) := by
  have key : ∀ f : Op → Op, (f o = { o with place := (f o).place, failed := (f o).failed }) → Translated n s (s.modOp i f) := by
    intro f hf
    refine s.modOp_translated n i f fun o' ho' => ?_
    obtain rfl : o = o' := Option.some.inj (ho.symm.trans ho')
    refine ⟨⟨hf, ?_⟩, fun h => absurd hi h⟩
    rw [hp, ha]
    rintro (h | h) <;> cases h
  unfold State.noteTranslation State.opAt
  rw [ho]
  dsimp only
  rw [ha]
  dsimp only
  split
  · split
    · exact key _ rfl
    · split
      · exact key _ rfl
      · exact Translated.refl n s
  · exact Translated.refl n s
  · next c hc _ => exact absurd hc (State.translateOp_final hit c)
  · exact key _ rfl

/-- What the TLBs give at issue. -/
theorem State.translateHits_translated (s : State) (n : Nat) : Translated n s (s.translateHits n) := by
  unfold State.translateHits
  generalize s.ops.map (·.1) = l
  induction l generalizing s with
  | nil => exact Translated.refl n s
  | cons i r ih =>
    rw [List.foldl_cons]
    refine Translated.trans ?_ (ih _)
    split
    · exact Translated.refl n s
    · next o ho =>
      split
      · next ea size acc ha =>
        split
        · next h =>
          simp only [Bool.and_eq_true, beq_iff_eq] at h
          refine s.noteTranslation_translated n i ea size acc o ho h.1.1 ?_ ha h.2
          have := h.1.2
          unfold Op.translates at this
          simp only [Bool.and_eq_true, Option.isNone_iff_eq_none] at this
          exact this.1
        · exact Translated.refl n s
      · exact Translated.refl n s

/-! ### New operations -/

theorem State.addOps_only (s : State) (l : List Op) : OpsOnly s (s.addOps l) := by
  unfold State.addOps
  induction l generalizing s with
  | nil => exact OpsOnly.refl s
  | cons o r ih => exact (s.addOp_only o).trans (ih _)

theorem State.addOps_next (s : State) (l : List Op) : (s.addOps l).next = s.next + l.length := by
  unfold State.addOps
  induction l generalizing s with
  | nil => rfl
  | cons o r ih =>
    rw [List.foldl_cons, ih]
    show s.next + 1 + r.length = s.next + (r.length + 1)
    omega

theorem State.find_addOps (s : State) (l : List Op) (j : Nat) :
    find (s.addOps l).ops j = if s.next ≤ j ∧ j < s.next + l.length then l[j - s.next]? else find s.ops j := by
  unfold State.addOps
  induction l generalizing s with
  | nil => rw [if_neg (by simp only [List.length_nil]; omega)]; rfl
  | cons o r ih =>
    rw [List.foldl_cons, ih]
    have h1 : (s.addOp o).next = s.next + 1 := rfl
    have h2 : find (s.addOp o).ops j = if s.next = j then some o else find s.ops j := find_insert s.ops s.next j o
    rw [h1, h2, List.length_cons]
    by_cases h : s.next + 1 ≤ j ∧ j < s.next + 1 + r.length
    · rw [if_pos h, if_pos (by omega), show j - s.next = (j - (s.next + 1)) + 1 by omega, List.getElem?_cons_succ]
    · rw [if_neg h]
      by_cases hj : s.next = j
      · subst hj; rw [if_pos rfl, if_pos (by omega)]; simp
      · rw [if_neg hj, if_neg (by omega)]

theorem State.addOps_issues (s : State) (l : List Op) : Issues s l (s.addOps l) where
  count := s.addOps_next l
  added := fun k o hk => ⟨o, by
    rw [State.find_addOps, if_pos ⟨by omega, by have := (List.getElem?_eq_some_iff.mp hk).1; omega⟩, Nat.add_sub_cancel_left, hk], o.sameBut_refl⟩
  kept := fun j o hj ho _ => by rw [State.find_addOps, if_neg (by omega), ho]
  absent := fun j hj hn => by rw [State.find_addOps, if_neg (by omega), hn]

theorem Issues.translated {s t w : State} {l : List Op} (h : Issues s l t) (k : Translated s.next t w) : Issues s l w where
  count := k.next.trans h.count
  added := fun j o hj => by
    obtain ⟨o1, h1, h2⟩ := h.added j o hj
    obtain ⟨o2, k1, k2, -⟩ := k.same _ _ h1
    exact ⟨o2, k1, Op.sameBut_trans h2 k2⟩
  kept := fun j o hj ho hn => by
    obtain ⟨o2, k1, -, k3⟩ := k.same _ _ (h.kept j o hj ho hn)
    rw [k1, k3 hn]
  absent := fun j hj hn => k.absent j (h.absent j hj hn)

theorem Ctx.addUni_eq (c : Ctx) (s : State) (o : Ord) (kind : OpKind) (place : Option Place) :
    c.addUni s o kind place = s.addOps [c.op o s.next c.lane0 c.act kind place] := rfl

theorem Ctx.addLanes_eq (c : Ctx) (s : State) (o : Ord) (kind : Nat → OpKind) (place : Nat → Option Place) :
    c.addLanes s o kind place = s.addOps ((lanes c.act).map fun l => c.op o s.next l (laneBit l) (kind l) (place l)) := by
  unfold Ctx.addLanes State.addOps
  rw [List.foldl_map]

/-- New operations, and the TLBs' answers: nothing else. -/
theorem State.issues_hits (s : State) (l : List Op) :
    Issues s l ((s.addOps l).translateHits s.next) ∧ ((s.addOps l).translateHits s.next).withOps s = s :=
  ⟨(s.addOps_issues l).translated (State.translateHits_translated _ _),
   ((s.addOps_only l).trans (State.translateHits_translated _ _).only).withOps⟩

end Sys2Proof.Machine
end

