-- ==== Sys2Proof/Laws/Encoding.lean ====
section
/-! SUPPORT. What the fields of an encoded word are: the words `Instr.encode` builds, read back by the decoder's field
functions. -/

namespace Sys2Proof

/-! ### Fields of appended bit vectors -/

/-- A field that lies in the high part. -/
theorem fld_append_high {v w lo n : Nat} (x : BitVec v) (y : BitVec w) (h : w ≤ lo) :
    (x ++ y).extractLsb' lo n = x.extractLsb' (lo - w) n := BitVec.extractLsb'_append_eq_of_le h

/-- A field that lies in the low part. -/
theorem fld_append_low {v w lo n : Nat} (x : BitVec v) (y : BitVec w) (h : lo + n ≤ w) :
    (x ++ y).extractLsb' lo n = y.extractLsb' lo n := BitVec.extractLsb'_append_eq_of_add_le h

/-- A whole vector as a field. -/
theorem fld_whole {w : Nat} (x : BitVec w) : x.extractLsb' 0 w = x := BitVec.extractLsb'_eq_self

theorem bit_append_high {v w i : Nat} (x : BitVec v) (y : BitVec w) (h : w ≤ i) :
    (x ++ y).getLsbD i = x.getLsbD (i - w) := by
  rw [BitVec.getLsbD_append, if_neg (Nat.not_lt.mpr h)]

theorem bit_append_low {v w i : Nat} (x : BitVec v) (y : BitVec w) (h : i < w) :
    (x ++ y).getLsbD i = y.getLsbD i := by
  rw [BitVec.getLsbD_append, if_pos h]

theorem bit_b1 (b : Bool) : (b1 b).getLsbD 0 = b := by cases b <;> rfl

/-! ### Words of formats A, I and B -/

theorem dOf_wA (op d a b : BitVec 8) : dOf (wA op d a b) = d := by
  unfold dOf fld wA
  rw [fld_append_high _ _ (by decide), fld_append_high _ _ (by decide), fld_append_low _ _ (by decide)]
  exact fld_whole d

theorem aOf_wA (op d a b : BitVec 8) : aOf (wA op d a b) = a := by
  unfold aOf fld wA
  rw [fld_append_high _ _ (by decide), fld_append_low _ _ (by decide)]
  exact fld_whole a

/-- A field inside the last byte. -/
theorem fld_wA_b (op d a b : BitVec 8) (lo n : Nat) (h : lo + n ≤ 8) : fld (wA op d a b) lo n = b.extractLsb' lo n := by
  unfold fld wA
  rw [fld_append_low _ _ h]

theorem bOf_wA (op d a b : BitVec 8) : bOf (wA op d a b) = b := by
  unfold bOf
  rw [fld_wA_b _ _ _ _ _ _ (by decide)]
  exact fld_whole b

theorem bit_wA_b (op d a b : BitVec 8) (i : Nat) (h : i < 8) : bit (wA op d a b) i = b.getLsbD i := by
  unfold bit wA
  rw [bit_append_low _ _ h]

/-- A field inside the second byte. -/
theorem fld_wA_d (op d a b : BitVec 8) (lo n : Nat) (h0 : 16 ≤ lo) (h : lo + n ≤ 24) :
    fld (wA op d a b) lo n = d.extractLsb' (lo - 16) n := by
  unfold fld wA
  rw [fld_append_high _ _ (by omega), fld_append_high _ _ (by omega), fld_append_low _ _ (by omega), Nat.sub_sub]

theorem op_wA (op d a b : BitVec 8) : (wA op d a b).toNat / 2 ^ 24 = op.toNat := by
  unfold wA
  have hd := d.isLt
  have ha := a.isLt
  have hb := b.isLt
  simp only [BitVec.toNat_append, Nat.shiftLeft_eq]
  rw [← Nat.shiftLeft_eq, ← Nat.shiftLeft_eq, ← Nat.shiftLeft_eq, ← Nat.shiftLeft_add_eq_or_of_lt hd,
    ← Nat.shiftLeft_add_eq_or_of_lt ha, ← Nat.shiftLeft_add_eq_or_of_lt hb]
  simp only [Nat.shiftLeft_eq]
  omega

theorem dOf_wI (op d : BitVec 8) (imm : BitVec 16) : dOf (wI op d imm) = d := by
  unfold dOf fld wI
  rw [fld_append_high _ _ (by decide), fld_append_low _ _ (by decide)]
  exact fld_whole d

theorem imm_wI (op d : BitVec 8) (imm : BitVec 16) : fld (wI op d imm) 0 16 = imm := by
  unfold fld wI
  rw [fld_append_low _ _ (by decide)]
  exact fld_whole imm

theorem op_wI (op d : BitVec 8) (imm : BitVec 16) : (wI op d imm).toNat / 2 ^ 24 = op.toNat := by
  unfold wI
  have hd := d.isLt
  have hi := imm.isLt
  rw [BitVec.toNat_append, BitVec.toNat_append, ← Nat.shiftLeft_add_eq_or_of_lt hd, ← Nat.shiftLeft_add_eq_or_of_lt hi]
  simp only [Nat.shiftLeft_eq]
  omega

theorem sel_wB (op : BitVec 8) (sel : BitVec 4) (off : BitVec 20) : fld (wB op sel off) 20 4 = sel := by
  unfold fld wB
  rw [fld_append_high _ _ (by decide), fld_append_low _ _ (by decide)]
  exact fld_whole sel

theorem off_wB (op : BitVec 8) (sel : BitVec 4) (off : BitVec 20) : fld (wB op sel off) 0 20 = off := by
  unfold fld wB
  rw [fld_append_low _ _ (by decide)]
  exact fld_whole off

theorem op_wB (op : BitVec 8) (sel : BitVec 4) (off : BitVec 20) : (wB op sel off).toNat / 2 ^ 24 = op.toNat := by
  unfold wB
  have hd := sel.isLt
  have hi := off.isLt
  rw [BitVec.toNat_append, BitVec.toNat_append, ← Nat.shiftLeft_add_eq_or_of_lt hd, ← Nat.shiftLeft_add_eq_or_of_lt hi]
  simp only [Nat.shiftLeft_eq]
  omega

/-! ### The prefix and the ordering word -/

theorem op_pfx (p : Pfx) : p.word.toNat / 2 ^ 24 = 0x7F := by
  obtain ⟨m, r, z, f, f4, t, h⟩ := p
  have hm := m.isLt; have hr := r.isLt; have hz := (b1 z).isLt; have hf := (b1 f).isLt
  have h4 := f4.isLt; have ht := t.isLt; have hh := h.isLt
  simp only [Pfx.word, BitVec.toNat_append]
  rw [← Nat.shiftLeft_add_eq_or_of_lt hm, ← Nat.shiftLeft_add_eq_or_of_lt hr, ← Nat.shiftLeft_add_eq_or_of_lt hz,
    ← Nat.shiftLeft_add_eq_or_of_lt hf, ← Nat.shiftLeft_add_eq_or_of_lt h4, ← Nat.shiftLeft_add_eq_or_of_lt ht,
    ← Nat.shiftLeft_add_eq_or_of_lt hh]
  simp only [Nat.shiftLeft_eq, BitVec.toNat_ofNat]
  omega

/-- The prefix word reads back as the prefix. -/
theorem pfxOf_word (p : Pfx) : pfxOf p.word = p := by
  obtain ⟨m, r, z, f, f4, t, h⟩ := p
  unfold pfxOf fld bit Pfx.word
  congr 1
  · rw [fld_append_high _ _ (by decide), fld_append_high _ _ (by decide), fld_append_high _ _ (by decide),
      fld_append_high _ _ (by decide), fld_append_high _ _ (by decide), fld_append_high _ _ (by decide),
      fld_append_low _ _ (by decide)]
    exact fld_whole m
  · rw [fld_append_high _ _ (by decide), fld_append_high _ _ (by decide), fld_append_high _ _ (by decide),
      fld_append_high _ _ (by decide), fld_append_high _ _ (by decide), fld_append_low _ _ (by decide)]
    exact fld_whole r
  · rw [bit_append_high _ _ (by decide), bit_append_high _ _ (by decide), bit_append_high _ _ (by decide),
      bit_append_high _ _ (by decide), bit_append_low _ _ (by decide)]
    exact bit_b1 z
  · rw [bit_append_high _ _ (by decide), bit_append_high _ _ (by decide), bit_append_high _ _ (by decide),
      bit_append_low _ _ (by decide)]
    exact bit_b1 f
  · rw [fld_append_high _ _ (by decide), fld_append_high _ _ (by decide), fld_append_low _ _ (by decide)]
    exact fld_whole f4
  · rw [fld_append_high _ _ (by decide), fld_append_low _ _ (by decide)]
    exact fld_whole t
  · rw [fld_append_low _ _ (by decide)]
    exact fld_whole h

/-- The ordering word reads back as its fields. -/
theorem ordOf_word (o : Ord) : ordOf o.word = o := by
  obtain ⟨st, pr, sc, v, po, oh, off⟩ := o
  unfold ordOf fld bit Ord.word
  congr 1
  · rw [fld_append_high _ _ (by decide), fld_append_high _ _ (by decide), fld_append_high _ _ (by decide),
      fld_append_high _ _ (by decide), fld_append_high _ _ (by decide), fld_append_high _ _ (by decide)]
    exact fld_whole st
  · rw [fld_append_high _ _ (by decide), fld_append_high _ _ (by decide), fld_append_high _ _ (by decide),
      fld_append_high _ _ (by decide), fld_append_high _ _ (by decide), fld_append_low _ _ (by decide)]
    exact fld_whole pr
  · rw [fld_append_high _ _ (by decide), fld_append_high _ _ (by decide), fld_append_high _ _ (by decide),
      fld_append_high _ _ (by decide), fld_append_low _ _ (by decide)]
    exact fld_whole sc
  · rw [bit_append_high _ _ (by decide), bit_append_high _ _ (by decide), bit_append_high _ _ (by decide),
      bit_append_low _ _ (by decide)]
    exact bit_b1 v
  · rw [fld_append_high _ _ (by decide), fld_append_high _ _ (by decide), fld_append_low _ _ (by decide)]
    exact fld_whole po
  · rw [fld_append_high _ _ (by decide), fld_append_low _ _ (by decide)]
    exact fld_whole oh
  · rw [fld_append_low _ _ (by decide)]
    exact fld_whole off

end Sys2Proof
end

