-- ==== Sys2Proof/Laws/Exec.lean ====
section
/-! SUPPORT. The meaning the dispatcher calls, constructor by constructor, so that no proof unfolds the whole dispatch. -/

namespace Sys2Proof.Machine

theorem exec_nop (s : State) : exec (.nop) s = execNop s := rfl
theorem exec_bra (off : BitVec 20) (s : State) : exec (.bra off) s = execBra off s := rfl
theorem exec_brc (k : BitVec 4) (off : BitVec 20) (s : State) : exec (.brc k off) s = execBrc k off s := rfl
theorem exec_call (off : BitVec 20) (s : State) : exec (.call off) s = execCall off s := rfl
theorem exec_ret (s : State) : exec (.ret) s = execRet s := rfl
theorem exec_retPair (p : Reg) (s : State) : exec (.retPair p) s = execRetPair p s := rfl
theorem exec_jmpi (p : Reg) (s : State) : exec (.jmpi p) s = execJmpi p s := rfl
theorem exec_calli (p : Reg) (s : State) : exec (.calli p) s = execCalli p s := rfl
theorem exec_calliLink (d p : Reg) (s : State) : exec (.calliLink d p) s = execCalliLink d p s := rfl
theorem exec_exit (s : State) : exec (.exit) s = execExit s := rfl
theorem exec_vote (k : BitVec 8) (x : Reg) (v : BitVec 2) (s : State) : exec (.vote k x v) s = execVote k x v s := rfl
theorem exec_bru (off : BitVec 20) (s : State) : exec (.bru off) s = execBru off s := rfl
theorem exec_bruMask (k : BitVec 4) (off : BitVec 20) (s : State) : exec (.bruMask k off) s = execBruMask k off s := rfl
theorem exec_join (k : BitVec 8) (s : State) : exec (.join k) s = execJoin k s := rfl
theorem exec_leave (k : BitVec 8) (s : State) : exec (.leave k) s = execLeave k s := rfl
theorem exec_waitm (k : BitVec 8) (s : State) : exec (.waitm k) s = execWaitm k s := rfl
theorem exec_mand (k a b : BitVec 8) (s : State) : exec (.mand k a b) s = execMand k a b s := rfl
theorem exec_mor (k a b : BitVec 8) (s : State) : exec (.mor k a b) s = execMor k a b s := rfl
theorem exec_mxor (k a b : BitVec 8) (s : State) : exec (.mxor k a b) s = execMxor k a b s := rfl
theorem exec_mandn (k a b : BitVec 8) (s : State) : exec (.mandn k a b) s = execMandn k a b s := rfl
theorem exec_mmovMM (k a : BitVec 8) (s : State) : exec (.mmovMM k a) s = execMmovMM k a s := rfl
theorem exec_mmovMG (k : BitVec 8) (a : Reg) (s : State) : exec (.mmovMG k a) s = execMmovMG k a s := rfl
theorem exec_mmovGM (d : Reg) (a : BitVec 8) (s : State) : exec (.mmovGM d a) s = execMmovGM d a s := rfl
theorem exec_yieldGang (s : State) : exec (.yieldGang) s = execYieldGang s := rfl
theorem exec_sleep (x : Reg) (s : State) : exec (.sleep x) s = execSleep x s := rfl
theorem exec_roleGet (d : Reg) (s : State) : exec (.roleGet d) s = execRoleGet d s := rfl
theorem exec_roleSet (x : Reg) (s : State) : exec (.roleSet x) s = execRoleSet x s := rfl
theorem exec_mpop (d : Reg) (a : BitVec 8) (v : BitVec 2) (s : State) : exec (.mpop d a v) s = execMpop d a v s := rfl
theorem exec_add (p : OPfx) (d a b : Reg) (s : State) : exec (.add p d a b) s = execAdd p d a b s := rfl
theorem exec_sub (p : OPfx) (d a b : Reg) (s : State) : exec (.sub p d a b) s = execSub p d a b s := rfl
theorem exec_addc (p : OPfx) (d a b : Reg) (s : State) : exec (.addc p d a b) s = execAddc p d a b s := rfl
theorem exec_mul (p : OPfx) (d a b : Reg) (s : State) : exec (.mul p d a b) s = execMul p d a b s := rfl
theorem exec_mulh (p : OPfx) (d a b : Reg) (s : State) : exec (.mulh p d a b) s = execMulh p d a b s := rfl
theorem exec_mad (p : OPfx) (d a b : Reg) (s : State) : exec (.mad p d a b) s = execMad p d a b s := rfl
theorem exec_div (p : OPfx) (d a b : Reg) (s : State) : exec (.div p d a b) s = execDiv p d a b s := rfl
theorem exec_rem (p : OPfx) (d a b : Reg) (s : State) : exec (.rem p d a b) s = execRem p d a b s := rfl
theorem exec_min (p : OPfx) (d a b : Reg) (s : State) : exec (.min p d a b) s = execMin p d a b s := rfl
theorem exec_max (p : OPfx) (d a b : Reg) (s : State) : exec (.max p d a b) s = execMax p d a b s := rfl
theorem exec_abs (p : OPfx) (d a : Reg) (s : State) : exec (.abs p d a) s = execAbs p d a s := rfl
theorem exec_and (p : OPfx) (d a b : Reg) (s : State) : exec (.and p d a b) s = execAnd p d a b s := rfl
theorem exec_or (p : OPfx) (d a b : Reg) (s : State) : exec (.or p d a b) s = execOr p d a b s := rfl
theorem exec_xor (p : OPfx) (d a b : Reg) (s : State) : exec (.xor p d a b) s = execXor p d a b s := rfl
theorem exec_andn (p : OPfx) (d a b : Reg) (s : State) : exec (.andn p d a b) s = execAndn p d a b s := rfl
theorem exec_shl (p : OPfx) (d a b : Reg) (s : State) : exec (.shl p d a b) s = execShl p d a b s := rfl
theorem exec_shr (p : OPfx) (d a b : Reg) (s : State) : exec (.shr p d a b) s = execShr p d a b s := rfl
theorem exec_fsh (p : OPfx) (d a b : Reg) (s : State) : exec (.fsh p d a b) s = execFsh p d a b s := rfl
theorem exec_bfx (p : OPfx) (d a b : Reg) (s : State) : exec (.bfx p d a b) s = execBfx p d a b s := rfl
theorem exec_bfi (p : OPfx) (d a b : Reg) (s : State) : exec (.bfi p d a b) s = execBfi p d a b s := rfl
theorem exec_popc (p : OPfx) (d a : Reg) (s : State) : exec (.popc p d a) s = execPopc p d a s := rfl
theorem exec_clz (p : OPfx) (d a : Reg) (s : State) : exec (.clz p d a) s = execClz p d a s := rfl
theorem exec_ctz (p : OPfx) (d a : Reg) (s : State) : exec (.ctz p d a) s = execCtz p d a s := rfl
theorem exec_brev (p : OPfx) (d a : Reg) (s : State) : exec (.brev p d a) s = execBrev p d a s := rfl
theorem exec_sel (p : OPfx) (d a b : Reg) (s : State) : exec (.sel p d a b) s = execSel p d a b s := rfl
theorem exec_cmpm (p : OPfx) (cc k : BitVec 4) (a b : Reg) (s : State) : exec (.cmpm p cc k a b) s = execCmpm p cc k a b s := rfl
theorem exec_movi (p : OPfx) (d : Reg) (imm : BitVec 16) (s : State) : exec (.movi p d imm) s = execMovi p d imm s := rfl
theorem exec_movh (p : OPfx) (d : Reg) (imm : BitVec 16) (s : State) : exec (.movh p d imm) s = execMovh p d imm s := rfl
theorem exec_addi (p : OPfx) (d : Reg) (imm : BitVec 16) (s : State) : exec (.addi p d imm) s = execAddi p d imm s := rfl
theorem exec_mov (p : OPfx) (d a : Reg) (s : State) : exec (.mov p d a) s = execMov p d a s := rfl
theorem exec_lea (p : OPfx) (d a b : Reg) (s : State) : exec (.lea p d a b) s = execLea p d a b s := rfl
theorem exec_uadd (d a b : Reg) (s : State) : exec (.uadd d a b) s = execUadd d a b s := rfl
theorem exec_usub (d a b : Reg) (s : State) : exec (.usub d a b) s = execUsub d a b s := rfl
theorem exec_umul (d a b : Reg) (s : State) : exec (.umul d a b) s = execUmul d a b s := rfl
theorem exec_uand (d a b : Reg) (s : State) : exec (.uand d a b) s = execUand d a b s := rfl
theorem exec_uor (d a b : Reg) (s : State) : exec (.uor d a b) s = execUor d a b s := rfl
theorem exec_uxor (d a b : Reg) (s : State) : exec (.uxor d a b) s = execUxor d a b s := rfl
theorem exec_ushl (d a b : Reg) (s : State) : exec (.ushl d a b) s = execUshl d a b s := rfl
theorem exec_ushr (d a b : Reg) (s : State) : exec (.ushr d a b) s = execUshr d a b s := rfl
theorem exec_umovi (d : Reg) (imm : BitVec 16) (s : State) : exec (.umovi d imm) s = execUmovi d imm s := rfl
theorem exec_umovh (d : Reg) (imm : BitVec 16) (s : State) : exec (.umovh d imm) s = execUmovh d imm s := rfl
theorem exec_shfi (p : OPfx) (d a : Reg) (wid : BitVec 3) (flg : BitVec 4) (s : State) : exec (.shfi p d a wid flg) s = execShfi p d a wid flg s := rfl
theorem exec_shfu (p : OPfx) (d a : Reg) (wid : BitVec 3) (flg : BitVec 4) (s : State) : exec (.shfu p d a wid flg) s = execShfu p d a wid flg s := rfl
theorem exec_shfd (p : OPfx) (d a : Reg) (wid : BitVec 3) (flg : BitVec 4) (s : State) : exec (.shfd p d a wid flg) s = execShfd p d a wid flg s := rfl
theorem exec_shfx (p : OPfx) (d a : Reg) (wid : BitVec 3) (flg : BitVec 4) (s : State) : exec (.shfx p d a wid flg) s = execShfx p d a wid flg s := rfl
theorem exec_cxs (p : OPfx) (d a : Reg) (rev : Bool) (lk lj : BitVec 3) (s : State) : exec (.cxs p d a rev lk lj) s = execCxs p d a rev lk lj s := rfl
theorem exec_perm (p : OPfx) (d a b : Reg) (s : State) : exec (.perm p d a b) s = execPerm p d a b s := rfl
theorem exec_scan (p : OPfx) (d a : Reg) (wid : BitVec 3) (ex : Bool) (op : BitVec 2) (s : State) : exec (.scan p d a wid ex op) s = execScan p d a wid ex op s := rfl
theorem exec_fadd (p : OPfx) (d a b : Reg) (s : State) : exec (.fadd p d a b) s = execFadd p d a b s := rfl
theorem exec_fsub (p : OPfx) (d a b : Reg) (s : State) : exec (.fsub p d a b) s = execFsub p d a b s := rfl
theorem exec_fmul (p : OPfx) (d a b : Reg) (s : State) : exec (.fmul p d a b) s = execFmul p d a b s := rfl
theorem exec_ffma (p : OPfx) (d a b : Reg) (s : State) : exec (.ffma p d a b) s = execFfma p d a b s := rfl
theorem exec_fmin (p : OPfx) (d a b : Reg) (s : State) : exec (.fmin p d a b) s = execFmin p d a b s := rfl
theorem exec_fmax (p : OPfx) (d a b : Reg) (s : State) : exec (.fmax p d a b) s = execFmax p d a b s := rfl
theorem exec_fabs (p : OPfx) (d a : Reg) (s : State) : exec (.fabs p d a) s = execFabs p d a s := rfl
theorem exec_fneg (p : OPfx) (d a : Reg) (s : State) : exec (.fneg p d a) s = execFneg p d a s := rfl
theorem exec_fcmp (p : OPfx) (cc k : BitVec 4) (a b : Reg) (s : State) : exec (.fcmp p cc k a b) s = execFcmp p cc k a b s := rfl
theorem exec_fcvt (p : OPfx) (d a : Reg) (st : BitVec 8) (s : State) : exec (.fcvt p d a st) s = execFcvt p d a st s := rfl
theorem exec_fcvti (p : OPfx) (d a : Reg) (st : BitVec 8) (s : State) : exec (.fcvti p d a st) s = execFcvti p d a st s := rfl
theorem exec_icvtf (p : OPfx) (d a : Reg) (st : BitVec 8) (s : State) : exec (.icvtf p d a st) s = execIcvtf p d a st s := rfl
theorem exec_fadd2 (p : OPfx) (d a b : Reg) (s : State) : exec (.fadd2 p d a b) s = execFadd2 p d a b s := rfl
theorem exec_fmul2 (p : OPfx) (d a b : Reg) (s : State) : exec (.fmul2 p d a b) s = execFmul2 p d a b s := rfl
theorem exec_ffma2 (p : OPfx) (d a b : Reg) (s : State) : exec (.ffma2 p d a b) s = execFfma2 p d a b s := rfl
theorem exec_fclass (p : OPfx) (d a : Reg) (s : State) : exec (.fclass p d a) s = execFclass p d a s := rfl
theorem exec_sfq (p : OPfx) (d a : Reg) (tok fn : BitVec 4) (s : State) : exec (.sfq p d a tok fn) s = execSfq p d a tok fn s := rfl
theorem exec_sfwait (p : OPfx) (m : BitVec 16) (s : State) : exec (.sfwait p m) s = execSfwait p m s := rfl
theorem exec_frnd (p : OPfx) (d a : Reg) (s : State) : exec (.frnd p d a) s = execFrnd p d a s := rfl
theorem exec_fscl (p : OPfx) (d a b : Reg) (s : State) : exec (.fscl p d a b) s = execFscl p d a b s := rfl
theorem exec_fdiv (p : OPfx) (d a b : Reg) (s : State) : exec (.fdiv p d a b) s = execFdiv p d a b s := rfl
theorem exec_fsqrt (p : OPfx) (d a : Reg) (s : State) : exec (.fsqrt p d a) s = execFsqrt p d a s := rfl
theorem exec_swait (sm : BitVec 8) (n : BitVec 8) (s : State) : exec (.swait sm n) s = execSwait sm n s := rfl
theorem exec_ldg (p : OPfx) (d a : Reg) (x4 : Bool) (o : Ord) (s : State) : exec (.ldg p d a x4 o) s = execLdg p d a x4 o s := rfl
theorem exec_stg (p : OPfx) (d a : Reg) (x4 : Bool) (o : Ord) (s : State) : exec (.stg p d a x4 o) s = execStg p d a x4 o s := rfl
theorem exec_lds (p : OPfx) (d a : Reg) (x4 : Bool) (o : Ord) (s : State) : exec (.lds p d a x4 o) s = execLds p d a x4 o s := rfl
theorem exec_sts (p : OPfx) (d a : Reg) (x4 : Bool) (o : Ord) (s : State) : exec (.sts p d a x4 o) s = execSts p d a x4 o s := rfl
theorem exec_ldp (p : OPfx) (d a : Reg) (x4 : Bool) (o : Ord) (s : State) : exec (.ldp p d a x4 o) s = execLdp p d a x4 o s := rfl
theorem exec_stp (p : OPfx) (d a : Reg) (x4 : Bool) (o : Ord) (s : State) : exec (.stp p d a x4 o) s = execStp p d a x4 o s := rfl
theorem exec_pfg (p : OPfx) (a : Reg) (lvl : Bool) (o : Ord) (s : State) : exec (.pfg p a lvl o) s = execPfg p a lvl o s := rfl
theorem exec_uldg (d a : Reg) (sz : BitVec 2) (o : Ord) (s : State) : exec (.uldg d a sz o) s = execUldg d a sz o s := rfl
theorem exec_ustg (d a : Reg) (sz : BitVec 2) (o : Ord) (s : State) : exec (.ustg d a sz o) s = execUstg d a sz o s := rfl
theorem exec_ulds (d a : Reg) (sz : BitVec 2) (o : Ord) (s : State) : exec (.ulds d a sz o) s = execUlds d a sz o s := rfl
theorem exec_usts (d a : Reg) (sz : BitVec 2) (o : Ord) (s : State) : exec (.usts d a sz o) s = execUsts d a sz o s := rfl
theorem exec_atom (p : OPfx) (d a : Reg) (op : BitVec 4) (sp : BitVec 2) (o : Ord) (s : State) : exec (.atom p d a op sp o) s = execAtom p d a op sp o s := rfl
theorem exec_cas (p : OPfx) (d a : Reg) (sp : BitVec 2) (o : Ord) (s : State) : exec (.cas p d a sp o) s = execCas p d a sp o s := rfl
theorem exec_cas128 (p : OPfx) (d a : Reg) (sp : BitVec 2) (o : Ord) (s : State) : exec (.cas128 p d a sp o) s = execCas128 p d a sp o s := rfl
theorem exec_red (p : OPfx) (d a : Reg) (op : BitVec 4) (sp : BitVec 2) (o : Ord) (s : State) : exec (.red p d a op sp o) s = execRed p d a op sp o s := rfl
theorem exec_uatom (d a : Reg) (op : BitVec 4) (w sg : Bool) (sp : BitVec 2) (o : Ord) (s : State) : exec (.uatom d a op w sg sp o) s = execUatom d a op w sg sp o s := rfl
theorem exec_ucas (d a : Reg) (w : Bool) (sp : BitVec 2) (o : Ord) (s : State) : exec (.ucas d a w sp o) s = execUcas d a w sp o s := rfl
theorem exec_barr (bar : BitVec 5) (o : Ord) (s : State) : exec (.barr bar o) s = execBarr bar o s := rfl
theorem exec_barrPhase (d : Reg) (bar : BitVec 5) (o : Ord) (s : State) : exec (.barrPhase d bar o) s = execBarrPhase d bar o s := rfl
theorem exec_barw (x : Reg) (bar : BitVec 5) (o : Ord) (s : State) : exec (.barw x bar o) s = execBarw x bar o s := rfl
theorem exec_bars (x : Reg) (bar : BitVec 5) (o : Ord) (s : State) : exec (.bars x bar o) s = execBars x bar o s := rfl
theorem exec_tkt (d x : Reg) (o : Ord) (s : State) : exec (.tkt d x o) s = execTkt d x o s := rfl
theorem exec_tktw (x y : Reg) (s : State) : exec (.tktw x y) s = execTktw x y s := rfl
theorem exec_tktsNext (x : Reg) (o : Ord) (s : State) : exec (.tktsNext x o) s = execTktsNext x o s := rfl
theorem exec_tktsSet (x y : Reg) (o : Ord) (s : State) : exec (.tktsSet x y o) s = execTktsSet x y o s := rfl
theorem exec_qlk (d x : Reg) (o : Ord) (s : State) : exec (.qlk d x o) s = execQlk d x o s := rfl
theorem exec_qul (x : Reg) (o : Ord) (s : State) : exec (.qul x o) s = execQul x o s := rfl
theorem exec_barge (a : Reg) (o : Ord) (s : State) : exec (.barge a o) s = execBarge a o s := rfl
theorem exec_tagw (a : Reg) (any : Bool) (s : State) : exec (.tagw a any) s = execTagw a any s := rfl
theorem exec_tagf (d a : Reg) (clr : Bool) (s : State) : exec (.tagf d a clr) s = execTagf d a clr s := rfl
theorem exec_tagclr (a : Reg) (s : State) : exec (.tagclr a) s = execTagclr a s := rfl
theorem exec_rawait (d a : Reg) (free : Bool) (o : Ord) (s : State) : exec (.rawait d a free o) s = execRawait d a free o s := rfl
theorem exec_rarel (a : Reg) (o : Ord) (s : State) : exec (.rarel a o) s = execRarel a o s := rfl
theorem exec_rapub (a : Reg) (o : Ord) (s : State) : exec (.rapub a o) s = execRapub a o s := rfl
theorem exec_waity (a : Reg) (mode : BitVec 2) (s : State) : exec (.waity a mode) s = execWaity a mode s := rfl
theorem exec_ioreq (p : OPfx) (a : Reg) (o : Ord) (s : State) : exec (.ioreq p a o) s = execIoreq p a o s := rfl
theorem exec_eadd (p : OPfx) (d a b : Reg) (s : State) : exec (.eadd p d a b) s = execEadd p d a b s := rfl
theorem exec_esub (p : OPfx) (d a b : Reg) (s : State) : exec (.esub p d a b) s = execEsub p d a b s := rfl
theorem exec_emul (p : OPfx) (d a b : Reg) (s : State) : exec (.emul p d a b) s = execEmul p d a b s := rfl
theorem exec_ediv (p : OPfx) (d a b : Reg) (s : State) : exec (.ediv p d a b) s = execEdiv p d a b s := rfl
theorem exec_esqrt (p : OPfx) (d a : Reg) (s : State) : exec (.esqrt p d a) s = execEsqrt p d a s := rfl
theorem exec_eneg (p : OPfx) (d a : Reg) (s : State) : exec (.eneg p d a) s = execEneg p d a s := rfl
theorem exec_esq (p : OPfx) (d a : Reg) (s : State) : exec (.esq p d a) s = execEsq p d a s := rfl
theorem exec_efma (p : OPfx) (d a b : Reg) (s : State) : exec (.efma p d a b) s = execEfma p d a b s := rfl
theorem exec_eleaf (p : OPfx) (d x : Reg) (s : State) : exec (.eleaf p d x) s = execEleaf p d x s := rfl
theorem exec_eleafi (p : OPfx) (d x : Reg) (s : State) : exec (.eleafi p d x) s = execEleafi p d x s := rfl
theorem exec_emov (p : OPfx) (d a : Reg) (adopt : Bool) (s : State) : exec (.emov p d a adopt) s = execEmov p d a adopt s := rfl
theorem exec_ebnd (p : OPfx) (d a : Reg) (v : BitVec 2) (s : State) : exec (.ebnd p d a v) s = execEbnd p d a v s := rfl
theorem exec_esever (p : OPfx) (d a : Reg) (opaq : Bool) (s : State) : exec (.esever p d a opaq) s = execEsever p d a opaq s := rfl
theorem exec_ewid (p : OPfx) (d a : Reg) (rel : Bool) (s : State) : exec (.ewid p d a rel) s = execEwid p d a rel s := rfl
theorem exec_ecmp (p : OPfx) (cc k : BitVec 4) (a : Reg) (u : BitVec 4) (s : State) : exec (.ecmp p cc k a u) s = execEcmp p cc k a u s := rfl
theorem exec_esgn (p : OPfx) (d a : Reg) (u : BitVec 4) (s : State) : exec (.esgn p d a u) s = execEsgn p d a u s := rfl
theorem exec_mma (p : OPfx) (a b : Reg) (o : Ord) (e : MmaWord) (s : State) : exec (.mma p a b o e) s = execMma p a b o e s := rfl
theorem exec_accz (p : OPfx) (o : Ord) (acc : BitVec 3) (s : State) : exec (.accz p o acc) s = execAccz p o acc s := rfl
theorem exec_accrd (p : OPfx) (d : Reg) (o : Ord) (acc : BitVec 3) (form : BitVec 2) (fin : Bool) (s : State) : exec (.accrd p d o acc form fin) s = execAccrd p d o acc form fin s := rfl
theorem exec_accwr (p : OPfx) (a : Reg) (o : Ord) (acc : BitVec 3) (form : BitVec 2) (s : State) : exec (.accwr p a o acc form) s = execAccwr p a o acc form s := rfl
theorem exec_qnt (p : OPfx) (d a : Reg) (o : Ord) (e : QntWord) (s : State) : exec (.qnt p d a o e) s = execQnt p d a o e s := rfl
theorem exec_dqnt (p : OPfx) (d a : Reg) (o : Ord) (e : QntWord) (s : State) : exec (.dqnt p d a o e) s = execDqnt p d a o e s := rfl
theorem exec_ctbl (p : OPfx) (a : Reg) (o : Ord) (s : State) : exec (.ctbl p a o) s = execCtbl p a o s := rfl
theorem exec_wcfg (p : OPfx) (a : Reg) (o : Ord) (s : State) : exec (.wcfg p a o) s = execWcfg p a o s := rfl
theorem exec_wsig (p : OPfx) (d a : Reg) (o : Ord) (bf : Bool) (s : State) : exec (.wsig p d a o bf) s = execWsig p d a o bf s := rfl
theorem exec_wtest (p : OPfx) (d x c : Reg) (o : Ord) (n : Reg) (skm : BitVec 4) (s : State) : exec (.wtest p d x c o n skm) s = execWtest p d x c o n skm s := rfl
theorem exec_wskip (p : OPfx) (d x : Reg) (o : Ord) (v : BitVec 2) (s : State) : exec (.wskip p d x o v) s = execWskip p d x o v s := rfl
theorem exec_wstep (p : OPfx) (o : Ord) (s : State) : exec (.wstep p o) s = execWstep p o s := rfl
theorem exec_wstepSet (p : OPfx) (x : Reg) (o : Ord) (s : State) : exec (.wstepSet p x o) s = execWstepSet p x o s := rfl
theorem exec_nbrk (p : OPfx) (a : Reg) (o : Ord) (t : TagWord) (s : State) : exec (.nbrk p a o t) s = execNbrk p a o t s := rfl
theorem exec_nbrr (p : OPfx) (a : Reg) (o : Ord) (t : TagWord) (s : State) : exec (.nbrr p a o t) s = execNbrr p a o t s := rfl
theorem exec_siteh (p : OPfx) (a : Reg) (o : Ord) (t : TagWord) (s : State) : exec (.siteh p a o t) s = execSiteh p a o t s := rfl
theorem exec_rule (p : OPfx) (a : Reg) (o : Ord) (t : TagWord) (s : State) : exec (.rule p a o t) s = execRule p a o t s := rfl
theorem exec_ruleSub (p : OPfx) (a : Reg) (o : Ord) (t : TagWord) (s : State) : exec (.ruleSub p a o t) s = execRuleSub p a o t s := rfl
theorem exec_pgat (p : OPfx) (a : Reg) (o : Ord) (f32 : Bool) (t : TagWord) (s : State) : exec (.pgat p a o f32 t) s = execPgat p a o f32 t s := rfl
theorem exec_psca (p : OPfx) (a : Reg) (o : Ord) (t : TagWord) (s : State) : exec (.psca p a o t) s = execPsca p a o t s := rfl
theorem exec_spawn (x a b : Reg) (o : Ord) (s : State) : exec (.spawn x a b o) s = execSpawn x a b o s := rfl
theorem exec_bflush (x : Reg) (s : State) : exec (.bflush x) s = execBflush x s := rfl
theorem exec_bflushAll (s : State) : exec (.bflushAll) s = execBflushAll s := rfl
theorem exec_claim (n : BitVec 4) (s : State) : exec (.claim n) s = execClaim n s := rfl
theorem exec_claimTry (d : Reg) (n : BitVec 4) (s : State) : exec (.claimTry d n) s = execClaimTry d n s := rfl
theorem exec_give (n : BitVec 4) (s : State) : exec (.give n) s = execGive n s := rfl
theorem exec_giveRole (r : BitVec 2) (n : BitVec 4) (s : State) : exec (.giveRole r n) s = execGiveRole r n s := rfl
theorem exec_cyield (s : State) : exec (.cyield) s = execCyield s := rfl
theorem exec_tdone (k : BitVec 8) (act : BitVec 2) (s : State) : exec (.tdone k act) s = execTdone k act s := rfl
theorem exec_qlen (d q : Reg) (room : Bool) (s : State) : exec (.qlen d q room) s = execQlen d q room s := rfl
theorem exec_mcst (x a : Reg) (sz : BitVec 2) (o : Ord) (s : State) : exec (.mcst x a sz o) s = execMcst x a sz o s := rfl
theorem exec_rchk (d a : Reg) (o : Ord) (s : State) : exec (.rchk d a o) s = execRchk d a o s := rfl
theorem exec_resync (a : Reg) (o : Ord) (s : State) : exec (.resync a o) s = execResync a o s := rfl
theorem exec_slotq (d : Reg) (v : BitVec 2) (s : State) : exec (.slotq d v) s = execSlotq d v s := rfl
theorem exec_slotr (d : Reg) (s : State) : exec (.slotr d) s = execSlotr d s := rfl
theorem exec_slotw (x : Reg) (s : State) : exec (.slotw x) s = execSlotw x s := rfl
theorem exec_rstat (d a : Reg) (s : State) : exec (.rstat d a) s = execRstat d a s := rfl
theorem exec_trap (n : BitVec 8) (s : State) : exec (.trap n) s = execTrap n s := rfl
theorem exec_brk (n : BitVec 8) (s : State) : exec (.brk n) s = execBrk n s := rfl
theorem exec_eret (s : State) : exec (.eret) s = execEret s := rfl
theorem exec_eretKill (s : State) : exec (.eretKill) s = execEretKill s := rfl
theorem exec_csrr (d : Reg) (n : BitVec 16) (s : State) : exec (.csrr d n) s = execCsrr d n s := rfl
theorem exec_csrw (x : Reg) (n : BitVec 16) (s : State) : exec (.csrw x n) s = execCsrw x n s := rfl
theorem exec_tlbiAll (o : Ord) (s : State) : exec (.tlbiAll o) s = execTlbiAll o s := rfl
theorem exec_tlbiVa (a : Reg) (o : Ord) (s : State) : exec (.tlbiVa a o) s = execTlbiVa a o s := rfl
theorem exec_iclock (d a b : Reg) (s : State) : exec (.iclock d a b) s = execIclock d a b s := rfl
theorem exec_icunlk (a b : Reg) (s : State) : exec (.icunlk a b) s = execIcunlk a b s := rfl
theorem exec_keyld (x a : Reg) (o : Ord) (s : State) : exec (.keyld x a o) s = execKeyld x a o s := rfl
theorem exec_ctxsv (a : Reg) (o : Ord) (s : State) : exec (.ctxsv a o) s = execCtxsv a o s := rfl
theorem exec_ctxld (a : Reg) (o : Ord) (s : State) : exec (.ctxld a o) s = execCtxld a o s := rfl
theorem exec_dbgh (a : Reg) (v : BitVec 2) (s : State) : exec (.dbgh a v) s = execDbgh a v s := rfl
theorem exec_sleepEnd (s : State) : exec (.sleepEnd) s = execSleepEnd s := rfl
theorem exec_starvationTurn (s : State) : exec (.starvationTurn) s = execStarvationTurn s := rfl
theorem exec_sfqComplete (s : State) : exec (.sfqComplete) s = execSfqComplete s := rfl
theorem exec_loadComplete (s : State) : exec (.loadComplete) s = execLoadComplete s := rfl
theorem exec_storeComplete (s : State) : exec (.storeComplete) s = execStoreComplete s := rfl
theorem exec_prefetchComplete (s : State) : exec (.prefetchComplete) s = execPrefetchComplete s := rfl
theorem exec_pageTableWalk (s : State) : exec (.pageTableWalk) s = execPageTableWalk s := rfl
theorem exec_replay (s : State) : exec (.replay) s = execReplay s := rfl
theorem exec_operationFailure (s : State) : exec (.operationFailure) s = execOperationFailure s := rfl
theorem exec_hostCompletionTimeout (s : State) : exec (.hostCompletionTimeout) s = execHostCompletionTimeout s := rfl
theorem exec_atomicPerform (s : State) : exec (.atomicPerform) s = execAtomicPerform s := rfl
theorem exec_atomicComplete (s : State) : exec (.atomicComplete) s = execAtomicComplete s := rfl
theorem exec_barrierArrivalCounts (s : State) : exec (.barrierArrivalCounts) s = execBarrierArrivalCounts s := rfl
theorem exec_barsActs (s : State) : exec (.barsActs) s = execBarsActs s := rfl
theorem exec_tktwWake (s : State) : exec (.tktwWake) s = execTktwWake s := rfl
theorem exec_tktsUpdate (s : State) : exec (.tktsUpdate) s = execTktsUpdate s := rfl
theorem exec_qlkGrant (s : State) : exec (.qlkGrant) s = execQlkGrant s := rfl
theorem exec_qulRelease (s : State) : exec (.qulRelease) s = execQulRelease s := rfl
theorem exec_bargeEngineTake (s : State) : exec (.bargeEngineTake) s = execBargeEngineTake s := rfl
theorem exec_bargeComplete (s : State) : exec (.bargeComplete) s = execBargeComplete s := rfl
theorem exec_bargeFault (s : State) : exec (.bargeFault) s = execBargeFault s := rfl
theorem exec_rawaitComplete (s : State) : exec (.rawaitComplete) s = execRawaitComplete s := rfl
theorem exec_rarelRelease (s : State) : exec (.rarelRelease) s = execRarelRelease s := rfl
theorem exec_advanceReady (s : State) : exec (.advanceReady) s = execAdvanceReady s := rfl
theorem exec_crewYield (s : State) : exec (.crewYield) s = execCrewYield s := rfl
theorem exec_crewReturn (s : State) : exec (.crewReturn) s = execCrewReturn s := rfl
theorem exec_ioreqPost (s : State) : exec (.ioreqPost) s = execIoreqPost s := rfl
theorem exec_ioRequestEnd (s : State) : exec (.ioRequestEnd) s = execIoRequestEnd s := rfl
theorem exec_ioTimeout (s : State) : exec (.ioTimeout) s = execIoTimeout s := rfl
theorem exec_reclamation (s : State) : exec (.reclamation) s = execReclamation s := rfl
theorem exec_refinementAdmit (s : State) : exec (.refinementAdmit) s = execRefinementAdmit s := rfl
theorem exec_refinementEnd (s : State) : exec (.refinementEnd) s = execRefinementEnd s := rfl
theorem exec_matrixCommandStart (s : State) : exec (.matrixCommandStart) s = execMatrixCommandStart s := rfl
theorem exec_subarrayGate (s : State) : exec (.subarrayGate) s = execSubarrayGate s := rfl
theorem exec_operandsConsumed (s : State) : exec (.operandsConsumed) s = execOperandsConsumed s := rfl
theorem exec_matrixCommandComplete (s : State) : exec (.matrixCommandComplete) s = execMatrixCommandComplete s := rfl
theorem exec_wtestEntryUpdate (s : State) : exec (.wtestEntryUpdate) s = execWtestEntryUpdate s := rfl
theorem exec_weirContextLoad (s : State) : exec (.weirContextLoad) s = execWeirContextLoad s := rfl
theorem exec_weirCommandComplete (s : State) : exec (.weirCommandComplete) s = execWeirCommandComplete s := rfl
theorem exec_pointCommandComplete (s : State) : exec (.pointCommandComplete) s = execPointCommandComplete s := rfl
theorem exec_pointCommandFault (s : State) : exec (.pointCommandFault) s = execPointCommandFault s := rfl
theorem exec_spawnTasksEnter (s : State) : exec (.spawnTasksEnter) s = execSpawnTasksEnter s := rfl
theorem exec_binTimerExpiry (s : State) : exec (.binTimerExpiry) s = execBinTimerExpiry s := rfl
theorem exec_taskGangPlace (s : State) : exec (.taskGangPlace) s = execTaskGangPlace s := rfl
theorem exec_q24Fill (s : State) : exec (.q24Fill) s = execQ24Fill s := rfl
theorem exec_coreReserve (s : State) : exec (.coreReserve) s = execCoreReserve s := rfl
theorem exec_cyieldAct (s : State) : exec (.cyieldAct) s = execCyieldAct s := rfl
theorem exec_aqueductSlot (s : State) : exec (.aqueductSlot) s = execAqueductSlot s := rfl
theorem exec_aqueductWriteApply (s : State) : exec (.aqueductWriteApply) s = execAqueductWriteApply s := rfl
theorem exec_resyncComplete (s : State) : exec (.resyncComplete) s = execResyncComplete s := rfl
theorem exec_slotwWake (s : State) : exec (.slotwWake) s = execSlotwWake s := rfl
theorem exec_trapEntry (s : State) : exec (.trapEntry) s = execTrapEntry s := rfl
theorem exec_preemption (s : State) : exec (.preemption) s = execPreemption s := rfl
theorem exec_convoyRestore (s : State) : exec (.convoyRestore) s = execConvoyRestore s := rfl
theorem exec_gangRetire (s : State) : exec (.gangRetire) s = execGangRetire s := rfl
theorem exec_convoyPlace (s : State) : exec (.convoyPlace) s = execConvoyPlace s := rfl
theorem exec_drainStart (s : State) : exec (.drainStart) s = execDrainStart s := rfl
theorem exec_drainPreempt (s : State) : exec (.drainPreempt) s = execDrainPreempt s := rfl
theorem exec_watchdogExpiry (s : State) : exec (.watchdogExpiry) s = execWatchdogExpiry s := rfl
theorem exec_routerGate (s : State) : exec (.routerGate) s = execRouterGate s := rfl
theorem exec_routerWake (s : State) : exec (.routerWake) s = execRouterWake s := rfl
theorem exec_deadlockEscape (s : State) : exec (.deadlockEscape) s = execDeadlockEscape s := rfl
theorem exec_hostApertureAccess (s : State) : exec (.hostApertureAccess) s = execHostApertureAccess s := rfl
theorem exec_qwrDoorbell (s : State) : exec (.qwrDoorbell) s = execQwrDoorbell s := rfl
theorem exec_queueEnable (s : State) : exec (.queueEnable) s = execQueueEnable s := rfl
theorem exec_queueReset (s : State) : exec (.queueReset) s = execQueueReset s := rfl
theorem exec_resume (s : State) : exec (.resume) s = execResume s := rfl
theorem exec_registerWrite (s : State) : exec (.registerWrite) s = execRegisterWrite s := rfl
theorem exec_commandNop (s : State) : exec (.commandNop) s = execCommandNop s := rfl
theorem exec_launch (s : State) : exec (.launch) s = execLaunch s := rfl
theorem exec_launchComplete (s : State) : exec (.launchComplete) s = execLaunchComplete s := rfl
theorem exec_depwait (s : State) : exec (.depwait) s = execDepwait s := rfl
theorem exec_depwaitPoll (s : State) : exec (.depwaitPoll) s = execDepwaitPoll s := rfl
theorem exec_signal (s : State) : exec (.signal) s = execSignal s := rfl
theorem exec_copyc (s : State) : exec (.copyc) s = execCopyc s := rfl
theorem exec_copyComplete (s : State) : exec (.copyComplete) s = execCopyComplete s := rfl
theorem exec_mark (s : State) : exec (.mark) s = execMark s := rfl
theorem exec_jump (s : State) : exec (.jump) s = execJump s := rfl
theorem exec_setpri (s : State) : exec (.setpri) s = execSetpri s := rfl
theorem exec_stamp (s : State) : exec (.stamp) s = execStamp s := rfl
theorem exec_tlbcVa (s : State) : exec (.tlbcVa) s = execTlbcVa s := rfl
theorem exec_tlbcAll (s : State) : exec (.tlbcAll) s = execTlbcAll s := rfl
theorem exec_evrdWrite (s : State) : exec (.evrdWrite) s = execEvrdWrite s := rfl
theorem exec_export (s : State) : exec (.export_) s = execExport s := rfl
theorem exec_import (s : State) : exec (.import_) s = execImport s := rfl
theorem exec_revoke (s : State) : exec (.revoke) s = execRevoke s := rfl
theorem exec_createRegion (s : State) : exec (.createRegion) s = execCreateRegion s := rfl
theorem exec_freeRegion (s : State) : exec (.freeRegion) s = execFreeRegion s := rfl
theorem exec_writeIoTargetEntry (s : State) : exec (.writeIoTargetEntry) s = execWriteIoTargetEntry s := rfl
theorem exec_assignKeyIndices (s : State) : exec (.assignKeyIndices) s = execAssignKeyIndices s := rfl
theorem exec_unassignKeyIndices (s : State) : exec (.unassignKeyIndices) s = execUnassignKeyIndices s := rfl
theorem exec_loadCodeSegment (s : State) : exec (.loadCodeSegment) s = execLoadCodeSegment s := rfl
theorem exec_freeSegment (s : State) : exec (.freeSegment) s = execFreeSegment s := rfl
theorem exec_debugHalt (s : State) : exec (.debugHalt) s = execDebugHalt s := rfl
theorem exec_debugRun (s : State) : exec (.debugRun) s = execDebugRun s := rfl
theorem exec_debugStep (s : State) : exec (.debugStep) s = execDebugStep s := rfl
theorem exec_debugSnap (s : State) : exec (.debugSnap) s = execDebugSnap s := rfl
theorem exec_sleepDevice (s : State) : exec (.sleepDevice) s = execSleepDevice s := rfl
theorem exec_wakeDevice (s : State) : exec (.wakeDevice) s = execWakeDevice s := rfl
theorem exec_assignLayersAndPorts (s : State) : exec (.assignLayersAndPorts) s = execAssignLayersAndPorts s := rfl
theorem exec_setKernelState (s : State) : exec (.setKernelState) s = execSetKernelState s := rfl
theorem exec_warmStartRequest (s : State) : exec (.warmStartRequest) s = execWarmStartRequest s := rfl
theorem exec_coldStartRequest (s : State) : exec (.coldStartRequest) s = execColdStartRequest s := rfl
theorem exec_startRequestLapse (s : State) : exec (.startRequestLapse) s = execStartRequestLapse s := rfl
theorem exec_coldStart (s : State) : exec (.coldStart) s = execColdStart s := rfl
theorem exec_warmStart (s : State) : exec (.warmStart) s = execWarmStart s := rfl
theorem exec_readySet (s : State) : exec (.readySet) s = execReadySet s := rfl
theorem exec_freezeWrite (s : State) : exec (.freezeWrite) s = execFreezeWrite s := rfl
theorem exec_freezeLapse (s : State) : exec (.freezeLapse) s = execFreezeLapse s := rfl
theorem exec_freeze (s : State) : exec (.freeze) s = execFreeze s := rfl
theorem exec_thermalThrottle (s : State) : exec (.thermalThrottle) s = execThermalThrottle s := rfl
theorem exec_ethernetLinkChange (s : State) : exec (.ethernetLinkChange) s = execEthernetLinkChange s := rfl
theorem exec_tktComplete (s : State) : exec (.tktComplete) s = execTktComplete s := rfl
theorem exec_rchkComplete (s : State) : exec (.rchkComplete) s = execRchkComplete s := rfl
theorem exec_pcieLinkChange (s : State) : exec (.pcieLinkChange) s = execPcieLinkChange s := rfl

end Sys2Proof.Machine
end

