-- ==== Sys2Proof/Laws/Info.lean ====
section
/-! SUPPORT. What the words of each instruction say, constructor by constructor. -/

namespace Sys2Proof.Machine

theorem info_nop : (Instr.nop).info = ctl [] := rfl
theorem info_bra (off : BitVec 20) : (Instr.bra off).info = ctl [] := rfl
theorem info_brc (k : BitVec 4) (off : BitVec 20) : (Instr.brc k off).info = ctl [] (decide (k.toNat ≤ 11)) := rfl
theorem info_call (off : BitVec 20) : (Instr.call off).info = ctl [] := rfl
theorem info_ret : (Instr.ret).info = ctl [] := rfl
theorem info_retPair (p : Reg) : (Instr.retPair p).info = ctl [src p 2 191] := rfl
theorem info_jmpi (p : Reg) : (Instr.jmpi p).info = ctl [src p 2 191] := rfl
theorem info_calli (p : Reg) : (Instr.calli p).info = ctl [src p 2 191] := rfl
theorem info_calliLink (d : Reg) (p : Reg) : (Instr.calliLink d p).info = ctl [src p 2 191, dst d 2 191] := rfl
theorem info_exit : (Instr.exit).info = ctl [] := rfl
theorem info_vote (k : BitVec 8) (x : Reg) (v : BitVec 2) : (Instr.vote k x v).info = { opnds := [src x], masks := [k.toNat], fields := inRange k.toNat 1 11 } := rfl
theorem info_bru (off : BitVec 20) : (Instr.bru off).info = uniA [] := rfl
theorem info_bruMask (k : BitVec 4) (off : BitVec 20) : (Instr.bruMask k off).info = uniA [] (decide (k.toNat ≤ 11)) := rfl
theorem info_join (k : BitVec 8) : (Instr.join k).info = { uniform := true, masks := [k.toNat], fields := inRange k.toNat 1 11 } := rfl
theorem info_leave (k : BitVec 8) : (Instr.leave k).info = { uniform := true, masks := [k.toNat], fields := inRange k.toNat 1 11 } := rfl
theorem info_waitm (k : BitVec 8) : (Instr.waitm k).info = uniA [] (decide (k.toNat ≤ 11)) := rfl
theorem info_mand (k : BitVec 8) (a : BitVec 8) (b : BitVec 8) : (Instr.mand k a b).info = maskOp k a b := rfl
theorem info_mor (k : BitVec 8) (a : BitVec 8) (b : BitVec 8) : (Instr.mor k a b).info = maskOp k a b := rfl
theorem info_mxor (k : BitVec 8) (a : BitVec 8) (b : BitVec 8) : (Instr.mxor k a b).info = maskOp k a b := rfl
theorem info_mandn (k : BitVec 8) (a : BitVec 8) (b : BitVec 8) : (Instr.mandn k a b).info = maskOp k a b := rfl
theorem info_mmovMM (k : BitVec 8) (a : BitVec 8) : (Instr.mmovMM k a).info = maskOp k a 0 := rfl
theorem info_mmovMG (k : BitVec 8) (a : Reg) : (Instr.mmovMG k a).info = { uniform := true, opnds := [src a 1 223], masks := [k.toNat], fields := inRange k.toNat 1 11 && decide (192 ≤ a.toNat) } := rfl
theorem info_mmovGM (d : Reg) (a : BitVec 8) : (Instr.mmovGM d a).info = uniA [dst d 1 223] (decide (192 ≤ d.toNat) && decide (a.toNat ≤ 11)) := rfl
theorem info_yieldGang : (Instr.yieldGang).info = uniA [] := rfl
theorem info_sleep (x : Reg) : (Instr.sleep x).info = uniA [src x] := rfl
theorem info_roleGet (d : Reg) : (Instr.roleGet d).info = uniA [dst d] := rfl
theorem info_roleSet (x : Reg) : (Instr.roleSet x).info = uniA [src x] := rfl
theorem info_mpop (d : Reg) (a : BitVec 8) (v : BitVec 2) : (Instr.mpop d a v).info = uniA [dst d] (decide (a.toNat ≤ 11) && v != 3) := rfl
theorem info_add (p : OPfx) (d : Reg) (a : Reg) (b : Reg) : (Instr.add p d a b).info = alu3 p 3 (tyN ++ tyW) d a b := rfl
theorem info_sub (p : OPfx) (d : Reg) (a : Reg) (b : Reg) : (Instr.sub p d a b).info = alu3 p 3 (tyN ++ tyW) d a b := rfl
theorem info_addc (p : OPfx) (d : Reg) (a : Reg) (b : Reg) : (Instr.addc p d a b).info = { laneA p 7 [] [src a, src b, src (f4Of p), dst d 2] with needs4 := true } := rfl
theorem info_mul (p : OPfx) (d : Reg) (a : Reg) (b : Reg) : (Instr.mul p d a b).info = alu3 p 3 tyW d a b := rfl
theorem info_mulh (p : OPfx) (d : Reg) (a : Reg) (b : Reg) : (Instr.mulh p d a b).info = alu3 p 3 tyW d a b := rfl
theorem info_mad (p : OPfx) (d : Reg) (a : Reg) (b : Reg) : (Instr.mad p d a b).info = (
    let w := pairN (effType p 3)
    { laneA p 3 tyW [src a w, src b w, src (f4Of p) w, dst d w] with needs4 := true }) := rfl
theorem info_div (p : OPfx) (d : Reg) (a : Reg) (b : Reg) : (Instr.div p d a b).info = alu3 p 3 tyW d a b := rfl
theorem info_rem (p : OPfx) (d : Reg) (a : Reg) (b : Reg) : (Instr.rem p d a b).info = alu3 p 3 tyW d a b := rfl
theorem info_min (p : OPfx) (d : Reg) (a : Reg) (b : Reg) : (Instr.min p d a b).info = alu3 p 3 (tyN ++ tyW) d a b := rfl
theorem info_max (p : OPfx) (d : Reg) (a : Reg) (b : Reg) : (Instr.max p d a b).info = alu3 p 3 (tyN ++ tyW) d a b := rfl
theorem info_abs (p : OPfx) (d : Reg) (a : Reg) : (Instr.abs p d a).info = ( let w := pairN (effType p 3); laneA p 3 [1, 2, 4] [src a w, dst d w]) := rfl
theorem info_and (p : OPfx) (d : Reg) (a : Reg) (b : Reg) : (Instr.and p d a b).info = alu3 p 9 tyLogic d a b := rfl
theorem info_or (p : OPfx) (d : Reg) (a : Reg) (b : Reg) : (Instr.or p d a b).info = alu3 p 9 tyLogic d a b := rfl
theorem info_xor (p : OPfx) (d : Reg) (a : Reg) (b : Reg) : (Instr.xor p d a b).info = alu3 p 9 tyLogic d a b := rfl
theorem info_andn (p : OPfx) (d : Reg) (a : Reg) (b : Reg) : (Instr.andn p d a b).info = alu3 p 9 tyLogic d a b := rfl
theorem info_shl (p : OPfx) (d : Reg) (a : Reg) (b : Reg) : (Instr.shl p d a b).info = ( let w := pairN (effType p 9); laneA p 9 tyLogic [src a w, src b, dst d w]) := rfl
theorem info_shr (p : OPfx) (d : Reg) (a : Reg) (b : Reg) : (Instr.shr p d a b).info = ( let w := pairN (effType p 7); laneA p 7 [9, 3, 4, 8] [src a w, src b, dst d w]) := rfl
theorem info_fsh (p : OPfx) (d : Reg) (a : Reg) (b : Reg) : (Instr.fsh p d a b).info = { laneA p 9 [] [src a, src b, src (f4Of p), dst d] with needs4 := true } := rfl
theorem info_bfx (p : OPfx) (d : Reg) (a : Reg) (b : Reg) : (Instr.bfx p d a b).info = laneA p 7 [9, 3] [src a, src b, dst d] := rfl
theorem info_bfi (p : OPfx) (d : Reg) (a : Reg) (b : Reg) : (Instr.bfi p d a b).info = { laneA p 9 [] [src a, src b, src (f4Of p), dst d] with needs4 := true } := rfl
theorem info_popc (p : OPfx) (d : Reg) (a : Reg) : (Instr.popc p d a).info = laneA p 9 tyLogic [src a (pairN (effType p 9)), dst d] := rfl
theorem info_clz (p : OPfx) (d : Reg) (a : Reg) : (Instr.clz p d a).info = laneA p 9 tyLogic [src a (pairN (effType p 9)), dst d] := rfl
theorem info_ctz (p : OPfx) (d : Reg) (a : Reg) : (Instr.ctz p d a).info = laneA p 9 tyLogic [src a (pairN (effType p 9)), dst d] := rfl
theorem info_brev (p : OPfx) (d : Reg) (a : Reg) : (Instr.brev p d a).info = ( let w := pairN (effType p 9); laneA p 9 tyLogic [src a w, dst d w]) := rfl
theorem info_sel (p : OPfx) (d : Reg) (a : Reg) (b : Reg) : (Instr.sel p d a b).info = (
    let w := pairN (effType p 9)
    { laneA p 9 tyLogic [src a w, src b w, src (f4Of p), dst d w] with needs4 := true }) := rfl
theorem info_cmpm (p : OPfx) (cc : BitVec 4) (k : BitVec 4) (a : Reg) (b : Reg) : (Instr.cmpm p cc k a b).info = cmpInfo p 3 (tyN ++ tyW ++ [9]) 5 cc k a b := rfl
theorem info_movi (p : OPfx) (d : Reg) (imm : BitVec 16) : (Instr.movi p d imm).info = laneA p 3 [7, 4, 8] [dst d (pairN (effType p 3))] := rfl
theorem info_movh (p : OPfx) (d : Reg) (imm : BitVec 16) : (Instr.movh p d imm).info = laneA p 9 [] [srcDst d 1 247] := rfl
theorem info_addi (p : OPfx) (d : Reg) (imm : BitVec 16) : (Instr.addi p d imm).info = laneA p 3 [7, 4, 8] [srcDst d (pairN (effType p 3)) 247] := rfl
theorem info_mov (p : OPfx) (d : Reg) (a : Reg) : (Instr.mov p d a).info = ( let w := pairN (effType p 9); laneA p 9 tyLogic [src a w, dst d w]) := rfl
theorem info_lea (p : OPfx) (d : Reg) (a : Reg) (b : Reg) : (Instr.lea p d a b).info = laneA p 1 tyInt [src a 2, src b, dst d 2] := rfl
theorem info_uadd (d : Reg) (a : Reg) (b : Reg) : (Instr.uadd d a b).info = uniA [src a, src b, dst d] := rfl
theorem info_usub (d : Reg) (a : Reg) (b : Reg) : (Instr.usub d a b).info = uniA [src a, src b, dst d] := rfl
theorem info_umul (d : Reg) (a : Reg) (b : Reg) : (Instr.umul d a b).info = uniA [src a, src b, dst d] := rfl
theorem info_uand (d : Reg) (a : Reg) (b : Reg) : (Instr.uand d a b).info = uniA [src a, src b, dst d] := rfl
theorem info_uor (d : Reg) (a : Reg) (b : Reg) : (Instr.uor d a b).info = uniA [src a, src b, dst d] := rfl
theorem info_uxor (d : Reg) (a : Reg) (b : Reg) : (Instr.uxor d a b).info = uniA [src a, src b, dst d] := rfl
theorem info_ushl (d : Reg) (a : Reg) (b : Reg) : (Instr.ushl d a b).info = uniA [src a, src b, dst d] := rfl
theorem info_ushr (d : Reg) (a : Reg) (b : Reg) : (Instr.ushr d a b).info = uniA [src a, src b, dst d] := rfl
theorem info_umovi (d : Reg) (imm : BitVec 16) : (Instr.umovi d imm).info = uniA [dst d] := rfl
theorem info_umovh (d : Reg) (imm : BitVec 16) : (Instr.umovh d imm).info = uniA [srcDst d 1 247] := rfl
theorem info_shfi (p : OPfx) (d : Reg) (a : Reg) (w : BitVec 3) (f : BitVec 4) : (Instr.shfi p d a w f).info = shuffle p d a w f := rfl
theorem info_shfu (p : OPfx) (d : Reg) (a : Reg) (w : BitVec 3) (f : BitVec 4) : (Instr.shfu p d a w f).info = shuffle p d a w f := rfl
theorem info_shfd (p : OPfx) (d : Reg) (a : Reg) (w : BitVec 3) (f : BitVec 4) : (Instr.shfd p d a w f).info = shuffle p d a w f := rfl
theorem info_shfx (p : OPfx) (d : Reg) (a : Reg) (w : BitVec 3) (f : BitVec 4) : (Instr.shfx p d a w f).info = shuffle p d a w f := rfl
theorem info_cxs (p : OPfx) (d : Reg) (a : Reg) (rev : Bool) (lk : BitVec 3) (lj : BitVec 3) : (Instr.cxs p d a rev lk lj).info = (
    { laneA p 7 [3, 12] [src a 2 223, dst d 2] with
      fields := inRange lk.toNat 1 5 && decide (lj.toNat ≤ 4) && decide (lj.toNat < lk.toNat) }) := rfl
theorem info_perm (p : OPfx) (d : Reg) (a : Reg) (b : Reg) : (Instr.perm p d a b).info = { laneA p 9 [] [src a, src b, src (f4Of p), dst d] with needs4 := true } := rfl
theorem info_scan (p : OPfx) (d : Reg) (a : Reg) (wid : BitVec 3) (ex : Bool) (op : BitVec 2) : (Instr.scan p d a wid ex op).info = (
    let w := pairN (effType p 3)
    { laneA p 3 tyW [src a w 223, dst d w] with fields := inRange wid.toNat 1 5 }) := rfl
theorem info_fadd (p : OPfx) (d : Reg) (a : Reg) (b : Reg) : (Instr.fadd p d a b).info = flt3 p d a b true := rfl
theorem info_fsub (p : OPfx) (d : Reg) (a : Reg) (b : Reg) : (Instr.fsub p d a b).info = flt3 p d a b true := rfl
theorem info_fmul (p : OPfx) (d : Reg) (a : Reg) (b : Reg) : (Instr.fmul p d a b).info = flt3 p d a b true := rfl
theorem info_ffma (p : OPfx) (d : Reg) (a : Reg) (b : Reg) : (Instr.ffma p d a b).info = (
    let w := pairN (effType p 12)
    { laneA p 12 tyF [src a w, src b w, src (f4Of p) w, dst d w] with needs4 := true, rounds := true }) := rfl
theorem info_fmin (p : OPfx) (d : Reg) (a : Reg) (b : Reg) : (Instr.fmin p d a b).info = flt3 p d a b false := rfl
theorem info_fmax (p : OPfx) (d : Reg) (a : Reg) (b : Reg) : (Instr.fmax p d a b).info = flt3 p d a b false := rfl
theorem info_fabs (p : OPfx) (d : Reg) (a : Reg) : (Instr.fabs p d a).info = flt2 p d a false := rfl
theorem info_fneg (p : OPfx) (d : Reg) (a : Reg) : (Instr.fneg p d a).info = flt2 p d a false := rfl
theorem info_fcmp (p : OPfx) (cc : BitVec 4) (k : BitVec 4) (a : Reg) (b : Reg) : (Instr.fcmp p cc k a b).info = cmpInfo p 12 tyF 7 cc k a b := rfl
theorem info_fcvt (p : OPfx) (d : Reg) (a : Reg) (st : BitVec 8) : (Instr.fcvt p d a st).info = (
    { laneA p 12 tyF [src a (pairN st.toNat), dst d (pairN (effType p 12))] with
      rounds := true, fields := inRange st.toNat 10 13 }) := rfl
theorem info_fcvti (p : OPfx) (d : Reg) (a : Reg) (st : BitVec 8) : (Instr.fcvti p d a st).info = (
    { laneA p 3 tyInt [src a (pairN st.toNat), dst d (pairN (effType p 3))] with
      rounds := true, fields := inRange st.toNat 10 13 }) := rfl
theorem info_icvtf (p : OPfx) (d : Reg) (a : Reg) (st : BitVec 8) : (Instr.icvtf p d a st).info = (
    { laneA p 12 tyF [src a (pairN st.toNat), dst d (pairN (effType p 12))] with
      rounds := true, fields := inRange st.toNat 1 8 }) := rfl
theorem info_fadd2 (p : OPfx) (d : Reg) (a : Reg) (b : Reg) : (Instr.fadd2 p d a b).info = { laneA p 10 [11] [src a, src b, dst d] with rounds := true } := rfl
theorem info_fmul2 (p : OPfx) (d : Reg) (a : Reg) (b : Reg) : (Instr.fmul2 p d a b).info = { laneA p 10 [11] [src a, src b, dst d] with rounds := true } := rfl
theorem info_ffma2 (p : OPfx) (d : Reg) (a : Reg) (b : Reg) : (Instr.ffma2 p d a b).info = (
    { laneA p 10 [11] [src a, src b, src (f4Of p), dst d] with needs4 := true, rounds := true }) := rfl
theorem info_fclass (p : OPfx) (d : Reg) (a : Reg) : (Instr.fclass p d a).info = laneA p 12 tyF [src a (pairN (effType p 12)), dst d] := rfl
theorem info_sfq (p : OPfx) (d : Reg) (a : Reg) (tok : BitVec 4) (fn : BitVec 4) : (Instr.sfq p d a tok fn).info = { laneA p 12 [] [src a, dst d 1 191] with fields := decide (fn.toNat ≤ 7) } := rfl
theorem info_sfwait (p : OPfx) (m : BitVec 16) : (Instr.sfwait p m).info = { pfx := p } := rfl
theorem info_frnd (p : OPfx) (d : Reg) (a : Reg) : (Instr.frnd p d a).info = flt2 p d a true := rfl
theorem info_fscl (p : OPfx) (d : Reg) (a : Reg) (b : Reg) : (Instr.fscl p d a b).info = (
    let w := pairN (effType p 12)
    { laneA p 12 tyF [src a w, src b, dst d w] with rounds := true }) := rfl
theorem info_fdiv (p : OPfx) (d : Reg) (a : Reg) (b : Reg) : (Instr.fdiv p d a b).info = flt3 p d a b true := rfl
theorem info_fsqrt (p : OPfx) (d : Reg) (a : Reg) : (Instr.fsqrt p d a).info = flt2 p d a true := rfl
theorem info_swait (sm : BitVec 8) (n : BitVec 8) : (Instr.swait sm n).info = uniA [] (decide (n.toNat ≤ 63)) := rfl
theorem info_ldg (p : OPfx) (d : Reg) (a : Reg) (x4 : Bool) (o : Ord) : (Instr.ldg p d a x4 o).info = lsInfo p d a x4 o true true := rfl
theorem info_stg (p : OPfx) (d : Reg) (a : Reg) (x4 : Bool) (o : Ord) : (Instr.stg p d a x4 o).info = lsInfo p d a x4 o false true := rfl
theorem info_lds (p : OPfx) (d : Reg) (a : Reg) (x4 : Bool) (o : Ord) : (Instr.lds p d a x4 o).info = lsInfo p d a x4 o true false := rfl
theorem info_sts (p : OPfx) (d : Reg) (a : Reg) (x4 : Bool) (o : Ord) : (Instr.sts p d a x4 o).info = lsInfo p d a x4 o false false := rfl
theorem info_ldp (p : OPfx) (d : Reg) (a : Reg) (x4 : Bool) (o : Ord) : (Instr.ldp p d a x4 o).info = lsInfo p d a x4 o true false := rfl
theorem info_stp (p : OPfx) (d : Reg) (a : Reg) (x4 : Bool) (o : Ord) : (Instr.stp p d a x4 o).info = lsInfo p d a x4 o false false := rfl
theorem info_pfg (p : OPfx) (a : Reg) (lvl : Bool) (o : Ord) : (Instr.pfg p a lvl o).info = laneL p o 0 [] [src a 2 223] false true false true := rfl
theorem info_uldg (d : Reg) (a : Reg) (sz : BitVec 2) (o : Ord) : (Instr.uldg d a sz o).info = uniMem d a sz o true true := rfl
theorem info_ustg (d : Reg) (a : Reg) (sz : BitVec 2) (o : Ord) : (Instr.ustg d a sz o).info = uniMem d a sz o false true := rfl
theorem info_ulds (d : Reg) (a : Reg) (sz : BitVec 2) (o : Ord) : (Instr.ulds d a sz o).info = uniMem d a sz o true false := rfl
theorem info_usts (d : Reg) (a : Reg) (sz : BitVec 2) (o : Ord) : (Instr.usts d a sz o).info = uniMem d a sz o false false := rfl
theorem info_atom (p : OPfx) (d : Reg) (a : Reg) (op : BitVec 4) (sp : BitVec 2) (o : Ord) : (Instr.atom p d a op sp o).info = atomInfo p d a op sp o false := rfl
theorem info_red (p : OPfx) (d : Reg) (a : Reg) (op : BitVec 4) (sp : BitVec 2) (o : Ord) : (Instr.red p d a op sp o).info = atomInfo p d a op sp o true := rfl
theorem info_cas (p : OPfx) (d : Reg) (a : Reg) (sp : BitVec 2) (o : Ord) : (Instr.cas p d a sp o).info = (
    let w := pairN (effType p 9)
    let i := laneL p o 9 [3, 7, 4, 8]
      [src a (if sp = 0 then 2 else 1) 223, src (f4Of p) w 247, srcDst d w] true true true true
    { i with needs4 := true, fields := i.fields && sp != 3 }) := rfl
theorem info_cas128 (p : OPfx) (d : Reg) (a : Reg) (sp : BitVec 2) (o : Ord) : (Instr.cas128 p d a sp o).info = (
    let i := laneL p o 0 []
      [src a (if sp = 0 then 2 else 1) 223, src (f4Of p) 4 247, srcDst d 4] true true true true
    { i with needs4 := true, fields := i.fields && sp != 3 }) := rfl
theorem info_uatom (d : Reg) (a : Reg) (op : BitVec 4) (w : Bool) (sg : Bool) (sp : BitVec 2) (o : Ord) : (Instr.uatom d a op w sg sp o).info = (
    uniL o [src a (if sp = 0 then 2 else 1) 223, srcDst d (if w then 2 else 1)] true true true
      (decide (sp.toNat ≤ 1) && decide (op.toNat ≤ 9) && (!sg || op == 4 || op == 5)
        && !(w && (op == 7 || op == 8 || op == 9)))) := rfl
theorem info_ucas (d : Reg) (a : Reg) (w : Bool) (sp : BitVec 2) (o : Ord) : (Instr.ucas d a w sp o).info = (
    uniL o [src a (if sp = 0 then 2 else 1) 223, srcDst d (if w then 4 else 2)] true true true
      (decide (sp.toNat ≤ 1))) := rfl
theorem info_barr (bar : BitVec 5) (o : Ord) : (Instr.barr bar o).info = uniL o [] false false false (decide (bar.toNat < 24)) := rfl
theorem info_barrPhase (d : Reg) (bar : BitVec 5) (o : Ord) : (Instr.barrPhase d bar o).info = uniL o [dst d 1 223] false false false (decide (bar.toNat < 24)) := rfl
theorem info_barw (x : Reg) (bar : BitVec 5) (o : Ord) : (Instr.barw x bar o).info = uniL o [src x 1 247] false false false (decide (bar.toNat < 24)) := rfl
theorem info_bars (x : Reg) (bar : BitVec 5) (o : Ord) : (Instr.bars x bar o).info = uniL o [src x 1 247] false false false (decide (bar.toNat < 24)) := rfl
theorem info_tkt (d : Reg) (x : Reg) (o : Ord) : (Instr.tkt d x o).info = uniL o [src x 1 247, dst d 1 223] false false false := rfl
theorem info_tktw (x : Reg) (y : Reg) : (Instr.tktw x y).info = uniA [src x 1 247, src y 1 247] := rfl
theorem info_tktsNext (x : Reg) (o : Ord) : (Instr.tktsNext x o).info = uniL o [src x 1 247] false false false := rfl
theorem info_tktsSet (x : Reg) (y : Reg) (o : Ord) : (Instr.tktsSet x y o).info = uniL o [src x 1 247, src y 1 247] false false false := rfl
theorem info_qlk (d : Reg) (x : Reg) (o : Ord) : (Instr.qlk d x o).info = { uniL o [src x, dst d 1 223] false false false with privileged := true } := rfl
theorem info_qul (x : Reg) (o : Ord) : (Instr.qul x o).info = { uniL o [src x] false false false with privileged := true } := rfl
theorem info_barge (a : Reg) (o : Ord) : (Instr.barge a o).info = { uniL o [src a 1 223] true false false with ext := 2 } := rfl
theorem info_tagw (a : Reg) (any : Bool) : (Instr.tagw a any).info = uniA [src a 2 223] := rfl
theorem info_tagf (d : Reg) (a : Reg) (clr : Bool) : (Instr.tagf d a clr).info = uniA [src a 2 223, dst d] := rfl
theorem info_tagclr (a : Reg) : (Instr.tagclr a).info = uniA [src a 2 223] := rfl
theorem info_rawait (d : Reg) (a : Reg) (free : Bool) (o : Ord) : (Instr.rawait d a free o).info = ringInfo a o [dst d 1 223] := rfl
theorem info_rarel (a : Reg) (o : Ord) : (Instr.rarel a o).info = ringInfo a o [] := rfl
theorem info_rapub (a : Reg) (o : Ord) : (Instr.rapub a o).info = ringInfo a o [] := rfl
theorem info_waity (a : Reg) (mode : BitVec 2) : (Instr.waity a mode).info = uniA [src a (if mode.toNat ≤ 1 then 2 else 1) 223] := rfl
theorem info_ioreq (p : OPfx) (a : Reg) (o : Ord) : (Instr.ioreq p a o).info = { laneL p o 0 [] [src a 1 223] false true false false with ext := 2 } := rfl
theorem info_eadd (p : OPfx) (d : Reg) (a : Reg) (b : Reg) : (Instr.eadd p d a b).info = ivl p [a, b] d := rfl
theorem info_esub (p : OPfx) (d : Reg) (a : Reg) (b : Reg) : (Instr.esub p d a b).info = ivl p [a, b] d := rfl
theorem info_emul (p : OPfx) (d : Reg) (a : Reg) (b : Reg) : (Instr.emul p d a b).info = ivl p [a, b] d := rfl
theorem info_ediv (p : OPfx) (d : Reg) (a : Reg) (b : Reg) : (Instr.ediv p d a b).info = ivl p [a, b] d := rfl
theorem info_esqrt (p : OPfx) (d : Reg) (a : Reg) : (Instr.esqrt p d a).info = ivl p [a] d := rfl
theorem info_eneg (p : OPfx) (d : Reg) (a : Reg) : (Instr.eneg p d a).info = ivl p [a] d := rfl
theorem info_esq (p : OPfx) (d : Reg) (a : Reg) : (Instr.esq p d a).info = ivl p [a] d := rfl
theorem info_efma (p : OPfx) (d : Reg) (a : Reg) (b : Reg) : (Instr.efma p d a b).info = { ivl p [a, b, f4Of p] d with needs4 := true } := rfl
theorem info_eleaf (p : OPfx) (d : Reg) (x : Reg) : (Instr.eleaf p d x).info = laneA p 12 [10, 11, 13] [src x (pairN (effType p 12)), dst d 4 191] := rfl
theorem info_eleafi (p : OPfx) (d : Reg) (x : Reg) : (Instr.eleafi p d x).info = laneA p 3 [7, 4] [src x (pairN (effType p 3)), dst d 4 191] := rfl
theorem info_emov (p : OPfx) (d : Reg) (a : Reg) (adopt : Bool) : (Instr.emov p d a adopt).info = ivl p [a] d := rfl
theorem info_ebnd (p : OPfx) (d : Reg) (a : Reg) (v : BitVec 2) : (Instr.ebnd p d a v).info = (
    if v = 2 then laneA p 12 [] [⟨a, 4, true, false, 191⟩, dst d 2]
    else { laneA p 12 [10, 11, 13] [⟨a, 4, true, false, 191⟩, dst d (pairN (effType p 12))] with fields := v != 3 }) := rfl
theorem info_esever (p : OPfx) (d : Reg) (a : Reg) (opaq : Bool) : (Instr.esever p d a opaq).info = ivl p [a] d := rfl
theorem info_ewid (p : OPfx) (d : Reg) (a : Reg) (rel : Bool) : (Instr.ewid p d a rel).info = laneA p 12 [] [⟨a, 4, true, false, 191⟩, dst d] := rfl
theorem info_ecmp (p : OPfx) (cc : BitVec 4) (k : BitVec 4) (a : Reg) (u : BitVec 4) : (Instr.ecmp p cc k a u).info = (
    { pfx := p, needs4 := true, opnds := eops [(a, false), (f4Of p, false)], masks := [k.toNat, u.toNat]
      fields := decide (cc.toNat ≤ 5) && inRange k.toNat 1 11 && inRange u.toNat 1 11 && u != k }) := rfl
theorem info_esgn (p : OPfx) (d : Reg) (a : Reg) (u : BitVec 4) : (Instr.esgn p d a u).info = (
    { laneA p 0 [] [⟨a, 4, true, false, 191⟩, dst d 1 191] with
      masks := [u.toNat], fields := inRange u.toNat 1 11 }) := rfl
theorem info_mma (p : OPfx) (a : Reg) (b : Reg) (o : Ord) (e : MmaWord) : (Instr.mma p a b o e).info = (
    laneE p o [src a 1 223, src b 1 223] false
      ((decide (e.fmt.toNat ≤ 6) || ((e.fmt == 8 || e.fmt == 9) && !e.ca && !e.cb)) && (!e.nt || e.ctag == 0))) := rfl
theorem info_accz (p : OPfx) (o : Ord) (acc : BitVec 3) : (Instr.accz p o acc).info = laneE p o [] false true := rfl
theorem info_accrd (p : OPfx) (d : Reg) (o : Ord) (acc : BitVec 3) (form : BitVec 2) (fin : Bool) : (Instr.accrd p d o acc form fin).info = { laneE p o [src d 1 223] false (form != 3) with rounds := form != 2 } := rfl
theorem info_accwr (p : OPfx) (a : Reg) (o : Ord) (acc : BitVec 3) (form : BitVec 2) : (Instr.accwr p a o acc form).info = laneE p o [src a 1 223] false (form == 0 || form == 2) := rfl
theorem info_qnt (p : OPfx) (d : Reg) (a : Reg) (o : Ord) (e : QntWord) : (Instr.qnt p d a o e).info = { laneE p o [src a 1 223, src d 1 223] false (decide (e.fmt.toNat ≤ 6)) with rounds := true } := rfl
theorem info_dqnt (p : OPfx) (d : Reg) (a : Reg) (o : Ord) (e : QntWord) : (Instr.dqnt p d a o e).info = { laneE p o [src a 1 223, src d 1 223] false (decide (e.fmt.toNat ≤ 6)) with rounds := true } := rfl
theorem info_ctbl (p : OPfx) (a : Reg) (o : Ord) : (Instr.ctbl p a o).info = laneE p o [src a 1 223] false true := rfl
theorem info_wcfg (p : OPfx) (a : Reg) (o : Ord) : (Instr.wcfg p a o).info = laneE p o [src a 1 223] false true := rfl
theorem info_wsig (p : OPfx) (d : Reg) (a : Reg) (o : Ord) (bf : Bool) : (Instr.wsig p d a o bf).info = laneE p o [src a 1 223, src d 1 223] false true := rfl
theorem info_wtest (p : OPfx) (d : Reg) (x : Reg) (c : Reg) (o : Ord) (n : Reg) (skm : BitVec 4) : (Instr.wtest p d x c o n skm).info = (
    { laneE p o [src x 1 223, src c 1 223, src n 2 223, dst d 2 191] true (inRange skm.toNat 1 11 || skm == 15) with
      masks := if skm = 15 then [] else [skm.toNat] }) := rfl
theorem info_wskip (p : OPfx) (d : Reg) (x : Reg) (o : Ord) (v : BitVec 2) : (Instr.wskip p d x o v).info = (
    laneE p o (dst d (if v = 2 then 2 else 1) 223 :: (if v = 0 then [src x 1 223] else [])) true (v == 0 || x == 0)) := rfl
theorem info_wstep (p : OPfx) (o : Ord) : (Instr.wstep p o).info = laneE p o [] false true := rfl
theorem info_wstepSet (p : OPfx) (x : Reg) (o : Ord) : (Instr.wstepSet p x o).info = laneE p o [src x 1 223] false true := rfl
theorem info_nbrk (p : OPfx) (a : Reg) (o : Ord) (t : TagWord) : (Instr.nbrk p a o t).info = ptInfo p a o t := rfl
theorem info_nbrr (p : OPfx) (a : Reg) (o : Ord) (t : TagWord) : (Instr.nbrr p a o t).info = ptInfo p a o t := rfl
theorem info_siteh (p : OPfx) (a : Reg) (o : Ord) (t : TagWord) : (Instr.siteh p a o t).info = ptInfo p a o t := rfl
theorem info_rule (p : OPfx) (a : Reg) (o : Ord) (t : TagWord) : (Instr.rule p a o t).info = ptInfo p a o t := rfl
theorem info_ruleSub (p : OPfx) (a : Reg) (o : Ord) (t : TagWord) : (Instr.ruleSub p a o t).info = ptInfo p a o t := rfl
theorem info_pgat (p : OPfx) (a : Reg) (o : Ord) (f32 : Bool) (t : TagWord) : (Instr.pgat p a o f32 t).info = ptInfo p a o t := rfl
theorem info_psca (p : OPfx) (a : Reg) (o : Ord) (t : TagWord) : (Instr.psca p a o t).info = ptInfo p a o t := rfl
theorem info_spawn (x : Reg) (a : Reg) (b : Reg) (o : Ord) : (Instr.spawn x a b o).info = uniL o [src a 1 223, src b 1 247, src x 2 223] true false false := rfl
theorem info_bflush (x : Reg) : (Instr.bflush x).info = uniA [src x 2 223] := rfl
theorem info_bflushAll : (Instr.bflushAll).info = uniA [] := rfl
theorem info_claim (n : BitVec 4) : (Instr.claim n).info = uniA [] (inRange n.toNat 1 12) := rfl
theorem info_claimTry (d : Reg) (n : BitVec 4) : (Instr.claimTry d n).info = uniA [dst d 1 223] (inRange n.toNat 1 12) := rfl
theorem info_give (n : BitVec 4) : (Instr.give n).info = uniA [] (inRange n.toNat 1 12) := rfl
theorem info_giveRole (r : BitVec 2) (n : BitVec 4) : (Instr.giveRole r n).info = uniA [] (inRange n.toNat 1 12) := rfl
theorem info_cyield : (Instr.cyield).info = uniA [] := rfl
theorem info_tdone (k : BitVec 8) (act : BitVec 2) : (Instr.tdone k act).info = uniA [] (decide (k.toNat ≤ 11)) := rfl
theorem info_qlen (d : Reg) (q : Reg) (room : Bool) : (Instr.qlen d q room).info = uniA [dst d 1 223] (inRange q.toNat 224 249 || decide (q.toNat < 192)) := rfl
theorem info_mcst (x : Reg) (a : Reg) (sz : BitVec 2) (o : Ord) : (Instr.mcst x a sz o).info = (
    uniL o [src a 2 223, src x (if sz = 0 then 1 else if sz = 1 then 2 else if sz = 2 then 4 else 8) 223]
      true true false (inRange o.scope.toNat 4 5)) := rfl
theorem info_rchk (d : Reg) (a : Reg) (o : Ord) : (Instr.rchk d a o).info = uniL o [src a 2 223, dst d] true false false (inRange o.scope.toNat 4 5) := rfl
theorem info_resync (a : Reg) (o : Ord) : (Instr.resync a o).info = uniL o [src a 2 223] true false false (inRange o.scope.toNat 4 5) := rfl
theorem info_slotq (d : Reg) (v : BitVec 2) : (Instr.slotq d v).info = uniA [dst d] := rfl
theorem info_slotr (d : Reg) : (Instr.slotr d).info = uniA [dst d 2 223] := rfl
theorem info_slotw (x : Reg) : (Instr.slotw x).info = uniA [src x 1 247] := rfl
theorem info_rstat (d : Reg) (a : Reg) : (Instr.rstat d a).info = uniA [src a 2 223, dst d] := rfl
theorem info_trap (n : BitVec 8) : (Instr.trap n).info = uniA [] := rfl
theorem info_brk (n : BitVec 8) : (Instr.brk n).info = uniA [] := rfl
theorem info_eret : (Instr.eret).info = { uniA [] with privileged := true } := rfl
theorem info_eretKill : (Instr.eretKill).info = { uniA [] with privileged := true } := rfl
theorem info_csrr (d : Reg) (n : BitVec 16) : (Instr.csrr d n).info = uniA [dst d] (sysNumbers.contains n.toNat) := rfl
theorem info_csrw (x : Reg) (n : BitVec 16) : (Instr.csrw x n).info = uniA [src x 1 247] (sysWritable.contains n.toNat) := rfl
theorem info_tlbiAll (o : Ord) : (Instr.tlbiAll o).info = { uniL o [] false false false (inRange o.scope.toNat 3 5) with privileged := true } := rfl
theorem info_tlbiVa (a : Reg) (o : Ord) : (Instr.tlbiVa a o).info = { uniL o [src a 2 223] false false false (inRange o.scope.toNat 3 5) with privileged := true } := rfl
theorem info_iclock (d : Reg) (a : Reg) (b : Reg) : (Instr.iclock d a b).info = uniA [src a 2 223, src b 1 247, dst d] := rfl
theorem info_icunlk (a : Reg) (b : Reg) : (Instr.icunlk a b).info = uniA [src a 2 223, src b 1 247] := rfl
theorem info_keyld (x : Reg) (a : Reg) (o : Ord) : (Instr.keyld x a o).info = { uniL o [src a 1 223, src x 1 223] true false false with privileged := true } := rfl
theorem info_ctxsv (a : Reg) (o : Ord) : (Instr.ctxsv a o).info = { uniL o [src a 2 223] false false false with privileged := true } := rfl
theorem info_ctxld (a : Reg) (o : Ord) : (Instr.ctxld a o).info = { uniL o [src a 2 223] false false false with privileged := true } := rfl
theorem info_dbgh (a : Reg) (v : BitVec 2) : (Instr.dbgh a v).info = { uniA [src a 2 223] with privileged := true } := rfl

end Sys2Proof.Machine
end

