-- ==== Sys2Proof/Laws/PerInstr.lean ====
section
/-! SUPPORT. One lemma per constructor: the family WordLength says that an instruction's words are as many as the bytes its
length counts (spec/02_formats.md R31, R32, R79). -/

namespace Sys2Proof.Laws.WordLength

/-- The words of an instruction fill exactly the bytes the program counter moves by; a row that is no word has none. -/
def Statement (i : Instr) : Prop := if i.info.word then 4 * i.encode.length = i.len else i.encode = []

theorem nop : Statement (.nop) := rfl
theorem bra (off : BitVec 20) : Statement (.bra off) := rfl
theorem brc (k : BitVec 4) (off : BitVec 20) : Statement (.brc k off) := rfl
theorem call (off : BitVec 20) : Statement (.call off) := rfl
theorem ret : Statement (.ret) := rfl
theorem retPair (p : Reg) : Statement (.retPair p) := rfl
theorem jmpi (p : Reg) : Statement (.jmpi p) := rfl
theorem calli (p : Reg) : Statement (.calli p) := rfl
theorem calliLink (d p : Reg) : Statement (.calliLink d p) := rfl
theorem exit : Statement (.exit) := rfl
theorem vote (k : BitVec 8) (x : Reg) (v : BitVec 2) : Statement (.vote k x v) := rfl
theorem bru (off : BitVec 20) : Statement (.bru off) := rfl
theorem bruMask (k : BitVec 4) (off : BitVec 20) : Statement (.bruMask k off) := rfl
theorem join (k : BitVec 8) : Statement (.join k) := rfl
theorem leave (k : BitVec 8) : Statement (.leave k) := rfl
theorem waitm (k : BitVec 8) : Statement (.waitm k) := rfl
theorem mand (k a b : BitVec 8) : Statement (.mand k a b) := rfl
theorem mor (k a b : BitVec 8) : Statement (.mor k a b) := rfl
theorem mxor (k a b : BitVec 8) : Statement (.mxor k a b) := rfl
theorem mandn (k a b : BitVec 8) : Statement (.mandn k a b) := rfl
theorem mmovMM (k a : BitVec 8) : Statement (.mmovMM k a) := rfl
theorem mmovMG (k : BitVec 8) (a : Reg) : Statement (.mmovMG k a) := rfl
theorem mmovGM (d : Reg) (a : BitVec 8) : Statement (.mmovGM d a) := rfl
theorem yieldGang : Statement (.yieldGang) := rfl
theorem sleep (x : Reg) : Statement (.sleep x) := rfl
theorem roleGet (d : Reg) : Statement (.roleGet d) := rfl
theorem roleSet (x : Reg) : Statement (.roleSet x) := rfl
theorem mpop (d : Reg) (a : BitVec 8) (v : BitVec 2) : Statement (.mpop d a v) := rfl
theorem add (p : OPfx) (d a b : Reg) : Statement (.add p d a b) := by cases p <;> rfl
theorem sub (p : OPfx) (d a b : Reg) : Statement (.sub p d a b) := by cases p <;> rfl
theorem addc (p : OPfx) (d a b : Reg) : Statement (.addc p d a b) := by cases p <;> rfl
theorem mul (p : OPfx) (d a b : Reg) : Statement (.mul p d a b) := by cases p <;> rfl
theorem mulh (p : OPfx) (d a b : Reg) : Statement (.mulh p d a b) := by cases p <;> rfl
theorem mad (p : OPfx) (d a b : Reg) : Statement (.mad p d a b) := by cases p <;> rfl
theorem div (p : OPfx) (d a b : Reg) : Statement (.div p d a b) := by cases p <;> rfl
theorem rem (p : OPfx) (d a b : Reg) : Statement (.rem p d a b) := by cases p <;> rfl
theorem min (p : OPfx) (d a b : Reg) : Statement (.min p d a b) := by cases p <;> rfl
theorem max (p : OPfx) (d a b : Reg) : Statement (.max p d a b) := by cases p <;> rfl
theorem abs (p : OPfx) (d a : Reg) : Statement (.abs p d a) := by cases p <;> rfl
theorem and (p : OPfx) (d a b : Reg) : Statement (.and p d a b) := by cases p <;> rfl
theorem or (p : OPfx) (d a b : Reg) : Statement (.or p d a b) := by cases p <;> rfl
theorem xor (p : OPfx) (d a b : Reg) : Statement (.xor p d a b) := by cases p <;> rfl
theorem andn (p : OPfx) (d a b : Reg) : Statement (.andn p d a b) := by cases p <;> rfl
theorem shl (p : OPfx) (d a b : Reg) : Statement (.shl p d a b) := by cases p <;> rfl
theorem shr (p : OPfx) (d a b : Reg) : Statement (.shr p d a b) := by cases p <;> rfl
theorem fsh (p : OPfx) (d a b : Reg) : Statement (.fsh p d a b) := by cases p <;> rfl
theorem bfx (p : OPfx) (d a b : Reg) : Statement (.bfx p d a b) := by cases p <;> rfl
theorem bfi (p : OPfx) (d a b : Reg) : Statement (.bfi p d a b) := by cases p <;> rfl
theorem popc (p : OPfx) (d a : Reg) : Statement (.popc p d a) := by cases p <;> rfl
theorem clz (p : OPfx) (d a : Reg) : Statement (.clz p d a) := by cases p <;> rfl
theorem ctz (p : OPfx) (d a : Reg) : Statement (.ctz p d a) := by cases p <;> rfl
theorem brev (p : OPfx) (d a : Reg) : Statement (.brev p d a) := by cases p <;> rfl
theorem sel (p : OPfx) (d a b : Reg) : Statement (.sel p d a b) := by cases p <;> rfl
theorem cmpm (p : OPfx) (cc k : BitVec 4) (a b : Reg) : Statement (.cmpm p cc k a b) := by cases p <;> rfl
theorem movi (p : OPfx) (d : Reg) (imm : BitVec 16) : Statement (.movi p d imm) := by cases p <;> rfl
theorem movh (p : OPfx) (d : Reg) (imm : BitVec 16) : Statement (.movh p d imm) := by cases p <;> rfl
theorem addi (p : OPfx) (d : Reg) (imm : BitVec 16) : Statement (.addi p d imm) := by cases p <;> rfl
theorem mov (p : OPfx) (d a : Reg) : Statement (.mov p d a) := by cases p <;> rfl
theorem lea (p : OPfx) (d a b : Reg) : Statement (.lea p d a b) := by cases p <;> rfl
theorem uadd (d a b : Reg) : Statement (.uadd d a b) := rfl
theorem usub (d a b : Reg) : Statement (.usub d a b) := rfl
theorem umul (d a b : Reg) : Statement (.umul d a b) := rfl
theorem uand (d a b : Reg) : Statement (.uand d a b) := rfl
theorem uor (d a b : Reg) : Statement (.uor d a b) := rfl
theorem uxor (d a b : Reg) : Statement (.uxor d a b) := rfl
theorem ushl (d a b : Reg) : Statement (.ushl d a b) := rfl
theorem ushr (d a b : Reg) : Statement (.ushr d a b) := rfl
theorem umovi (d : Reg) (imm : BitVec 16) : Statement (.umovi d imm) := rfl
theorem umovh (d : Reg) (imm : BitVec 16) : Statement (.umovh d imm) := rfl
theorem shfi (p : OPfx) (d a : Reg) (wid : BitVec 3) (flg : BitVec 4) : Statement (.shfi p d a wid flg) := by cases p <;> rfl
theorem shfu (p : OPfx) (d a : Reg) (wid : BitVec 3) (flg : BitVec 4) : Statement (.shfu p d a wid flg) := by cases p <;> rfl
theorem shfd (p : OPfx) (d a : Reg) (wid : BitVec 3) (flg : BitVec 4) : Statement (.shfd p d a wid flg) := by cases p <;> rfl
theorem shfx (p : OPfx) (d a : Reg) (wid : BitVec 3) (flg : BitVec 4) : Statement (.shfx p d a wid flg) := by cases p <;> rfl
theorem cxs (p : OPfx) (d a : Reg) (rev : Bool) (lk lj : BitVec 3) : Statement (.cxs p d a rev lk lj) := by cases p <;> rfl
theorem perm (p : OPfx) (d a b : Reg) : Statement (.perm p d a b) := by cases p <;> rfl
theorem scan (p : OPfx) (d a : Reg) (wid : BitVec 3) (ex : Bool) (op : BitVec 2) : Statement (.scan p d a wid ex op) := by cases p <;> rfl
theorem fadd (p : OPfx) (d a b : Reg) : Statement (.fadd p d a b) := by cases p <;> rfl
theorem fsub (p : OPfx) (d a b : Reg) : Statement (.fsub p d a b) := by cases p <;> rfl
theorem fmul (p : OPfx) (d a b : Reg) : Statement (.fmul p d a b) := by cases p <;> rfl
theorem ffma (p : OPfx) (d a b : Reg) : Statement (.ffma p d a b) := by cases p <;> rfl
theorem fmin (p : OPfx) (d a b : Reg) : Statement (.fmin p d a b) := by cases p <;> rfl
theorem fmax (p : OPfx) (d a b : Reg) : Statement (.fmax p d a b) := by cases p <;> rfl
theorem fabs (p : OPfx) (d a : Reg) : Statement (.fabs p d a) := by cases p <;> rfl
theorem fneg (p : OPfx) (d a : Reg) : Statement (.fneg p d a) := by cases p <;> rfl
theorem fcmp (p : OPfx) (cc k : BitVec 4) (a b : Reg) : Statement (.fcmp p cc k a b) := by cases p <;> rfl
theorem fcvt (p : OPfx) (d a : Reg) (st : BitVec 8) : Statement (.fcvt p d a st) := by cases p <;> rfl
theorem fcvti (p : OPfx) (d a : Reg) (st : BitVec 8) : Statement (.fcvti p d a st) := by cases p <;> rfl
theorem icvtf (p : OPfx) (d a : Reg) (st : BitVec 8) : Statement (.icvtf p d a st) := by cases p <;> rfl
theorem fadd2 (p : OPfx) (d a b : Reg) : Statement (.fadd2 p d a b) := by cases p <;> rfl
theorem fmul2 (p : OPfx) (d a b : Reg) : Statement (.fmul2 p d a b) := by cases p <;> rfl
theorem ffma2 (p : OPfx) (d a b : Reg) : Statement (.ffma2 p d a b) := by cases p <;> rfl
theorem fclass (p : OPfx) (d a : Reg) : Statement (.fclass p d a) := by cases p <;> rfl
theorem sfq (p : OPfx) (d a : Reg) (tok fn : BitVec 4) : Statement (.sfq p d a tok fn) := by cases p <;> rfl
theorem sfwait (p : OPfx) (m : BitVec 16) : Statement (.sfwait p m) := by cases p <;> rfl
theorem frnd (p : OPfx) (d a : Reg) : Statement (.frnd p d a) := by cases p <;> rfl
theorem fscl (p : OPfx) (d a b : Reg) : Statement (.fscl p d a b) := by cases p <;> rfl
theorem fdiv (p : OPfx) (d a b : Reg) : Statement (.fdiv p d a b) := by cases p <;> rfl
theorem fsqrt (p : OPfx) (d a : Reg) : Statement (.fsqrt p d a) := by cases p <;> rfl
theorem swait (sm : BitVec 8) (n : BitVec 8) : Statement (.swait sm n) := rfl
theorem ldg (p : OPfx) (d a : Reg) (x4 : Bool) (o : Ord) : Statement (.ldg p d a x4 o) := by cases p <;> rfl
theorem stg (p : OPfx) (d a : Reg) (x4 : Bool) (o : Ord) : Statement (.stg p d a x4 o) := by cases p <;> rfl
theorem lds (p : OPfx) (d a : Reg) (x4 : Bool) (o : Ord) : Statement (.lds p d a x4 o) := by cases p <;> rfl
theorem sts (p : OPfx) (d a : Reg) (x4 : Bool) (o : Ord) : Statement (.sts p d a x4 o) := by cases p <;> rfl
theorem ldp (p : OPfx) (d a : Reg) (x4 : Bool) (o : Ord) : Statement (.ldp p d a x4 o) := by cases p <;> rfl
theorem stp (p : OPfx) (d a : Reg) (x4 : Bool) (o : Ord) : Statement (.stp p d a x4 o) := by cases p <;> rfl
theorem pfg (p : OPfx) (a : Reg) (lvl : Bool) (o : Ord) : Statement (.pfg p a lvl o) := by cases p <;> rfl
theorem uldg (d a : Reg) (sz : BitVec 2) (o : Ord) : Statement (.uldg d a sz o) := rfl
theorem ustg (d a : Reg) (sz : BitVec 2) (o : Ord) : Statement (.ustg d a sz o) := rfl
theorem ulds (d a : Reg) (sz : BitVec 2) (o : Ord) : Statement (.ulds d a sz o) := rfl
theorem usts (d a : Reg) (sz : BitVec 2) (o : Ord) : Statement (.usts d a sz o) := rfl
theorem atom (p : OPfx) (d a : Reg) (op : BitVec 4) (sp : BitVec 2) (o : Ord) : Statement (.atom p d a op sp o) := by cases p <;> rfl
theorem cas (p : OPfx) (d a : Reg) (sp : BitVec 2) (o : Ord) : Statement (.cas p d a sp o) := by cases p <;> rfl
theorem cas128 (p : OPfx) (d a : Reg) (sp : BitVec 2) (o : Ord) : Statement (.cas128 p d a sp o) := by cases p <;> rfl
theorem red (p : OPfx) (d a : Reg) (op : BitVec 4) (sp : BitVec 2) (o : Ord) : Statement (.red p d a op sp o) := by cases p <;> rfl
theorem uatom (d a : Reg) (op : BitVec 4) (w sg : Bool) (sp : BitVec 2) (o : Ord) : Statement (.uatom d a op w sg sp o) := rfl
theorem ucas (d a : Reg) (w : Bool) (sp : BitVec 2) (o : Ord) : Statement (.ucas d a w sp o) := rfl
theorem barr (bar : BitVec 5) (o : Ord) : Statement (.barr bar o) := rfl
theorem barrPhase (d : Reg) (bar : BitVec 5) (o : Ord) : Statement (.barrPhase d bar o) := rfl
theorem barw (x : Reg) (bar : BitVec 5) (o : Ord) : Statement (.barw x bar o) := rfl
theorem bars (x : Reg) (bar : BitVec 5) (o : Ord) : Statement (.bars x bar o) := rfl
theorem tkt (d x : Reg) (o : Ord) : Statement (.tkt d x o) := rfl
theorem tktw (x y : Reg) : Statement (.tktw x y) := rfl
theorem tktsNext (x : Reg) (o : Ord) : Statement (.tktsNext x o) := rfl
theorem tktsSet (x y : Reg) (o : Ord) : Statement (.tktsSet x y o) := rfl
theorem qlk (d x : Reg) (o : Ord) : Statement (.qlk d x o) := rfl
theorem qul (x : Reg) (o : Ord) : Statement (.qul x o) := rfl
theorem barge (a : Reg) (o : Ord) : Statement (.barge a o) := rfl
theorem tagw (a : Reg) (any : Bool) : Statement (.tagw a any) := rfl
theorem tagf (d a : Reg) (clr : Bool) : Statement (.tagf d a clr) := rfl
theorem tagclr (a : Reg) : Statement (.tagclr a) := rfl
theorem rawait (d a : Reg) (free : Bool) (o : Ord) : Statement (.rawait d a free o) := rfl
theorem rarel (a : Reg) (o : Ord) : Statement (.rarel a o) := rfl
theorem rapub (a : Reg) (o : Ord) : Statement (.rapub a o) := rfl
theorem waity (a : Reg) (mode : BitVec 2) : Statement (.waity a mode) := rfl
theorem ioreq (p : OPfx) (a : Reg) (o : Ord) : Statement (.ioreq p a o) := by cases p <;> rfl
theorem eadd (p : OPfx) (d a b : Reg) : Statement (.eadd p d a b) := by cases p <;> rfl
theorem esub (p : OPfx) (d a b : Reg) : Statement (.esub p d a b) := by cases p <;> rfl
theorem emul (p : OPfx) (d a b : Reg) : Statement (.emul p d a b) := by cases p <;> rfl
theorem ediv (p : OPfx) (d a b : Reg) : Statement (.ediv p d a b) := by cases p <;> rfl
theorem esqrt (p : OPfx) (d a : Reg) : Statement (.esqrt p d a) := by cases p <;> rfl
theorem eneg (p : OPfx) (d a : Reg) : Statement (.eneg p d a) := by cases p <;> rfl
theorem esq (p : OPfx) (d a : Reg) : Statement (.esq p d a) := by cases p <;> rfl
theorem efma (p : OPfx) (d a b : Reg) : Statement (.efma p d a b) := by cases p <;> rfl
theorem eleaf (p : OPfx) (d x : Reg) : Statement (.eleaf p d x) := by cases p <;> rfl
theorem eleafi (p : OPfx) (d x : Reg) : Statement (.eleafi p d x) := by cases p <;> rfl
theorem emov (p : OPfx) (d a : Reg) (adopt : Bool) : Statement (.emov p d a adopt) := by cases p <;> rfl
theorem ebnd (p : OPfx) (d a : Reg) (v : BitVec 2) : Statement (.ebnd p d a v) := by
  have h : v = 0 ∨ v = 1 ∨ v = 2 ∨ v = 3 := by revert v; decide
  cases p <;> rcases h with rfl | rfl | rfl | rfl <;> rfl
theorem esever (p : OPfx) (d a : Reg) (opaq : Bool) : Statement (.esever p d a opaq) := by cases p <;> rfl
theorem ewid (p : OPfx) (d a : Reg) (rel : Bool) : Statement (.ewid p d a rel) := by cases p <;> rfl
theorem ecmp (p : OPfx) (cc k : BitVec 4) (a : Reg) (u : BitVec 4) : Statement (.ecmp p cc k a u) := by cases p <;> rfl
theorem esgn (p : OPfx) (d a : Reg) (u : BitVec 4) : Statement (.esgn p d a u) := by cases p <;> rfl
theorem mma (p : OPfx) (a b : Reg) (o : Ord) (e : MmaWord) : Statement (.mma p a b o e) := by cases p <;> rfl
theorem accz (p : OPfx) (o : Ord) (acc : BitVec 3) : Statement (.accz p o acc) := by cases p <;> rfl
theorem accrd (p : OPfx) (d : Reg) (o : Ord) (acc : BitVec 3) (form : BitVec 2) (fin : Bool) : Statement (.accrd p d o acc form fin) := by cases p <;> rfl
theorem accwr (p : OPfx) (a : Reg) (o : Ord) (acc : BitVec 3) (form : BitVec 2) : Statement (.accwr p a o acc form) := by cases p <;> rfl
theorem qnt (p : OPfx) (d a : Reg) (o : Ord) (e : QntWord) : Statement (.qnt p d a o e) := by cases p <;> rfl
theorem dqnt (p : OPfx) (d a : Reg) (o : Ord) (e : QntWord) : Statement (.dqnt p d a o e) := by cases p <;> rfl
theorem ctbl (p : OPfx) (a : Reg) (o : Ord) : Statement (.ctbl p a o) := by cases p <;> rfl
theorem wcfg (p : OPfx) (a : Reg) (o : Ord) : Statement (.wcfg p a o) := by cases p <;> rfl
theorem wsig (p : OPfx) (d a : Reg) (o : Ord) (bf : Bool) : Statement (.wsig p d a o bf) := by cases p <;> rfl
theorem wtest (p : OPfx) (d x c : Reg) (o : Ord) (n : Reg) (skm : BitVec 4) : Statement (.wtest p d x c o n skm) := by cases p <;> rfl
theorem wskip (p : OPfx) (d x : Reg) (o : Ord) (v : BitVec 2) : Statement (.wskip p d x o v) := by cases p <;> rfl
theorem wstep (p : OPfx) (o : Ord) : Statement (.wstep p o) := by cases p <;> rfl
theorem wstepSet (p : OPfx) (x : Reg) (o : Ord) : Statement (.wstepSet p x o) := by cases p <;> rfl
theorem nbrk (p : OPfx) (a : Reg) (o : Ord) (t : TagWord) : Statement (.nbrk p a o t) := by cases p <;> rfl
theorem nbrr (p : OPfx) (a : Reg) (o : Ord) (t : TagWord) : Statement (.nbrr p a o t) := by cases p <;> rfl
theorem siteh (p : OPfx) (a : Reg) (o : Ord) (t : TagWord) : Statement (.siteh p a o t) := by cases p <;> rfl
theorem rule (p : OPfx) (a : Reg) (o : Ord) (t : TagWord) : Statement (.rule p a o t) := by cases p <;> rfl
theorem ruleSub (p : OPfx) (a : Reg) (o : Ord) (t : TagWord) : Statement (.ruleSub p a o t) := by cases p <;> rfl
theorem pgat (p : OPfx) (a : Reg) (o : Ord) (f32 : Bool) (t : TagWord) : Statement (.pgat p a o f32 t) := by cases p <;> rfl
theorem psca (p : OPfx) (a : Reg) (o : Ord) (t : TagWord) : Statement (.psca p a o t) := by cases p <;> rfl
theorem spawn (x a b : Reg) (o : Ord) : Statement (.spawn x a b o) := rfl
theorem bflush (x : Reg) : Statement (.bflush x) := rfl
theorem bflushAll : Statement (.bflushAll) := rfl
theorem claim (n : BitVec 4) : Statement (.claim n) := rfl
theorem claimTry (d : Reg) (n : BitVec 4) : Statement (.claimTry d n) := rfl
theorem give (n : BitVec 4) : Statement (.give n) := rfl
theorem giveRole (r : BitVec 2) (n : BitVec 4) : Statement (.giveRole r n) := rfl
theorem cyield : Statement (.cyield) := rfl
theorem tdone (k : BitVec 8) (act : BitVec 2) : Statement (.tdone k act) := rfl
theorem qlen (d q : Reg) (room : Bool) : Statement (.qlen d q room) := rfl
theorem mcst (x a : Reg) (sz : BitVec 2) (o : Ord) : Statement (.mcst x a sz o) := rfl
theorem rchk (d a : Reg) (o : Ord) : Statement (.rchk d a o) := rfl
theorem resync (a : Reg) (o : Ord) : Statement (.resync a o) := rfl
theorem slotq (d : Reg) (v : BitVec 2) : Statement (.slotq d v) := rfl
theorem slotr (d : Reg) : Statement (.slotr d) := rfl
theorem slotw (x : Reg) : Statement (.slotw x) := rfl
theorem rstat (d a : Reg) : Statement (.rstat d a) := rfl
theorem trap (n : BitVec 8) : Statement (.trap n) := rfl
theorem brk (n : BitVec 8) : Statement (.brk n) := rfl
theorem eret : Statement (.eret) := rfl
theorem eretKill : Statement (.eretKill) := rfl
theorem csrr (d : Reg) (n : BitVec 16) : Statement (.csrr d n) := rfl
theorem csrw (x : Reg) (n : BitVec 16) : Statement (.csrw x n) := rfl
theorem tlbiAll (o : Ord) : Statement (.tlbiAll o) := rfl
theorem tlbiVa (a : Reg) (o : Ord) : Statement (.tlbiVa a o) := rfl
theorem iclock (d a b : Reg) : Statement (.iclock d a b) := rfl
theorem icunlk (a b : Reg) : Statement (.icunlk a b) := rfl
theorem keyld (x a : Reg) (o : Ord) : Statement (.keyld x a o) := rfl
theorem ctxsv (a : Reg) (o : Ord) : Statement (.ctxsv a o) := rfl
theorem ctxld (a : Reg) (o : Ord) : Statement (.ctxld a o) := rfl
theorem dbgh (a : Reg) (v : BitVec 2) : Statement (.dbgh a v) := rfl
theorem sleepEnd : Statement .sleepEnd := rfl
theorem starvationTurn : Statement .starvationTurn := rfl
theorem sfqComplete : Statement .sfqComplete := rfl
theorem loadComplete : Statement .loadComplete := rfl
theorem storeComplete : Statement .storeComplete := rfl
theorem prefetchComplete : Statement .prefetchComplete := rfl
theorem pageTableWalk : Statement .pageTableWalk := rfl
theorem replay : Statement .replay := rfl
theorem operationFailure : Statement .operationFailure := rfl
theorem hostCompletionTimeout : Statement .hostCompletionTimeout := rfl
theorem atomicPerform : Statement .atomicPerform := rfl
theorem atomicComplete : Statement .atomicComplete := rfl
theorem barrierArrivalCounts : Statement .barrierArrivalCounts := rfl
theorem barsActs : Statement .barsActs := rfl
theorem tktwWake : Statement .tktwWake := rfl
theorem tktsUpdate : Statement .tktsUpdate := rfl
theorem qlkGrant : Statement .qlkGrant := rfl
theorem qulRelease : Statement .qulRelease := rfl
theorem bargeEngineTake : Statement .bargeEngineTake := rfl
theorem bargeComplete : Statement .bargeComplete := rfl
theorem bargeFault : Statement .bargeFault := rfl
theorem rawaitComplete : Statement .rawaitComplete := rfl
theorem rarelRelease : Statement .rarelRelease := rfl
theorem advanceReady : Statement .advanceReady := rfl
theorem crewYield : Statement .crewYield := rfl
theorem crewReturn : Statement .crewReturn := rfl
theorem ioreqPost : Statement .ioreqPost := rfl
theorem ioRequestEnd : Statement .ioRequestEnd := rfl
theorem ioTimeout : Statement .ioTimeout := rfl
theorem reclamation : Statement .reclamation := rfl
theorem refinementAdmit : Statement .refinementAdmit := rfl
theorem refinementEnd : Statement .refinementEnd := rfl
theorem matrixCommandStart : Statement .matrixCommandStart := rfl
theorem subarrayGate : Statement .subarrayGate := rfl
theorem operandsConsumed : Statement .operandsConsumed := rfl
theorem matrixCommandComplete : Statement .matrixCommandComplete := rfl
theorem wtestEntryUpdate : Statement .wtestEntryUpdate := rfl
theorem weirContextLoad : Statement .weirContextLoad := rfl
theorem weirCommandComplete : Statement .weirCommandComplete := rfl
theorem pointCommandComplete : Statement .pointCommandComplete := rfl
theorem pointCommandFault : Statement .pointCommandFault := rfl
theorem spawnTasksEnter : Statement .spawnTasksEnter := rfl
theorem binTimerExpiry : Statement .binTimerExpiry := rfl
theorem taskGangPlace : Statement .taskGangPlace := rfl
theorem q24Fill : Statement .q24Fill := rfl
theorem coreReserve : Statement .coreReserve := rfl
theorem cyieldAct : Statement .cyieldAct := rfl
theorem aqueductSlot : Statement .aqueductSlot := rfl
theorem aqueductWriteApply : Statement .aqueductWriteApply := rfl
theorem resyncComplete : Statement .resyncComplete := rfl
theorem slotwWake : Statement .slotwWake := rfl
theorem trapEntry : Statement .trapEntry := rfl
theorem preemption : Statement .preemption := rfl
theorem convoyRestore : Statement .convoyRestore := rfl
theorem gangRetire : Statement .gangRetire := rfl
theorem convoyPlace : Statement .convoyPlace := rfl
theorem drainStart : Statement .drainStart := rfl
theorem drainPreempt : Statement .drainPreempt := rfl
theorem watchdogExpiry : Statement .watchdogExpiry := rfl
theorem routerGate : Statement .routerGate := rfl
theorem routerWake : Statement .routerWake := rfl
theorem deadlockEscape : Statement .deadlockEscape := rfl
theorem hostApertureAccess : Statement .hostApertureAccess := rfl
theorem qwrDoorbell : Statement .qwrDoorbell := rfl
theorem queueEnable : Statement .queueEnable := rfl
theorem queueReset : Statement .queueReset := rfl
theorem resume : Statement .resume := rfl
theorem registerWrite : Statement .registerWrite := rfl
theorem commandNop : Statement .commandNop := rfl
theorem launch : Statement .launch := rfl
theorem launchComplete : Statement .launchComplete := rfl
theorem depwait : Statement .depwait := rfl
theorem depwaitPoll : Statement .depwaitPoll := rfl
theorem signal : Statement .signal := rfl
theorem copyc : Statement .copyc := rfl
theorem copyComplete : Statement .copyComplete := rfl
theorem mark : Statement .mark := rfl
theorem jump : Statement .jump := rfl
theorem setpri : Statement .setpri := rfl
theorem stamp : Statement .stamp := rfl
theorem tlbcVa : Statement .tlbcVa := rfl
theorem tlbcAll : Statement .tlbcAll := rfl
theorem evrdWrite : Statement .evrdWrite := rfl
theorem export_ : Statement .export_ := rfl
theorem import_ : Statement .import_ := rfl
theorem revoke : Statement .revoke := rfl
theorem createRegion : Statement .createRegion := rfl
theorem freeRegion : Statement .freeRegion := rfl
theorem writeIoTargetEntry : Statement .writeIoTargetEntry := rfl
theorem assignKeyIndices : Statement .assignKeyIndices := rfl
theorem unassignKeyIndices : Statement .unassignKeyIndices := rfl
theorem loadCodeSegment : Statement .loadCodeSegment := rfl
theorem freeSegment : Statement .freeSegment := rfl
theorem debugHalt : Statement .debugHalt := rfl
theorem debugRun : Statement .debugRun := rfl
theorem debugStep : Statement .debugStep := rfl
theorem debugSnap : Statement .debugSnap := rfl
theorem sleepDevice : Statement .sleepDevice := rfl
theorem wakeDevice : Statement .wakeDevice := rfl
theorem assignLayersAndPorts : Statement .assignLayersAndPorts := rfl
theorem setKernelState : Statement .setKernelState := rfl
theorem warmStartRequest : Statement .warmStartRequest := rfl
theorem coldStartRequest : Statement .coldStartRequest := rfl
theorem startRequestLapse : Statement .startRequestLapse := rfl
theorem coldStart : Statement .coldStart := rfl
theorem warmStart : Statement .warmStart := rfl
theorem readySet : Statement .readySet := rfl
theorem freezeWrite : Statement .freezeWrite := rfl
theorem freezeLapse : Statement .freezeLapse := rfl
theorem freeze : Statement .freeze := rfl
theorem thermalThrottle : Statement .thermalThrottle := rfl
theorem ethernetLinkChange : Statement .ethernetLinkChange := rfl
theorem tktComplete : Statement .tktComplete := rfl
theorem rchkComplete : Statement .rchkComplete := rfl
theorem pcieLinkChange : Statement .pcieLinkChange := rfl

end Sys2Proof.Laws.WordLength
end

