-- ==== Sys2Proof/Laws/Trap.lean ====
section
/-! SUPPORT. What the beginning of a trap's entry records (spec/06_streams.md R178, spec/17_system.md R432). -/

namespace Sys2Proof.Machine

/-- A frame has 256 counters. -/
theorem State.counterList_length (s : State) (gid : Nat) : (s.counterList gid).length = 256 := by
  unfold State.counterList
  simp

theorem State.counterList_ne_nil (s : State) (gid : Nat) : s.counterList gid ≠ [] := fun h => by
  have := s.counterList_length gid
  rw [h] at this
  exact absurd this (by decide)

/-- Recording the counters changes a pending trap alone. -/
theorem State.record_rest (s : State) (gid : Nat) : s.record gid = { s with gangs := (s.record gid).gangs } := rfl

theorem State.record_gang_ne (s : State) (gid j : Nat) (h : gid ≠ j) : (s.record gid).gang j = s.gang j := State.gang_modGang_ne s gid j _ h

theorem State.record_gang (s : State) (gid : Nat) (h : (find s.gangs gid).isSome) :
    (s.record gid).gang gid = { s.gang gid with
      pend := (s.gang gid).pend.map fun t => if t.counters.isEmpty then { t with counters := s.counterList gid } else t } :=
  State.gang_modGang s gid _ h

/-- A trap at issue has its counters recorded: its entry records none. -/
theorem State.record_done {s : State} {gid : Nat} {t : Trap} (h : (s.gang gid).pend = some t) (hc : t.counters ≠ []) : s.record gid = s := by
  have hid : s.modGang gid (fun g => g) = s := by unfold State.modGang; rw [alter_id]
  conv_rhs => rw [← hid]
  refine State.modGang_congr s gid _ _ ?_
  rw [h]
  have he : t.counters.isEmpty = false := by simpa using hc
  simp only [Option.map_some, he, Bool.false_eq_true, if_false]
  rw [← h]

/-- No trap is pending: nothing is recorded. -/
theorem State.record_none {s : State} {gid : Nat} (h : (s.gang gid).pend = none) : s.record gid = s := by
  have hid : s.modGang gid (fun g => g) = s := by unfold State.modGang; rw [alter_id]
  conv_rhs => rw [← hid]
  refine State.modGang_congr s gid _ _ ?_
  rw [h, Option.map_none, ← h]

end Sys2Proof.Machine
end

