-- ==== Sys2Proof/Laws/Turns.lean ====
section
/-! SUPPORT. What an offer of an issue slot changes (spec/03_control.md R78, R100), what a translation leaves in the TLBs (spec/07_access.md
R207), and the traffic of a fetch (R203). -/

namespace Sys2Proof.Machine

/-- An offer notes its slot in the core and the yields of the quadrant's gangs: nothing else changes. -/
theorem State.noteOffer_rest (s : State) (g : Nat) :
    s.noteOffer g = { s with gangs := (s.noteOffer g).gangs, cores := (s.noteOffer g).cores } := rfl

/-- A corrected error of a turn is counted in its layer: nothing else changes. -/
theorem State.errTurn_rest (s : State) (g err : Nat) : (s.errTurn g err).1 = { s with layers := (s.errTurn g err).1.layers } := by
  unfold State.errTurn
  split <;> rfl

/-- What of the gangs an offer leaves as it was: all but their yields and the clk of their turn. -/
theorem State.noteOffer_gang (s : State) (g j : Nat) :
    ∃ y n m, (s.noteOffer g).gang j = { s.gang j with yielded := y, turned := n, moved := m } := by
  have key : ∀ (m : List (Nat × Gang)) (φ : Nat × Gang → Nat × Gang),
      (∀ p, ∃ y n k, φ p = (p.1, { p.2 with yielded := y, turned := n, moved := k })) →
      ∃ y n k, look (m.map φ) j default = { look m j default with yielded := y, turned := n, moved := k } := by
    intro m φ hφ
    induction m with
    | nil => exact ⟨(default : Gang).yielded, (default : Gang).turned, (default : Gang).moved, rfl⟩
    | cons p r ih =>
      obtain ⟨k, x⟩ := p
      obtain ⟨y, n, q, hy⟩ := hφ (k, x)
      rw [List.map_cons, hy]
      unfold look
      dsimp only
      split
      · exact ⟨y, n, q, rfl⟩
      · exact ih
  refine key s.gangs _ fun p => ?_
  dsimp only
  split
  · exact ⟨none, s.clk, 0, rfl⟩
  · split
    · exact ⟨_, p.2.turned, p.2.moved, rfl⟩
    · exact ⟨p.2.yielded, p.2.turned, p.2.moved, rfl⟩

/-- A TLB that takes a translation changes its layer, and draws a free value where it is full. -/
theorem State.tlbTake_rest (s : State) (l : Nat) (e : TlbEntry) :
    s.tlbTake l e = { s with layers := (s.tlbTake l e).layers, free := (s.tlbTake l e).free } := by
  unfold State.tlbTake
  dsimp only
  split <;> rfl

theorem State.fillTlb_rest (s : State) (l via va : Nat) :
    s.fillTlb l via va = { s with layers := (s.fillTlb l via va).layers, free := (s.fillTlb l via va).free } := by
  unfold State.fillTlb
  split
  · next base log pte h =>
    clear h
    generalize tlbsOf via = us
    induction us generalizing s with
    | nil => rfl
    | cons u r ih =>
      rw [List.foldl_cons, ih]
      split
      · rfl
      · rw [State.tlbTake_rest]
  · rfl

/-- Traffic of a layer's routers changes that layer alone. -/
theorem State.noteRouters_rest (s : State) (l : Nat) (rs may : List Nat) :
    s.noteRouters l rs may = { s with layers := (s.noteRouters l rs may).layers } := rfl

/-- An access's traffic changes layers alone. -/
theorem State.notePlace_rest (s : State) (l : Nat) (k : Option Nat) (p : Place) :
    s.notePlace l k p = { s with layers := (s.notePlace l k p).layers } := by
  unfold State.notePlace
  dsimp only
  split
  · rfl
  · rfl
  · rfl
  · split <;> rfl

theorem State.noteAccess_rest (s : State) (l : Nat) (k : Option Nat) (acc : Access) (va n : Nat) :
    s.noteAccess l k acc va n = { s with layers := (s.noteAccess l k acc va n).layers } := by
  unfold State.noteAccess
  split
  · next ps h =>
    clear h
    induction ps generalizing s with
    | nil => rfl
    | cons p r ih => rw [List.foldl_cons, ih, State.notePlace_rest]
  · rfl

/-- Fetched words are traffic of layers: nothing else changes (R203). -/
theorem State.noteFetch_rest (s : State) (gid pc n : Nat) : s.noteFetch gid pc n = { s with layers := (s.noteFetch gid pc n).layers } := by
  unfold State.noteFetch
  dsimp only
  generalize List.range n = ks
  suffices key : ∀ t : State, ks.foldl _ t = { t with layers := (ks.foldl _ t).layers } from key s
  induction ks with
  | nil => intro t; rfl
  | cons k r ih =>
    intro t
    rw [List.foldl_cons, ih]
    split
    · rfl
    · split
      · rw [State.notePlace_rest]
      · rfl

end Sys2Proof.Machine
end

