-- ==== Sys2Proof/Laws/Words.lean ====
section
/-! SUPPORT. Every instruction word goes through issue. -/

namespace Sys2Proof.Machine

theorem exec_word (i : Instr) (s : State) (h : i.info.word = true) : ∃ eff, exec i s = issueInstr i s eff := by
  cases i <;> (try (cases h; done))
  case nop => rw [exec_nop]; unfold execNop; exact ⟨_, rfl⟩
  case bra off => rw [exec_bra]; unfold execBra; exact ⟨_, rfl⟩
  case brc k off => rw [exec_brc]; unfold execBrc; exact ⟨_, rfl⟩
  case call off => rw [exec_call]; unfold execCall; exact ⟨_, rfl⟩
  case ret => rw [exec_ret]; unfold execRet; exact ⟨_, rfl⟩
  case retPair p => rw [exec_retPair]; unfold execRetPair; exact ⟨_, rfl⟩
  case jmpi p => rw [exec_jmpi]; unfold execJmpi; exact ⟨_, rfl⟩
  case calli p => rw [exec_calli]; unfold execCalli; exact ⟨_, rfl⟩
  case calliLink d p => rw [exec_calliLink]; unfold execCalliLink; exact ⟨_, rfl⟩
  case exit => rw [exec_exit]; unfold execExit; exact ⟨_, rfl⟩
  case vote k x v => rw [exec_vote]; unfold execVote; exact ⟨_, rfl⟩
  case bru off => rw [exec_bru]; unfold execBru; exact ⟨_, rfl⟩
  case bruMask k off => rw [exec_bruMask]; unfold execBruMask; exact ⟨_, rfl⟩
  case join k => rw [exec_join]; unfold execJoin; exact ⟨_, rfl⟩
  case leave k => rw [exec_leave]; unfold execLeave; exact ⟨_, rfl⟩
  case waitm k => rw [exec_waitm]; unfold execWaitm; exact ⟨_, rfl⟩
  case mand k a b => rw [exec_mand]; unfold execMand; exact ⟨_, rfl⟩
  case mor k a b => rw [exec_mor]; unfold execMor; exact ⟨_, rfl⟩
  case mxor k a b => rw [exec_mxor]; unfold execMxor; exact ⟨_, rfl⟩
  case mandn k a b => rw [exec_mandn]; unfold execMandn; exact ⟨_, rfl⟩
  case mmovMM k a => rw [exec_mmovMM]; unfold execMmovMM; exact ⟨_, rfl⟩
  case mmovMG k a => rw [exec_mmovMG]; unfold execMmovMG; exact ⟨_, rfl⟩
  case mmovGM d a => rw [exec_mmovGM]; unfold execMmovGM; exact ⟨_, rfl⟩
  case yieldGang => rw [exec_yieldGang]; unfold execYieldGang; exact ⟨_, rfl⟩
  case sleep x => rw [exec_sleep]; unfold execSleep; exact ⟨_, rfl⟩
  case roleGet d => rw [exec_roleGet]; unfold execRoleGet; exact ⟨_, rfl⟩
  case roleSet x => rw [exec_roleSet]; unfold execRoleSet; exact ⟨_, rfl⟩
  case mpop d a v => rw [exec_mpop]; unfold execMpop; exact ⟨_, rfl⟩
  case add p d a b => rw [exec_add]; unfold execAdd; exact ⟨_, rfl⟩
  case sub p d a b => rw [exec_sub]; unfold execSub; exact ⟨_, rfl⟩
  case addc p d a b => rw [exec_addc]; unfold execAddc; exact ⟨_, rfl⟩
  case mul p d a b => rw [exec_mul]; unfold execMul; exact ⟨_, rfl⟩
  case mulh p d a b => rw [exec_mulh]; unfold execMulh; exact ⟨_, rfl⟩
  case mad p d a b => rw [exec_mad]; unfold execMad; exact ⟨_, rfl⟩
  case div p d a b => rw [exec_div]; unfold execDiv; exact ⟨_, rfl⟩
  case rem p d a b => rw [exec_rem]; unfold execRem; exact ⟨_, rfl⟩
  case min p d a b => rw [exec_min]; unfold execMin; exact ⟨_, rfl⟩
  case max p d a b => rw [exec_max]; unfold execMax; exact ⟨_, rfl⟩
  case abs p d a => rw [exec_abs]; unfold execAbs; exact ⟨_, rfl⟩
  case and p d a b => rw [exec_and]; unfold execAnd; exact ⟨_, rfl⟩
  case or p d a b => rw [exec_or]; unfold execOr; exact ⟨_, rfl⟩
  case xor p d a b => rw [exec_xor]; unfold execXor; exact ⟨_, rfl⟩
  case andn p d a b => rw [exec_andn]; unfold execAndn; exact ⟨_, rfl⟩
  case shl p d a b => rw [exec_shl]; unfold execShl; exact ⟨_, rfl⟩
  case shr p d a b => rw [exec_shr]; unfold execShr; exact ⟨_, rfl⟩
  case fsh p d a b => rw [exec_fsh]; unfold execFsh; exact ⟨_, rfl⟩
  case bfx p d a b => rw [exec_bfx]; unfold execBfx; exact ⟨_, rfl⟩
  case bfi p d a b => rw [exec_bfi]; unfold execBfi; exact ⟨_, rfl⟩
  case popc p d a => rw [exec_popc]; unfold execPopc; exact ⟨_, rfl⟩
  case clz p d a => rw [exec_clz]; unfold execClz; exact ⟨_, rfl⟩
  case ctz p d a => rw [exec_ctz]; unfold execCtz; exact ⟨_, rfl⟩
  case brev p d a => rw [exec_brev]; unfold execBrev; exact ⟨_, rfl⟩
  case sel p d a b => rw [exec_sel]; unfold execSel; exact ⟨_, rfl⟩
  case cmpm p cc k a b => rw [exec_cmpm]; unfold execCmpm; exact ⟨_, rfl⟩
  case movi p d imm => rw [exec_movi]; unfold execMovi; exact ⟨_, rfl⟩
  case movh p d imm => rw [exec_movh]; unfold execMovh; exact ⟨_, rfl⟩
  case addi p d imm => rw [exec_addi]; unfold execAddi; exact ⟨_, rfl⟩
  case mov p d a => rw [exec_mov]; unfold execMov; exact ⟨_, rfl⟩
  case lea p d a b => rw [exec_lea]; unfold execLea; exact ⟨_, rfl⟩
  case uadd d a b => rw [exec_uadd]; unfold execUadd; exact ⟨_, rfl⟩
  case usub d a b => rw [exec_usub]; unfold execUsub; exact ⟨_, rfl⟩
  case umul d a b => rw [exec_umul]; unfold execUmul; exact ⟨_, rfl⟩
  case uand d a b => rw [exec_uand]; unfold execUand; exact ⟨_, rfl⟩
  case uor d a b => rw [exec_uor]; unfold execUor; exact ⟨_, rfl⟩
  case uxor d a b => rw [exec_uxor]; unfold execUxor; exact ⟨_, rfl⟩
  case ushl d a b => rw [exec_ushl]; unfold execUshl; exact ⟨_, rfl⟩
  case ushr d a b => rw [exec_ushr]; unfold execUshr; exact ⟨_, rfl⟩
  case umovi d imm => rw [exec_umovi]; unfold execUmovi; exact ⟨_, rfl⟩
  case umovh d imm => rw [exec_umovh]; unfold execUmovh; exact ⟨_, rfl⟩
  case shfi p d a wid flg => rw [exec_shfi]; unfold execShfi; exact ⟨_, rfl⟩
  case shfu p d a wid flg => rw [exec_shfu]; unfold execShfu; exact ⟨_, rfl⟩
  case shfd p d a wid flg => rw [exec_shfd]; unfold execShfd; exact ⟨_, rfl⟩
  case shfx p d a wid flg => rw [exec_shfx]; unfold execShfx; exact ⟨_, rfl⟩
  case cxs p d a rev lk lj => rw [exec_cxs]; unfold execCxs; exact ⟨_, rfl⟩
  case perm p d a b => rw [exec_perm]; unfold execPerm; exact ⟨_, rfl⟩
  case scan p d a wid ex op => rw [exec_scan]; unfold execScan; exact ⟨_, rfl⟩
  case fadd p d a b => rw [exec_fadd]; unfold execFadd; exact ⟨_, rfl⟩
  case fsub p d a b => rw [exec_fsub]; unfold execFsub; exact ⟨_, rfl⟩
  case fmul p d a b => rw [exec_fmul]; unfold execFmul; exact ⟨_, rfl⟩
  case ffma p d a b => rw [exec_ffma]; unfold execFfma; exact ⟨_, rfl⟩
  case fmin p d a b => rw [exec_fmin]; unfold execFmin; exact ⟨_, rfl⟩
  case fmax p d a b => rw [exec_fmax]; unfold execFmax; exact ⟨_, rfl⟩
  case fabs p d a => rw [exec_fabs]; unfold execFabs; exact ⟨_, rfl⟩
  case fneg p d a => rw [exec_fneg]; unfold execFneg; exact ⟨_, rfl⟩
  case fcmp p cc k a b => rw [exec_fcmp]; unfold execFcmp; exact ⟨_, rfl⟩
  case fcvt p d a st => rw [exec_fcvt]; unfold execFcvt; exact ⟨_, rfl⟩
  case fcvti p d a st => rw [exec_fcvti]; unfold execFcvti; exact ⟨_, rfl⟩
  case icvtf p d a st => rw [exec_icvtf]; unfold execIcvtf; exact ⟨_, rfl⟩
  case fadd2 p d a b => rw [exec_fadd2]; unfold execFadd2; exact ⟨_, rfl⟩
  case fmul2 p d a b => rw [exec_fmul2]; unfold execFmul2; exact ⟨_, rfl⟩
  case ffma2 p d a b => rw [exec_ffma2]; unfold execFfma2; exact ⟨_, rfl⟩
  case fclass p d a => rw [exec_fclass]; unfold execFclass; exact ⟨_, rfl⟩
  case sfq p d a tok fn => rw [exec_sfq]; unfold execSfq; exact ⟨_, rfl⟩
  case sfwait p m => rw [exec_sfwait]; unfold execSfwait; exact ⟨_, rfl⟩
  case frnd p d a => rw [exec_frnd]; unfold execFrnd; exact ⟨_, rfl⟩
  case fscl p d a b => rw [exec_fscl]; unfold execFscl; exact ⟨_, rfl⟩
  case fdiv p d a b => rw [exec_fdiv]; unfold execFdiv; exact ⟨_, rfl⟩
  case fsqrt p d a => rw [exec_fsqrt]; unfold execFsqrt; exact ⟨_, rfl⟩
  case swait sm n => rw [exec_swait]; unfold execSwait; exact ⟨_, rfl⟩
  case ldg p d a x4 o => rw [exec_ldg]; unfold execLdg; exact ⟨_, rfl⟩
  case stg p d a x4 o => rw [exec_stg]; unfold execStg; exact ⟨_, rfl⟩
  case lds p d a x4 o => rw [exec_lds]; unfold execLds; exact ⟨_, rfl⟩
  case sts p d a x4 o => rw [exec_sts]; unfold execSts; exact ⟨_, rfl⟩
  case ldp p d a x4 o => rw [exec_ldp]; unfold execLdp; exact ⟨_, rfl⟩
  case stp p d a x4 o => rw [exec_stp]; unfold execStp; exact ⟨_, rfl⟩
  case pfg p a lvl o => rw [exec_pfg]; unfold execPfg; exact ⟨_, rfl⟩
  case uldg d a sz o => rw [exec_uldg]; unfold execUldg; exact ⟨_, rfl⟩
  case ustg d a sz o => rw [exec_ustg]; unfold execUstg; exact ⟨_, rfl⟩
  case ulds d a sz o => rw [exec_ulds]; unfold execUlds; exact ⟨_, rfl⟩
  case usts d a sz o => rw [exec_usts]; unfold execUsts; exact ⟨_, rfl⟩
  case atom p d a op sp o => rw [exec_atom]; unfold execAtom; exact ⟨_, rfl⟩
  case cas p d a sp o => rw [exec_cas]; unfold execCas; exact ⟨_, rfl⟩
  case cas128 p d a sp o => rw [exec_cas128]; unfold execCas128; exact ⟨_, rfl⟩
  case red p d a op sp o => rw [exec_red]; unfold execRed; exact ⟨_, rfl⟩
  case uatom d a op w sg sp o => rw [exec_uatom]; unfold execUatom; exact ⟨_, rfl⟩
  case ucas d a w sp o => rw [exec_ucas]; unfold execUcas; exact ⟨_, rfl⟩
  case barr bar o => rw [exec_barr]; unfold execBarr; exact ⟨_, rfl⟩
  case barrPhase d bar o => rw [exec_barrPhase]; unfold execBarrPhase; exact ⟨_, rfl⟩
  case barw x bar o => rw [exec_barw]; unfold execBarw; exact ⟨_, rfl⟩
  case bars x bar o => rw [exec_bars]; unfold execBars; exact ⟨_, rfl⟩
  case tkt d x o => rw [exec_tkt]; unfold execTkt; exact ⟨_, rfl⟩
  case tktw x y => rw [exec_tktw]; unfold execTktw; exact ⟨_, rfl⟩
  case tktsNext x o => rw [exec_tktsNext]; unfold execTktsNext; exact ⟨_, rfl⟩
  case tktsSet x y o => rw [exec_tktsSet]; unfold execTktsSet; exact ⟨_, rfl⟩
  case qlk d x o => rw [exec_qlk]; unfold execQlk; exact ⟨_, rfl⟩
  case qul x o => rw [exec_qul]; unfold execQul; exact ⟨_, rfl⟩
  case barge a o => rw [exec_barge]; unfold execBarge; exact ⟨_, rfl⟩
  case tagw a any => rw [exec_tagw]; unfold execTagw; exact ⟨_, rfl⟩
  case tagf d a clr => rw [exec_tagf]; unfold execTagf; exact ⟨_, rfl⟩
  case tagclr a => rw [exec_tagclr]; unfold execTagclr; exact ⟨_, rfl⟩
  case rawait d a free o => rw [exec_rawait]; unfold execRawait; exact ⟨_, rfl⟩
  case rarel a o => rw [exec_rarel]; unfold execRarel; exact ⟨_, rfl⟩
  case rapub a o => rw [exec_rapub]; unfold execRapub; exact ⟨_, rfl⟩
  case waity a mode => rw [exec_waity]; unfold execWaity; exact ⟨_, rfl⟩
  case ioreq p a o => rw [exec_ioreq]; unfold execIoreq; exact ⟨_, rfl⟩
  case eadd p d a b => rw [exec_eadd]; unfold execEadd; exact ⟨_, rfl⟩
  case esub p d a b => rw [exec_esub]; unfold execEsub; exact ⟨_, rfl⟩
  case emul p d a b => rw [exec_emul]; unfold execEmul; exact ⟨_, rfl⟩
  case ediv p d a b => rw [exec_ediv]; unfold execEdiv; exact ⟨_, rfl⟩
  case esqrt p d a => rw [exec_esqrt]; unfold execEsqrt; exact ⟨_, rfl⟩
  case eneg p d a => rw [exec_eneg]; unfold execEneg; exact ⟨_, rfl⟩
  case esq p d a => rw [exec_esq]; unfold execEsq; exact ⟨_, rfl⟩
  case efma p d a b => rw [exec_efma]; unfold execEfma; exact ⟨_, rfl⟩
  case eleaf p d x => rw [exec_eleaf]; unfold execEleaf; exact ⟨_, rfl⟩
  case eleafi p d x => rw [exec_eleafi]; unfold execEleafi; exact ⟨_, rfl⟩
  case emov p d a adopt => rw [exec_emov]; unfold execEmov; exact ⟨_, rfl⟩
  case ebnd p d a v => rw [exec_ebnd]; unfold execEbnd; exact ⟨_, rfl⟩
  case esever p d a opaq => rw [exec_esever]; unfold execEsever; exact ⟨_, rfl⟩
  case ewid p d a rel => rw [exec_ewid]; unfold execEwid; exact ⟨_, rfl⟩
  case ecmp p cc k a u => rw [exec_ecmp]; unfold execEcmp; exact ⟨_, rfl⟩
  case esgn p d a u => rw [exec_esgn]; unfold execEsgn; exact ⟨_, rfl⟩
  case mma p a b o e => rw [exec_mma]; unfold execMma; exact ⟨_, rfl⟩
  case accz p o acc => rw [exec_accz]; unfold execAccz; exact ⟨_, rfl⟩
  case accrd p d o acc form fin => rw [exec_accrd]; unfold execAccrd; exact ⟨_, rfl⟩
  case accwr p a o acc form => rw [exec_accwr]; unfold execAccwr; exact ⟨_, rfl⟩
  case qnt p d a o e => rw [exec_qnt]; unfold execQnt; exact ⟨_, rfl⟩
  case dqnt p d a o e => rw [exec_dqnt]; unfold execDqnt; exact ⟨_, rfl⟩
  case ctbl p a o => rw [exec_ctbl]; unfold execCtbl; exact ⟨_, rfl⟩
  case wcfg p a o => rw [exec_wcfg]; unfold execWcfg; exact ⟨_, rfl⟩
  case wsig p d a o bf => rw [exec_wsig]; unfold execWsig; exact ⟨_, rfl⟩
  case wtest p d x c o n skm => rw [exec_wtest]; unfold execWtest; exact ⟨_, rfl⟩
  case wskip p d x o v => rw [exec_wskip]; unfold execWskip; exact ⟨_, rfl⟩
  case wstep p o => rw [exec_wstep]; unfold execWstep; exact ⟨_, rfl⟩
  case wstepSet p x o => rw [exec_wstepSet]; unfold execWstepSet; exact ⟨_, rfl⟩
  case nbrk p a o t => rw [exec_nbrk]; unfold execNbrk; exact ⟨_, rfl⟩
  case nbrr p a o t => rw [exec_nbrr]; unfold execNbrr; exact ⟨_, rfl⟩
  case siteh p a o t => rw [exec_siteh]; unfold execSiteh; exact ⟨_, rfl⟩
  case rule p a o t => rw [exec_rule]; unfold execRule; exact ⟨_, rfl⟩
  case ruleSub p a o t => rw [exec_ruleSub]; unfold execRuleSub; exact ⟨_, rfl⟩
  case pgat p a o f32 t => rw [exec_pgat]; unfold execPgat; exact ⟨_, rfl⟩
  case psca p a o t => rw [exec_psca]; unfold execPsca; exact ⟨_, rfl⟩
  case spawn x a b o => rw [exec_spawn]; unfold execSpawn; exact ⟨_, rfl⟩
  case bflush x => rw [exec_bflush]; unfold execBflush; exact ⟨_, rfl⟩
  case bflushAll => rw [exec_bflushAll]; unfold execBflushAll; exact ⟨_, rfl⟩
  case claim n => rw [exec_claim]; unfold execClaim; exact ⟨_, rfl⟩
  case claimTry d n => rw [exec_claimTry]; unfold execClaimTry; exact ⟨_, rfl⟩
  case give n => rw [exec_give]; unfold execGive; exact ⟨_, rfl⟩
  case giveRole r n => rw [exec_giveRole]; unfold execGiveRole; exact ⟨_, rfl⟩
  case cyield => rw [exec_cyield]; unfold execCyield; exact ⟨_, rfl⟩
  case tdone k act => rw [exec_tdone]; unfold execTdone; exact ⟨_, rfl⟩
  case qlen d q room => rw [exec_qlen]; unfold execQlen; exact ⟨_, rfl⟩
  case mcst x a sz o => rw [exec_mcst]; unfold execMcst; exact ⟨_, rfl⟩
  case rchk d a o => rw [exec_rchk]; unfold execRchk; exact ⟨_, rfl⟩
  case resync a o => rw [exec_resync]; unfold execResync; exact ⟨_, rfl⟩
  case slotq d v => rw [exec_slotq]; unfold execSlotq; exact ⟨_, rfl⟩
  case slotr d => rw [exec_slotr]; unfold execSlotr; exact ⟨_, rfl⟩
  case slotw x => rw [exec_slotw]; unfold execSlotw; exact ⟨_, rfl⟩
  case rstat d a => rw [exec_rstat]; unfold execRstat; exact ⟨_, rfl⟩
  case trap n => rw [exec_trap]; unfold execTrap; exact ⟨_, rfl⟩
  case brk n => rw [exec_brk]; unfold execBrk; exact ⟨_, rfl⟩
  case eret => rw [exec_eret]; unfold execEret; exact ⟨_, rfl⟩
  case eretKill => rw [exec_eretKill]; unfold execEretKill; exact ⟨_, rfl⟩
  case csrr d n => rw [exec_csrr]; unfold execCsrr; exact ⟨_, rfl⟩
  case csrw x n => rw [exec_csrw]; unfold execCsrw; exact ⟨_, rfl⟩
  case tlbiAll o => rw [exec_tlbiAll]; unfold execTlbiAll; exact ⟨_, rfl⟩
  case tlbiVa a o => rw [exec_tlbiVa]; unfold execTlbiVa; exact ⟨_, rfl⟩
  case iclock d a b => rw [exec_iclock]; unfold execIclock; exact ⟨_, rfl⟩
  case icunlk a b => rw [exec_icunlk]; unfold execIcunlk; exact ⟨_, rfl⟩
  case keyld x a o => rw [exec_keyld]; unfold execKeyld; exact ⟨_, rfl⟩
  case ctxsv a o => rw [exec_ctxsv]; unfold execCtxsv; exact ⟨_, rfl⟩
  case ctxld a o => rw [exec_ctxld]; unfold execCtxld; exact ⟨_, rfl⟩
  case dbgh a v => rw [exec_dbgh]; unfold execDbgh; exact ⟨_, rfl⟩

end Sys2Proof.Machine
end

