-- ==== Sys2Proof/Tests/Slice0.lean ====
section
/-! SUPPORT. Tests: words written out from the spec decode to their instructions, ill-formed terms are refused, and every
statement's hypotheses are met somewhere. -/

namespace Sys2Proof.Tests

set_option Elab.async false

open Sys2Proof.Machine

/-! ### A small part: gang 1 of crew 2 of convoy 3 of launch 4 on layer 0, lanes 0 and 1 live at 1000h -/

def desc : Descriptor :=
  { (default : Descriptor) with gridx := 1, gridy := 1, gridz := 1, regs := 8, scratch := 16, accs := 4, tags := 8, bintime := 1, yieldt := 1 }

/-- v8 is 300h in both lanes; g1 is 1, g2 and g3 are the addresses of a barge and a weir record, g4 of a point record; g6 and g7
hold the crew's context area. Its crew's q0 is full, tag 20 READY. -/
def gang : Gang :=
  { crew := 2, ix := 0, slot := 0, role := 0, level := 0, allot := 7, m := [(0, 3), (1, 3)]
    v := [(256, 0x300), (257, 0x300)], g := [(1, 1), (2, 0x100), (3, 0x200), (4, 0x400), (6, 0x100000)]
    threads := List.replicate 32 { pc := 4096, stack := [8192] } }

def crew : Crew :=
  { convoy := 3, launch := 4, layer := 0, cluster := 0, core := 0, ix := 0, cvx := 0, cvy := 0, cvz := 0, stage := 0, ctx := 0x100000
    gangs := [1], caddyC := 4096, spillS := 0, since := 0, wdog := 0, pool := 1, tags := [(20, .ready)]
    queues := [(0, List.replicate 32 5)], weir := { cfg := true, tbase := 0x8000, ntile := 1 } }

/-- Its gang stands at level `level`, its code in a segment of SYS `sys`. -/
def base (level : Nat) (sys : Bool) : State :=
  let s := (State.reset.withIdentityMap).withSegment sys
  { s with
    gangs := [(1, { gang with level := level })], crews := [(2, crew)], convoys := [(3, { launch := 4, n := 0, crews := [2] })]
    launches := [(4, { layer := 0, queue := 0, cmd := 0, desc := desc, placed := 1 })], next := 16, ready := 1 <<< 28 }

/-- Both lanes at issue at 1000h. -/
def u0 : Issue := { gang := 1, run := 3, pc := 4096 }

/-- List descriptor n (R354). -/
def listAt (n count stride sp : Nat) : Nat := (count * 2 ^ 64 + stride * 2 ^ 96 + sp * 2 ^ 57) * 2 ^ (128 * n)

/-- One point record that every point instruction accepts (R354, R359): a mask of one offset, one input. -/
def pointRecord : Nat :=
  listAt 0 1 12 0 + listAt 1 2 16 0 + listAt 2 2 16 1 + listAt 3 2 16 0 + listAt 4 27 12 0 + listAt 5 1 16 0 + 2 ^ 768 + 2 ^ 800

/-- At level 0, with records in the scratchpad: a barge of one element (R242), a weir of one tile (R341), an I/O request of one
byte (R255), a point record. -/
def user : State :=
  let s := base 0 false
  let w (s : State) (a n x : Nat) : State := s.writeAt (.scratch 2 a) (toBytes x n)
  { w (w (w (w s 0x100 96 (2 ^ 132 + 2 ^ 138 + 2 ^ 192)) 0x200 32 (2 ^ 96)) 0x300 32 (2 ^ 64)) 0x400 128 pointRecord with issue := some u0 }

/-- At level 2, in a system segment. -/
def sys : State := { base 2 true with issue := some u0 }

/-- `Ready`, as it is tested. -/
def readyB (i : Instr) (s : State) (u : Issue) : Bool :=
  (s.issue == some u) && (find s.gangs u.gang).isSome && (find s.crews (s.gang u.gang).crew).isSome
    && (find s.convoys (s.crew (s.gang u.gang).crew).convoy).isSome && i.info.legal && taskOk i (s.gang u.gang).task.isSome
    && qlenOk i (s.gang u.gang).allot && eretOk i (s.gang u.gang).level
    && (!i.info.privileged || s.segmentSys (s.layerOf u.gang) (s.viaOf (s.gang u.gang).crew) u.pc)
    && (levelTrap i (s.gang u.gang).level (match (s.gang u.gang).handler with | some h => h.task | none => false)).isNone
    && rangeOk i (s.gang u.gang).allot (s.launch (s.crew (s.gang u.gang).crew).launch).desc.accs (s.tagCount (s.gang u.gang).crew)
    && (s.ctx i u).act != 0 && queueRangeOk i (popcount (s.ctx i u).qlanes) && s.queuesReady u.gang (popcount (s.ctx i u).qlanes) i
    && (s.destsFree u.gang i || badIv i (s.ctx i u)) && s.streamRoom u.gang (s.ctx i u).act i && !specialStall i (s.ctx i u) s && !readsStore i u.err

theorem ready_of_readyB {i : Instr} {s : State} {u : Issue} (h : readyB i s u = true) : Ready i s u := by
  simp only [readyB, Bool.and_eq_true, beq_iff_eq, bne_iff_ne, ne_eq, Bool.not_eq_true', Option.isNone_iff_eq_none] at h
  obtain ⟨⟨⟨⟨⟨⟨⟨⟨⟨⟨⟨⟨⟨⟨⟨⟨⟨h1, h2⟩, h3⟩, h4⟩, h5⟩, h6⟩, hn⟩, he⟩, h7⟩, h8⟩, h9⟩, h10⟩, h11⟩, h12⟩, h13⟩, h14⟩, h15⟩, h16⟩ := h
  exact ⟨h1, h2, h3, fun _ => h4, h5, h6, hn, he, fun hp => by simpa [hp] using h7, h8, h9, h10, h11, h12, h13, h14, h15, h16⟩

/-- A list of instructions, each ready in s, and p of it. -/
theorem ready_all {s : State} {u : Issue} {p : Instr → Bool} (l : List Instr) (h : l.all (fun i => readyB i s u && p i) = true) :
    ∀ i ∈ l, Ready i s u ∧ p i = true := fun i hi =>
  have := List.all_eq_true.mp h i hi
  have := Bool.and_eq_true_iff.mp this
  ⟨ready_of_readyB this.1, this.2⟩

/-! ### Word instructions -/

/-- An ordering word of zeros, and one of scope device; a prefix that gives F4. -/
def o0 : Ord := ⟨0, 0, 0, false, 0, 0, 0⟩
def oDev : Ord := { o0 with scope := 4 }
def p4 : OPfx := some ⟨15, 0, false, true, 0, 0, 0⟩

def integers : List Instr := [
  .add none 0 0 0, .sub none 0 0 0, .addc p4 0 0 0, .mul none 0 0 0, .mulh none 0 0 0, .mad p4 0 0 0, .div none 0 0 0, .rem none 0 0 0,
  .min none 0 0 0, .max none 0 0 0, .abs none 0 0, .and none 0 0 0, .or none 0 0 0, .xor none 0 0 0, .andn none 0 0 0, .shl none 0 0 0,
  .shr none 0 0 0, .fsh p4 0 0 0, .bfx none 0 0 0, .bfi p4 0 0 0, .popc none 0 0, .clz none 0 0, .ctz none 0 0, .brev none 0 0,
  .sel p4 0 0 0, .movi none 0 0, .movh none 0 0, .addi none 0 0, .mov none 0 0, .lea none 0 0 0, .cxs none 0 0 false 1 0,
  .perm p4 0 0 0, .scan none 0 0 5 false 0, .mov none 224 224]

def floats : List Instr := [
  .fadd none 0 0 0, .fsub none 0 0 0, .fmul none 0 0 0, .ffma p4 0 0 0, .fmin none 0 0 0, .fmax none 0 0 0, .fdiv none 0 0 0,
  .fscl none 0 0 0, .fabs none 0 0, .fneg none 0 0, .frnd none 0 0, .fsqrt none 0 0, .fclass none 0 0, .fcvt none 0 0 10,
  .fcvti none 0 0 12, .icvtf none 0 0 3, .fadd2 none 0 0 0, .fmul2 none 0 0 0, .ffma2 p4 0 0 0]

def uniforms : List Instr := [
  .uadd 192 192 192, .usub 192 192 192, .umul 192 192 192, .uand 192 192 192, .uor 192 192 192, .uxor 192 192 192, .ushl 192 192 192,
  .ushr 192 192 192, .umovi 192 0, .umovh 192 0, .mmovGM 192 1, .mpop 192 1 0, .roleGet 192, .slotq 192 0, .rstat 192 192]

def shuffles : List Instr := [.shfi p4 0 0 5 15, .shfu p4 0 0 5 1, .shfd p4 0 0 5 1, .shfx p4 0 0 5 1]
def branches : List Instr := [.nop, .bra 2, .brc 1 2, .bru 2, .bruMask 1 2, .jmpi 0, .retPair 0]
def calls : List Instr := [.call 2, .calli 0, .ret]

def maskWrites : List Instr := [
  .cmpm none 0 1 0 0, .fcmp none 0 1 0 0, .vote 1 0 0, .join 1, .leave 1, .mand 1 1 1, .mor 1 1 1, .mxor 1 1 1, .mandn 1 1 1,
  .mmovMM 1 1, .mmovMG 1 192]

def gangMoves : List Instr := [.waitm 1, .yieldGang, .sleep 192, .roleSet 192, .sfwait none 1, .swait 1 0]

def accesses : List Instr := [
  .ldg none 0 0 false o0, .stg none 0 0 false o0, .lds none 0 0 false o0, .sts none 0 0 false o0, .ldp none 0 0 false o0,
  .stp none 0 0 false o0, .pfg none 0 false o0, .uldg 192 192 0 o0, .ustg 192 192 0 o0, .ulds 192 192 0 o0, .usts 192 192 0 o0,
  .atom none 0 0 0 0 o0, .cas p4 0 0 0 o0, .cas128 p4 4 0 0 o0, .red none 0 0 0 0 o0, .uatom 192 192 0 false false 0 o0,
  .ucas 192 192 false 0 o0, .mcst 192 192 0 oDev, .rchk 0 0 oDev, .resync 192 oDev]

def words : List Instr := [
  .ewid none 0 0 false, .ebnd none 0 0 0, .csrr 0 0, .slotr 0, .qlen 192 224 false, .sfq none 0 0 0 0, .tagw 198 true, .tagf 192 192 false,
  .tagclr 192, .waity 198 1, .rawait 0 192 false o0, .rarel 192 o0, .rapub 192 o0, .barge 194 o0, .ioreq none 8 o0, .barr 0 o0,
  .barrPhase 0 0 o0, .barw 192 0 o0, .bars 193 0 o0, .tkt 0 192 o0, .tktw 192 192, .tktsNext 192 o0, .tktsSet 192 192 o0]

/-- Locks are privileged. -/
def lockWords : List Instr := [.qlk 0 192 o0, .qul 192 o0]

def engines : List Instr := [
  .mma none 192 192 o0 ⟨0, 0, false, false, false, false, false, 0, true⟩, .accz none o0 0, .accrd none 192 o0 0 0 false,
  .accwr none 192 o0 0 0, .qnt none 192 192 o0 ⟨0, false, false⟩, .dqnt none 192 192 o0 ⟨0, false, false⟩, .ctbl none 192 o0,
  .wcfg none 195 o0, .wsig none 0 0 o0 false, .wtest none 0 0 0 o0 0 15, .wskip none 0 192 o0 0, .wstep none o0, .wstepSet none 192 o0,
  .nbrk none 196 o0 ⟨0, true⟩, .nbrr none 196 o0 ⟨0, true⟩, .siteh none 196 o0 ⟨0, true⟩, .rule none 196 o0 ⟨0, true⟩,
  .ruleSub none 196 o0 ⟨0, true⟩, .pgat none 196 o0 false ⟨0, true⟩, .psca none 196 o0 ⟨0, true⟩]

def taskWords : List Instr := [
  .spawn 192 192 193 o0, .bflush 192, .bflushAll, .claim 1, .cyield, .slotw 192, .icunlk 192 192]

def systemWords : List Instr := [
  .csrw 192 0x21, .tlbiAll oDev, .tlbiVa 192 oDev, .keyld 192 192 o0, .ctxsv 198 o0, .ctxld 198 o0, .dbgh 198 0]

def effects : List Instr := [
  .exit, .claimTry 192 1, .give 1, .giveRole 1 1, .trap 0, .brk 0, .iclock 192 192 192, .ecmp p4 0 1 0 2, .esgn none 4 0 2]

def intervals : List Instr := [
  .eadd none 0 0 0, .esub none 0 0 0, .emul none 0 0 0, .ediv none 0 0 0, .esqrt none 0 0, .eneg none 0 0, .esq none 0 0, .efma p4 0 0 0,
  .eleaf none 0 0, .eleafi none 0 0, .emov none 0 4 false, .esever none 0 4 false]

/-! ### Witnesses: word instructions -/

theorem witness_IntegerResults : ∀ i ∈ integers, Ready i user u0 ∧ (integerResult i (user.ctx i u0)).isSome = true :=
  ready_all _ (by decide +kernel)
theorem witness_FloatResults : ∀ i ∈ floats, Ready i user u0 ∧ (floatResult i (user.ctx i u0)).isSome = true :=
  ready_all _ (by decide +kernel)
theorem witness_UniformResults : ∀ i ∈ uniforms, Ready i user u0 ∧ (uniformResult i (user.ctx i u0)).isSome = true :=
  ready_all _ (by decide +kernel)
theorem witness_ShuffleResults : ∀ i ∈ shuffles, Ready i user u0 ∧ (shuffleFrom i (user.ctx i u0)).isSome = true :=
  ready_all _ (by decide +kernel)

/-- Every register pair's target is one that a program counter can hold. -/
def reachable (i : Instr) (s : State) : Bool := (List.range 32).all fun l => !badTarget ((s.ctx i u0).val 0 l)

theorem witness_BranchesMove : ∀ i ∈ branches, Ready i user u0 ∧ ((branchTo i (user.ctx i u0)).isSome && reachable i user) = true :=
  ready_all _ (by decide +kernel)
theorem witness_CallsAndReturns_stack : ∀ i ∈ calls, Ready i user u0 ∧
    ((callTo i (user.ctx i u0)).isSome && (stackBound i).isSome && reachable i user
      && (List.range 32).all fun l => decide (some ((user.gang 1).thread l).stack.length ≠ stackBound i)) = true :=
  ready_all _ (by decide +kernel)
theorem witness_CallsAndReturns_link : ∀ i ∈ [Instr.calliLink 2 0], Ready i user u0 ∧ reachable i user = true :=
  ready_all _ (by decide +kernel)

/-- The stacked full, and empty. -/
def stacked (n : Nat) : State := user.modGang 1 fun g => { g with threads := g.threads.map fun t => { t with stack := List.replicate n 8192 } }

theorem witness_ControlTraps_target : ∀ i ∈ [Instr.jmpi 8, .retPair 8, .calli 8, .calliLink 2 8],
    Ready i { user with gangs := alter user.gangs 1 fun g => { g with v := [(256, 2)] } } u0 ∧
    (indirect i && badTarget (({ user with gangs := alter user.gangs 1 fun g => { g with v := [(256, 2)] } } : State).ctx i u0 |>.val 0 0)) = true :=
  ready_all _ (by decide +kernel)
theorem witness_ControlTraps_full : ∀ i ∈ [Instr.call 2, .calli 0], Ready i (stacked 16) u0 ∧ (stackBound i == some 16 && reachable i (stacked 16)) = true :=
  ready_all _ (by decide +kernel)
theorem witness_ControlTraps_empty : ∀ i ∈ [Instr.ret], Ready i (stacked 0) u0 ∧ (stackBound i == some 0) = true :=
  ready_all _ (by decide +kernel)

theorem witness_MaskResults : ∀ i ∈ maskWrites, Ready i user u0 ∧ (maskResult i (user.ctx i u0)).isSome = true :=
  ready_all _ (by decide +kernel)
theorem witness_GangChanges : ∀ i ∈ gangMoves, Ready i user u0 ∧ (gangChange i user u0).isSome = true :=
  ready_all _ (by decide +kernel)
theorem witness_AccessesIssue : ∀ i ∈ accesses, Ready i user u0 ∧
    (match accessesOf i (user.ctx i u0) with | some x => x.2.2.all (·.addr.bad.isNone) | none => false) = true :=
  ready_all _ (by decide +kernel)
theorem witness_AccessTraps : ∀ i ∈ [Instr.lds none 0 0 false { o0 with off := 0xFFF }], Ready i user u0 ∧
    (match accessesOf i (user.ctx i u0) with
      | some x => (match x.2.2.find? fun a => a.addr.bad.isSome with | some a => a.addr.bad == some (0x11, 2 ^ 64 - 4) && a.lane == 0 | none => false)
      | none => false) = true :=
  ready_all _ (by decide +kernel)

/-- It meets no trap of its own. -/
def quiet (s : State) (i : Instr) : Bool := (issueTrap i (s.ctx i u0) (s.issued i u0)).isNone

theorem witness_WordsComplete : ∀ i ∈ words, Ready i user u0 ∧ (quiet user i && (wordPlan i user u0).isSome) = true :=
  ready_all _ (by decide +kernel)
theorem witness_WordsComplete_locks : ∀ i ∈ lockWords, Ready i sys u0 ∧ (quiet sys i && (wordPlan i sys u0).isSome) = true :=
  ready_all _ (by decide +kernel)
theorem witness_EngineCommandsIssue : ∀ i ∈ engines, Ready i user u0 ∧ (quiet user i && (enginePlan i user u0).isSome) = true :=
  ready_all _ (by decide +kernel)
theorem witness_SystemWordsComplete : ∀ i ∈ taskWords, Ready i user u0 ∧ (quiet user i && (systemPlan i user u0).isSome) = true :=
  ready_all _ (by decide +kernel)
theorem witness_SystemWordsComplete_system : ∀ i ∈ systemWords, Ready i sys u0 ∧ (quiet sys i && (systemPlan i sys u0).isSome) = true :=
  ready_all _ (by decide +kernel)

/-- The debugger's BRK. -/
def debugged : State := user.setLayer 0 { user.layer 0 with dbgctl := 1 }
theorem witness_SystemWordsComplete_brk : ∀ i ∈ [Instr.brk 0], Ready i debugged u0 ∧ (quiet debugged i && (systemPlan i debugged u0).isSome) = true :=
  ready_all _ (by decide +kernel)

theorem witness_OperandTraps : ∀ i ∈ [Instr.bars 192 0 o0, .tkt 0 198 o0, .give 7, .barge 195 o0, .psca none 194 o0 ⟨0, true⟩],
    Ready i user u0 ∧ (issueTrap i (user.ctx i u0) (user.issued i u0)).isSome = true :=
  ready_all _ (by decide +kernel)
theorem witness_EffectsComplete : ∀ i ∈ effects, Ready i user u0 ∧ (quiet user i && (effectOf i user u0).isSome) = true :=
  ready_all _ (by decide +kernel)

def trapOf : Trap :=
  { cause := 7, faddr := 0, flane := 255, lanes := 1, pfx := 0, insn := 0, fpc := none, rpt := none, dcause := 0, dlane := 255, dfaddr := 0
    counters := [], at_ := 4096, len := 4, issue := true }
def taskGang : TaskGang := { entry := 4096, v0 := List.replicate 32 0, v1 := List.replicate 32 0, filled := true }
/-- The gang in a handler. -/
def handling (s : State) (level : Nat) (task : Bool) : State :=
  s.modGang 1 fun g => { g with
    level := level, task := if task then some taskGang else none
    handler := some { frame := 0x101000, task := task, trap := trapOf, resolved := [], waits := List.replicate 32 .none } }

theorem witness_EffectsComplete_eret : ∀ i ∈ [Instr.eret, .eretKill], Ready i (handling sys 2 false) u0 ∧
    (quiet (handling sys 2 false) i && (effectOf i (handling sys 2 false) u0).isSome) = true :=
  ready_all _ (by decide +kernel)
theorem witness_EffectsComplete_tdone : ∀ i ∈ [Instr.tdone 1 0], Ready i (handling user 1 true) u0 ∧
    (quiet (handling user 1 true) i && (effectOf i (handling user 1 true) u0).isSome) = true :=
  ready_all _ (by decide +kernel)

/-- The lanes of an interval instruction pass, its nodes are free, and no spill write faults. -/
def intervalRuns (i : Instr) (s : State) : Bool :=
  match intervalPlan i (s.ctx i u0) (s.issued i u0) with
  | none => false
  | some p =>
    (lanes (s.ctx i u0).act).all (fun l => (p.bad l).isNone) && p.fits (s.ctx i u0) (s.issued i u0)
      && (runLanes (lanes (s.ctx i u0).act) (p.start (s.ctx i u0) (s.issued i u0)) p.act).2.isNone

theorem witness_IntervalsComplete : ∀ i ∈ intervals, Ready i user u0 ∧ intervalRuns i user = true := ready_all _ (by decide +kernel)
theorem witness_IntervalValues : ∀ i ∈ intervals.take 8, Ready i user u0 ∧ ((intervalOf i).isSome && intervalRuns i user) = true :=
  ready_all _ (by decide +kernel)

/-! ### Acts -/

/-- Operation 9 of gang 1, in flight, and the choice on it. -/
def op (k : OpKind) (p : Option Place := none) : Op :=
  { gang := 1, crew := 2, layer := 0, pc := 4096, inst := 8, lane := 0, threads := 1, strm := 0, scope := 0, vol := false, after := []
    kind := k, place := p, born := 0 }
def doing (o : Op) : State := { base 0 false with ops := [(9, o)], choice := { target := 9 } }
/-- Gang 1 with its threads changed, and the choice on it. -/
def threads (f : Thread → Thread) : State :=
  { (base 0 false).modGang 1 fun g => { g with threads := g.threads.map f } with choice := { target := 1 }, clk := 5 }
def chosen (c : Choice) (s : State) : State := { s with choice := c }
def home : Option Place := some (.home 0 0x8000 0)
def replica : Option Place := some (.replica 0 0 0)
def d0 : Dest := ⟨0, 1, 1⟩

def memoryActs : List (Instr × State) := [
  (.sleepEnd, threads fun t => { t with wait := .sleep 0 }), (.starvationTurn, threads fun t => { t with count := 4096 }),
  (.sfqComplete, chosen { target := 1, unit := 2 } ((base 0 false).modGang 1 fun g => { g with sf := [⟨2, 0, 0, 1, [(0, 1)], 0⟩] })),
  (.loadComplete, doing (op (.load 0x8000 4 9 (some d0)) home)), (.storeComplete, doing (op (.store 0x8000 [1]) home)),
  (.storeComplete, { doing { op (.store 0x8000 [1]) home with scope := 4 } with choice := { target := 9, unit := 3 } }),
  (.storeComplete, { doing { op (.store 0x8000 [1]) home with scope := 1 } with choice := { target := 9, unit := 4 } }),
  (.prefetchComplete, doing (op (.prefetch 0x8000 true))), (.pageTableWalk, doing (op (.load 0x8000 4 9 (some d0)))),
  (.replay, base 0 false), (.operationFailure, doing { op (.load 0x8000 4 9 (some d0)) with failed := some (0x10, 0) }),
  (.hostCompletionTimeout, { doing { op (.load 0x8000 4 9 (some d0)) (some (.host 0 0)) with sent := some 0 } with clk := 10 ^ 12 }),
  (.atomicPerform, doing (op (.atomic 0x8000 4 0 7 0 1 0 (some d0) none) home)),
  (.atomicComplete, doing (op (.atomic 0x8000 4 0 7 0 1 0 (some d0) (some 3)) home)),
  (.barrierArrivalCounts, doing (op (.barr 0 0 (some d0)))), (.barsActs, doing (op (.bars 0 1))), (.tktComplete, doing (op (.tkt 0 d0))),
  (.tktsUpdate, doing (op (.tkts 0 none))), (.tktwWake, threads fun t => { t with wait := .tktw 0 0 true }),
  (.slotwWake, threads fun t => { t with wait := .slotw 0 }), (.qlkGrant, doing (op (.qlk 0 d0 none))), (.qulRelease, doing (op (.qul 0))),
  (.aqueductSlot, { doing (op (.mcst 0x8000 [1, 2, 3, 4]) replica) with ready := BitVec.allOnes 64 }),
  (.aqueductWriteApply, doing { op (.mcst 0x8000 [1, 2, 3, 4]) replica with key := some 0 }),
  (.rchkComplete, doing { op (.rchk 0x8000 d0 none) replica with key := some 0 }),
  (.resyncComplete, { doing { op (.resync 0x8000) replica with key := some 0 } with ready := BitVec.allOnes 64 })]

/-- The barge of the record at 100h: one byte from address 0 to address 0 of global memory (R242). -/
def bargeRec : BargeRec :=
  { reca := 0x100, saddr := 0, ssp := 0, daddr := 0x8000, dsp := 0, esz := 0, levels := 1, tr := 0, tag := none, tagField := 0, ring := none
    counts := [1], starts := [0], sstr := [0], dstr := [0] }
def ioRec : IoRec := { lane := 0, rkey := 0, remote := 0, cookie := 0, tgt := 0, kind := 0, len := 1, daddr := 0x8000 }
/-- Crew 2 with every thread at a WAITY since clk 0, at clk 64. -/
def atWaity : State :=
  { threads fun t => { t with waity := some ⟨0, 0, 0, 0⟩ } with choice := { target := 2 }, clk := 64 }
/-- The state with an I/O target in slot 0 of layer 0. -/
def withTarget (s : State) : State :=
  s.setLayer 0 { s.layer 0 with iotgts := [(0, { kind := 1, arg1 := 0, arg2 := 0, arg3 := 0, timeout := 100, res := 512 })] }

def bargeActs : List (Instr × State) := [
  (.bargeEngineTake, doing (op (.barge bargeRec false))), (.bargeComplete, doing (op (.barge bargeRec true))),
  (.bargeFault, chosen { target := 9 } (doing (op (.barge { bargeRec with daddr := 2 ^ 40 } true)))),
  (.rawaitComplete, doing (op (.rawait 0 0 true d0))), (.rarelRelease, doing (op (.rarel 0))), (.advanceReady, doing (op (.rapub 0 0))),
  (.ioreqPost, doing (op (.ioreq [ioRec] false))),
  (.ioRequestEnd, chosen { target := 9, answer := .data [7] } (doing (op (.ioreq [ioRec] true)))),
  (.ioTimeout, withTarget { doing (op (.ioreq [ioRec] true)) with clk := 150000 })]

/-- A matrix command at work. -/
def matCmd : MatCmd := { kind := .mma, started := true }
def pointCmd : PtCmd := (parsePoint .nbrk pointRecord 0x400 32768 none 0).getD { kind := .nbrk, reca := 0, lists := [], params := [], i1 := 0, i0 := 0, tag := none, tagField := 0 }
def request : RefReq := { gang := 1, crew := 2, lane := 0, next := 4100, cmp := none, d := 0, u := 2, operands := [.bare 0 0], eregs := [1] }

/-- The operation with its crew's weir context resident. -/
def resident (o : Op) : State := (doing o).setCluster 0 0 { weirs := [2] }

def engineActs : List (Instr × State) := [
  (.reclamation, chosen { target := 2, unit := 1 } (base 0 false)),
  (.refinementAdmit, { base 0 false with reqs := [(9, request)], choice := { target := 9 } }),
  (.refinementEnd, { base 0 false with reqs := [(9, { request with served := true })], choice := { target := 9 } }),
  (.matrixCommandStart, doing (op (.matrix { matCmd with started := false }))), (.subarrayGate, { base 0 false with clk := 1024 }),
  (.operandsConsumed, doing (op (.matrix matCmd))), (.matrixCommandComplete, doing (op (.matrix { kind := .accz, started := true }))),
  (.wtestEntryUpdate, resident (op (.weir (.wtest 0 15) [{ lane := 0 }]))), (.weirContextLoad, { doing (op (.weir (.wstep none) [{ lane := 0 }])) with choice := { target := 2 } }),
  (.weirCommandComplete, resident (op (.weir (.wstep none) [{ lane := 0 }]))),
  (.pointCommandComplete, doing (op (.point pointCmd))),
  (.pointCommandFault, doing (op (.point { pointCmd with lists := pointCmd.lists.map fun x => { x with addr := 2 ^ 40, sp := 0 } }))),
  (.spawnTasksEnter, doing (op (.spawn 4096 0 1)))]

/-- A bin of one task of the launch, open since clk 0. -/
def bin : Bin := { closed := false, entry := 4096, launch := 4, tasks := [(0, 0)], opened := 0 }
def withBin (closed : Bool) : State :=
  { (base 0 false).setCluster 0 0 { bins := [(0, { bin with closed := closed })], ready := if closed then [0] else [] } with
    clk := 5, choice := { core := 1 } }
/-- The convoy in a state, and the choice on it. -/
def convoyIs (c : ConvoyStatus) : State := chosen { target := 3 } ((base 0 false).modConvoy 3 fun v => { v with status := c })
/-- Layer 0 changed. -/
def layerIs (f : Layer → Layer) (s : State) : State := s.setLayer 0 (f (s.layer 0))

/-- Every thread of gang 1 has exited and it has retired; crew 2 has retired. -/
def exited (s : State) : State := s.modGang 1 fun g => { g with m := [], retired := true }
def retired (s : State) : State := s.modCrew 2 fun c => { c with status := .retired }

def scheduleActs : List (Instr × State) := [
  (.binTimerExpiry, withBin false), (.taskGangPlace, withBin true),
  (.coreReserve, (withBin true).setCluster 0 0 { bins := [(0, { bin with closed := true })], ready := [0], passes := 16 }),
  (.q24Fill, chosen { target := 1 } ((base 0 false).modGang 1 fun g => { g with task := some { taskGang with filled := false } })),
  (.cyieldAct, chosen { target := 2 } (threads fun t => { t with wait := .cyield })), (.crewYield, atWaity),
  (.crewReturn, chosen { target := 2 } ((exited (base 0 false)).modCrew 2 fun c => { c with status := .yielded, cyielded := some [] })),
  (.trapEntry, chosen { target := 1 } ((base 0 false).modGang 1 fun g => { g with pend := some trapOf })), (.preemption, retired (convoyIs .preempting)),
  (.convoyRestore, layerIs (fun y => { y with preempted := [3] }) (retired (convoyIs .saved))),
  (.gangRetire, chosen { target := 1 } ((base 0 false).modGang 1 fun g => { g with m := [] })), (.convoyPlace, { base 0 false with ready := BitVec.allOnes 64 }),
  (.drainStart, layerIs (fun y => { y with passed := [4], passes := 16 }) (base 0 false)),
  (.drainPreempt, { layerIs (fun y => { y with passed := [5], passes := 16, drain := some 0 })
      { base 0 false with launches := [(4, { layer := 0, queue := 0, cmd := 0, desc := desc, placed := 1 }), (5, { layer := 0, queue := 0, cmd := 0, desc := { desc with scratch := 193 } })] } with
    clk := 2 ^ 21 }),
  (.watchdogExpiry, chosen { target := 2 } { layerIs (fun y => { y with wdt := 1 }) (base 0 false) with clk := 2 ^ 20 }),
  (.routerGate, { base 0 false with clk := 192 }),
  (.routerWake, layerIs (fun y => { y with gatedRouters := [0] }) (doing (op (.load 0x8000 4 9 none) home))),
  (.deadlockEscape, { doing { op (.load 0x8000 4 9 none) home with sent := some 0 } with clk := 3072 }),
  (.deadlockEscape, { layerIs (fun y => { y with queues := [(0, { en := true, state := 1, cmds := [(9, .copy 0x8000 0x8100 4 0 0 0)] })] }) (base 0 false) with
    choice := { target := 9 }, clk := 3072 })]

/-- Queue 0 of layer 0, enabled, with one command entry, each of whose targets lies at 8000h or 10100h. -/
def command (e : Nat) : State :=
  { layerIs (fun y => { y with queues := [(0, { qbase := 0x10000, en := true, log2n := 4, qwr := 1 })] })
      ((base 0 false).writeAt (.home 0 0x10000 0) (toBytes e 16)) with ready := BitVec.allOnes 64 }
def entry (opc fl a v : Nat) : Nat := opc * 2 ^ 24 + fl * 2 ^ 16 + a * 2 ^ 32 + v * 2 ^ 96
def hosting (off size v : Nat) : State := chosen { offset := off, size := size, value := v } (base 0 false)
def pendingCmd (k : CmdKind) : State :=
  chosen { target := 9 } (layerIs (fun y => { y with queues := [(0, { en := true, state := 1, cmds := [(9, k)] })] }) (base 0 false))
/-- A descriptor as its bits (R21). -/
def descBits : Nat := 2 ^ 128 + 2 ^ 144 + 2 ^ 160 + 2 ^ 186 + 2 ^ 384

def commandActs : List (Instr × State) := [
  (.hostApertureAccess, chosen { offset := 0x8000, answer := .data [1] } (base 0 false)), (.qwrDoorbell, hosting 0 4 1),
  (.queueEnable, hosting 0 4 (2 ^ 8)), (.queueReset, hosting 0 4 (2 ^ 9)), (.resume, hosting 0 4 (2 ^ 10)), (.registerWrite, hosting 0x20 4 100),
  (.registerWrite, hosting 0x40 8 0x1000), (.registerWrite, hosting 0x48 4 6), (.registerWrite, hosting 0x8000 4 1), (.evrdWrite, hosting 0 4 1),
  (.commandNop, command 0), (.launch, (command (entry 1 0 0x10100 0)).writeAt (.home 0 0x10100 0) (toBytes descBits 64)),
  (.launchComplete, chosen { target := 4 } ((base 0 false).modCrew 2 fun c => { c with status := .retired })),
  (.depwait, command (entry 2 1 0x8000 0)), (.depwaitPoll, pendingCmd (.depwait 1 0x8000 0 0 none)), (.signal, command (entry 3 1 0x8000 1)),
  (.copyc, (command (entry 4 0 0x10100 0)).writeAt (.home 0 0x10100 0) (toBytes (2 ^ 128) 32)), (.copyComplete, pendingCmd (.copy 0x8000 0x8100 4 0 0 0)),
  (.mark, command (entry 5 1 0x8000 1)), (.jump, command (entry 6 0 0x8000 1)), (.setpri, command (entry 7 0 0 1)),
  (.stamp, command (entry 8 0 0x8000 0)), (.tlbcVa, command (entry 9 0 0x8000 0)), (.tlbcAll, command (entry 9 1 0 0))]

/-- A call's record: its code, STATUS FFh, its arguments (R475). -/
def callBits (code a0 a1 a2 a3 a4 : Nat) : Nat :=
  code + 0xFF00 + a0 * 2 ^ 32 + a1 * 2 ^ 64 + a2 * 2 ^ 128 + a3 * 2 ^ 192 + a4 * 2 ^ 256
/-- Layer 0's kernel, and host 0, with a call rung. -/
def kernelCalls (r : Nat) (f : Layer → Layer := id) : State :=
  chosen { caller := .kernel 0, value := 512 }
    (layerIs (fun y => f { y with kcall := 0x20000, rung := some 0 }) ((base 0 false).writeAt (.home 0 0x20000 0) (toBytes r 64)))
def hostCalls (r : Nat) (s : State := base 0 false) : State :=
  chosen { caller := .host 0 } (s.setPort 0 { s.port 0 with mailbox := Memory.write [] 0 (toBytes r 64), rung := some 0 })
def exported : Export := { gen := 0, current := true, base := 0, size := 2 ^ 21, r := true, w := true, a := false, importers := 1, kix := 0 }
/-- A replicated region of one unit on layers 0 and 1 (R398). -/
def regionBits : Nat := 3 * 2 ^ 160 + 3 * 2 ^ 152 + 2 ^ 136
def asleep (b : Bool) : State := layerIs (fun y => { y with asleep := b }) (base 0 false)

def firmwareActs : List (Instr × State) := [
  (.export_, kernelCalls (callBits 1 0 0 (2 ^ 21) 0 0)),
  (.import_, kernelCalls (callBits 2 0 0 (2 ^ 30) (2 ^ 21) 0) fun y => { y with exports := [(0, exported)] }),
  (.revoke, kernelCalls (callBits 3 0 0 0 0 0) fun y => { y with exports := [(0, exported)] }),
  (.createRegion, kernelCalls (callBits 4 0 (regionBits % 2 ^ 64) (regionBits / 2 ^ 64 % 2 ^ 64) (regionBits / 2 ^ 128) 0)),
  (.freeRegion, kernelCalls (callBits 5 0 0 0 0 0) fun y => { y with regions := [(0, regionBits)] }),
  (.writeIoTargetEntry, kernelCalls (callBits 6 0x100 0 0 0 100)), (.assignKeyIndices, hostCalls (callBits 7 0 1 1 0 0)),
  (.unassignKeyIndices, hostCalls (callBits 7 0x100 1 1 0 0) { base 0 false with keyOwner := [(1, 0)] }),
  (.debugHalt, hostCalls (callBits 9 0xF0 0x100000 0 0 0)), (.debugRun, hostCalls (callBits 9 0xF1 0x100000 0 0 0)),
  (.debugStep, hostCalls (callBits 9 0xF2 0x100000 0 0 0)), (.debugSnap, hostCalls (callBits 9 0xF3 0x100000 0 0 0)),
  (.sleepDevice, hostCalls (callBits 10 0 0 0 0 0)), (.wakeDevice, hostCalls (callBits 10 0x100 0 0 0 0) (asleep true)),
  (.assignLayersAndPorts, hostCalls (callBits 11 0 0 0 0 0)), (.setKernelState, hostCalls (callBits 12 0 0x1000 0x1000 0 0) State.reset)]

/-- Calls that are refused, with the STATUS each ends with. -/
def refusedCalls : List (Instr × State × Nat) := [
  (.export_, kernelCalls (callBits 1 0 1 (2 ^ 21) 0 0), 2), (.export_, kernelCalls (callBits 1 0x1000000 0 (2 ^ 21) 0 0), 5),
  (.import_, kernelCalls (callBits 2 0 0 (2 ^ 30) (2 ^ 21) 0), 2), (.revoke, kernelCalls (callBits 3 0 0 0 0 0), 2),
  (.createRegion, kernelCalls (callBits 4 0 0 0 0 0), 2), (.freeRegion, kernelCalls (callBits 5 0 0 0 0 0), 2),
  (.writeIoTargetEntry, kernelCalls (callBits 6 0x100 0 0 0 99), 1), (.assignKeyIndices, hostCalls (callBits 7 0 0 1 0 0), 2),
  (.unassignKeyIndices, hostCalls (callBits 7 0x100 1 1 0 0), 3), (.debugHalt, hostCalls (callBits 9 0xF0 0 0 0 0), 2),
  (.sleepDevice, hostCalls (callBits 10 0 0 0 0 0) (asleep true), 2), (.wakeDevice, hostCalls (callBits 10 0x100 0 0 0 0), 2),
  (.setKernelState, hostCalls (callBits 12 0 0x1000 0x1000 0 0), 3)]

def loadActs : List (Instr × State) := [
  (.loadCodeSegment, hostCalls (8 + 0xFF00 + 2 ^ 19 + 0x8000 * 2 ^ 64 + 64 * 2 ^ 128)), (.freeSegment, hostCalls (8 + 0xFF00 + 2 ^ 17))]

def asked (v t : Nat) : State := let s := base 0 false; s.setPort 0 { s.port 0 with request := some (v, t) }

def partActs : List (Instr × State) := [
  (.warmStartRequest, base 0 false), (.coldStartRequest, chosen { port := 1 } (asked 2 0)), (.startRequestLapse, { asked 1 0 with clk := 1500000000 }),
  (.coldStart, { base 0 false with startDue := 2 }), (.warmStart, { base 0 false with startDue := 1 }), (.readySet, chosen { unit := 35 } (base 0 false)),
  (.freezeWrite, hosting 0 4 0x46525A21), (.freezeLapse, let s := base 0 false; { s.setPort 0 { s.port 0 with freeze := some 0 } with clk := 1500000000 }),
  (.freeze, chosen { err := .uncorrectable } (base 0 false)), (.thermalThrottle, hosting 0 3201 0), (.ethernetLinkChange, chosen { unit := 7, value := 1 } (base 0 false)),
  (.pcieLinkChange, chosen { port := 1 } (base 0 false))]

theorem witness_MemoryActsComplete : ∀ p ∈ memoryActs, (memoryAct p.1 p.2).isSome = true := List.all_eq_true.mp (by decide +kernel)
theorem witness_BargeActsComplete : ∀ p ∈ bargeActs, (bargeAct p.1 p.2).isSome = true := List.all_eq_true.mp (by decide +kernel)
theorem witness_EngineActsComplete : ∀ p ∈ engineActs, (engineAct p.1 p.2).isSome = true := List.all_eq_true.mp (by decide +kernel)
theorem witness_ScheduleActsComplete : ∀ p ∈ scheduleActs, (scheduleAct p.1 p.2).isSome = true := List.all_eq_true.mp (by decide +kernel)
theorem witness_CommandsComplete : ∀ p ∈ commandActs, (commandAct p.1 p.2).isSome = true := List.all_eq_true.mp (by decide +kernel)
theorem witness_CallsComplete : ∀ p ∈ firmwareActs, (match p.2.called p.1 with
    | some (_, x, r) => (refusal (callRefusals p.1 p.2 x r)).isNone && (callEffect p.1 p.2 x r).isSome | none => false) = true :=
  List.all_eq_true.mp (by decide +kernel)
theorem witness_CallsRefused : ∀ p ∈ refusedCalls, (match p.2.1.called p.1 with
    | some (_, x, r) => refusal (callRefusals p.1 p.2.1 x r) == some p.2.2 | none => false) = true :=
  List.all_eq_true.mp (by decide +kernel)
theorem witness_LoadCallsComplete : ∀ p ∈ loadActs, (loadAct p.1 p.2).isSome = true := List.all_eq_true.mp (by decide +kernel)
theorem witness_PartActsComplete : ∀ p ∈ partActs, (partAct p.1 p.2).isSome = true := List.all_eq_true.mp (by decide +kernel)

/-! ### Witnesses: encodings and the step -/

theorem witness_DecodeEncode : ∀ i ∈ integers ++ floats ++ uniforms ++ shuffles ++ branches ++ calls ++ maskWrites ++ gangMoves ++ accesses ++ words
    ++ lockWords ++ engines ++ taskWords ++ systemWords ++ effects ++ intervals, i.WellFormed :=
  fun i h => by
    have h' : (integers ++ floats ++ uniforms ++ shuffles ++ branches ++ calls ++ maskWrites ++ gangMoves ++ accesses ++ words
      ++ lockWords ++ engines ++ taskWords ++ systemWords ++ effects ++ intervals).all (fun i => i.info.legal) = true := by decide +kernel
    exact List.all_eq_true.mp h' i h
theorem witness_EncodeDecode : decodeWords [0x01000002, 0] = .ok (.bra 2) := by decide +kernel

/-- A part at its first fetch, of the word w. -/
def first (w : Nat) : State := State.reset.withFetchWord 32 w
def all : BitVec 32 := BitVec.allOnes 32

/-- `Turns`, as it is tested, for gang 4 of `first`. -/
def turnsB (s : State) (pc : Nat) : Bool :=
  let t := s.turn 4 0
  s.frozen == false && s.agenda == [.gang 4 0]
    && ({ s.tick with agenda := [] } : State).quadNext (({ s.tick with agenda := [] } : State).quadOf 4) == some 4
    && t.gangUp 4 && (t.gang 4).refineTrap == false && t.runnable 4 != 0 && (t.starved 4 || (t.gang 4).offer.isSome) == false
    && pc == (t.gang 4).offered (t.runnable 4) && all == (t.gang 4).at_ (t.runnable 4) pc && (t.gang 4).fetchWait.any (·.1 == pc) == false

theorem turns_of_turnsB {s : State} {pc : Nat} (h : turnsB s pc = true) : Turns s 4 0 pc all := by
  simp only [turnsB, Bool.and_eq_true, beq_iff_eq, bne_iff_ne, ne_eq] at h
  obtain ⟨⟨⟨⟨⟨⟨⟨⟨⟨h1, h2⟩, hq⟩, h3⟩, h4⟩, h5⟩, h6⟩, h7⟩, h8⟩, h9⟩ := h
  exact ⟨h1, ⟨4, [], h2, hq⟩, h3, h4, h5, h6, h7, h8, by decide, h9⟩

/-- The gang's threads at another address. -/
def from_ (pc : Nat) (s : State) : State := s.modGang 4 fun g => { g with threads := g.threads.map fun t => { t with pc := pc } }

theorem witness_StepRunsDecoded : Turns (first 0x01000002) 4 0 startVa all ∧
    (first 0x01000002).finds 4 0 startVa all = .words [0x01000002] ∧ decodeWords [0x01000002] = .ok (.bra 2) :=
  ⟨turns_of_turnsB (by decide +kernel), by decide +kernel, by decide +kernel⟩
theorem witness_FetchFailures_illegal : Turns (first 0x00000001) 4 0 startVa all ∧
    (first 0x00000001).finds 4 0 startVa all = .words [1] ∧ decodeWords [1] = .error .reservedField :=
  ⟨turns_of_turnsB (by decide +kernel), by decide +kernel, by decide +kernel⟩
/-- The page after the first GiB is absent, its fault replayable (R447). -/
def absent : State := (from_ (2 ^ 30) (first 0)).writeAt (.home 0 0x3008 0) (toBytes (2 ^ 62) 8)
theorem witness_FetchFailures_replayable : Turns absent 4 0 (2 ^ 30) all ∧ absent.finds 4 0 (2 ^ 30) all = .fault 0x13 (2 ^ 30) true [] :=
  ⟨turns_of_turnsB (by decide +kernel), by decide +kernel⟩
theorem witness_FetchFailures_fatal :
    Turns ((first 0).setLayer 0 { (first 0).layer 0 with segments := [] }) 4 0 startVa all ∧
    ((first 0).setLayer 0 { (first 0).layer 0 with segments := [] }).finds 4 0 startVa all = .fault 0x06 startVa false [] :=
  ⟨turns_of_turnsB (by decide +kernel), by decide +kernel⟩
theorem witness_MemoryCanonical : Memory.wf (first 0).mem = true ∧ (match step (first 0) with | .next _ => true | _ => false) = true := by
  decide +kernel

/-! ### Witnesses: checks, traps, handlers -/

theorem witness_WordChecks_form : (Instr.csrr 0 0x999).info.word = true ∧ user.issue = some u0 ∧ user.formOk (.csrr 0 0x999) u0 = false := by
  decide +kernel
theorem witness_WordChecks_eret : Instr.eret.info.word = true ∧ user.formOk .eret u0 = false := by decide +kernel
theorem witness_WordChecks_segment : user.formOk (.tlbiAll oDev) u0 = true ∧ user.segOk (.tlbiAll oDev) u0 = false := by decide +kernel
theorem witness_WordChecks_level : user.formOk (.csrw 192 0x21) u0 = true ∧ user.segOk (.csrw 192 0x21) u0 = true ∧
    user.levelBad (.csrw 192 0x21) u0 = some 0x02 := by decide +kernel
/-- Of seven chunks, v112 is the first register beyond. -/
theorem witness_WordChecks_allotment : user.formOk (.mov none 112 0) u0 = true ∧ user.segOk (.mov none 112 0) u0 = true ∧
    user.levelBad (.mov none 112 0) u0 = none ∧ user.allotOk (.mov none 112 0) u0 = false ∧ user.allotOk (.mov none 111 0) u0 = true := by
  decide +kernel

/-- `Passes`, as it is tested. -/
def passesB (i : Instr) (s : State) (u : Issue) : Bool :=
  i.info.word && s.issue == some u && s.formOk i u && s.segOk i u && (s.levelBad i u).isNone && s.allotOk i u
theorem passes_of_passesB {i : Instr} {s : State} {u : Issue} (h : passesB i s u = true) : Passes i s u := by
  simp only [passesB, Bool.and_eq_true, beq_iff_eq, Option.isNone_iff_eq_none] at h
  obtain ⟨⟨⟨⟨⟨h1, h2⟩, h3⟩, h4⟩, h5⟩, h6⟩ := h
  exact ⟨h1, h2, h3, h4, h5, h6⟩

/-- Under m5, which is 0. -/
def pNone : OPfx := some ⟨5, 0, false, false, 0, 0, 0⟩
theorem witness_NoActiveLane : Passes (.add pNone 0 0 0) user u0 ∧ (user.ctx (.add pNone 0 0 0) u0).act = 0 ∧ isSfwait (.add pNone 0 0 0) = false :=
  ⟨passes_of_passesB (by decide +kernel), by decide +kernel, rfl⟩

/-- Seventeen lanes that pop two entries each need more than the 32 of q0. -/
def wide : Issue := { u0 with run := 0x1FFFF }
def wideState : State := { user.modGang 1 fun g => { g with m := [(0, 0x1FFFF)] } with issue := some wide }
theorem witness_QueuesAndStalls_depth : Passes (.add none 0 224 224) wideState wide ∧ (wideState.ctx (.add none 0 224 224) wide).act ≠ 0 ∧
    queueRangeOk (.add none 0 224 224) (popcount (wideState.ctx (.add none 0 224 224) wide).qlanes) = false :=
  ⟨passes_of_passesB (by decide +kernel), by decide +kernel, by decide +kernel⟩
theorem witness_QueuesAndStalls_stall : Passes (.mov none 0 225) user u0 ∧ (user.ctx (.mov none 0 225) u0).act ≠ 0 ∧
    queueRangeOk (.mov none 0 225) (popcount (user.ctx (.mov none 0 225) u0).qlanes) = true ∧ user.unstalled (.mov none 0 225) u0 = false :=
  ⟨passes_of_passesB (by decide +kernel), by decide +kernel, by decide +kernel, by decide +kernel⟩
def uBad : Issue := { u0 with err := 1 }
theorem witness_QueuesAndStalls_storage : Passes (.mov none 0 0) { user with issue := some uBad } uBad ∧
    (({ user with issue := some uBad } : State).ctx (.mov none 0 0) uBad).act ≠ 0 ∧
    ({ user with issue := some uBad } : State).unstalled (.mov none 0 0) uBad = true ∧ readsStore (.mov none 0 0) uBad.err = true :=
  ⟨passes_of_passesB (by decide +kernel), by decide +kernel, by decide +kernel, by decide +kernel⟩

theorem witness_TrapsWait_handler : (find (handling user 1 true).gangs u0.gang).isSome = true ∧ 1 ≤ ((handling user 1 true).gang u0.gang).level ∧
    (handling user 1 true).onCore u0.gang true = true := by decide +kernel
theorem witness_TrapsWait_away : (find (convoyIs .preempting).gangs u0.gang).isSome = true ∧ (convoyIs .preempting).onCore u0.gang true = false := by
  decide +kernel
theorem witness_TrapsWait_drain : (find (doing (op (.load 0x8000 4 9 none) home)).gangs u0.gang).isSome = true ∧
    ((doing (op (.load 0x8000 4 9 none) home)).gang u0.gang).level = 0 ∧ (doing (op (.load 0x8000 4 9 none) home)).drained u0.gang false = false ∧
    (doing (op (.load 0x8000 4 9 none) home)).onCore u0.gang true = true := by
  decide +kernel

/-- A trap about to enter the kernel's handler at 4000h. -/
def entering : State :=
  layerIs (fun y => { y with kvec := 0x4000 }) ((base 0 false).modGang 1 fun g => { g with pend := some trapOf })
/-- The trap as its entry records it: a failure's counters as they stand, those of a trap at issue as they stood. -/
def recorded (t : Trap) : Trap := if t.counters = [] then { t with counters := entering.counterList 1 } else t
theorem witness_TrapEntry : ∀ t ∈ [trapOf, { trapOf with counters := List.replicate 256 1 }],
    (let s := entering.modGang 1 fun g => { g with pend := some t }
     let g := ((s.record 1).gang 1).gather
     let w := (s.record 1).modGang 1 Gang.gather
     (find s.gangs 1).isSome && g.pend == some (recorded t) && s.onCore 1 t.issue && (s.gang 1).level == 0 && s.drained 1 false && g.live != 0
       && (match w.handlerOf 1 with | .ok x => x == (0x4000, false) | .error _ => false)
       && (match w.partWrite (s.layerOf 1) (s.frameAddr 1) (g.frameBytes (recorded t)) with | .ok _ => true | .error _ => false)) = true :=
  List.all_eq_true.mp (by decide +kernel)
theorem witness_FrameFields : ({ trapOf with counters := List.replicate 256 0 } : Trap).counters.length = 256 :=
  List.length_replicate ..
/-- The waits of lanes 0 and 1 after a return: of a sleep and a met WAITM, of a WAITM that is not met, of states software cleared. -/
theorem witness_HandlerReturn :
    (let waits (m1 : Nat) (states : List Nat) : List Wait :=
       let g := gang.leave { pcs := [], masks := [0, m1], gsave := [], states := states } [.sleep 5, .waitm 1]
       [(g.thread 0).wait, (g.thread 1).wait]
     waits 2 [3, 18] = [.none, .none] ∧ waits 3 [3, 18] = [.none, .waitm 1] ∧ waits 3 [0, 0] = [.none, .none]) ∧
    0 < gang.threads.length ∧ hasLane gang.live 0 = true ∧ hasLane gang.live 1 = true := by decide +kernel
theorem witness_HandlerReturn_parked : (({ gang with threads := gang.threads.set 0 { pc := 4096, wait := .parked } } : Gang).leave
    { pcs := [], masks := [], gsave := [], states := [1] } []).thread 0 = { pc := 0, wait := .parked } := by decide +kernel
theorem witness_KilledCrew : 1 ∈ (user.crew 2).gangs := by decide +kernel

/-! ### Witnesses: threads, values, memory and shared units -/

theorem witness_HeadRun : gang.offer = none ∧ (3 : BitVec 32) ≠ 0 ∧ ∀ l, hasLane 3 l = true → (gang.thread l).pc < 2 ^ 57 :=
  ⟨rfl, by decide, fun l _ => by
    by_cases h : l < 32
    · have : ∀ l < 32, (gang.thread l).pc < 2 ^ 57 := by decide
      exact this l h
    · simp only [Gang.thread, gang]
      rw [List.getD_eq_default _ _ (by simp; omega)]
      decide⟩
/-- A quadrant whose first gang has yielded offers its slot to the second. -/
def yielding : State :=
  { base 0 false with gangs := [(1, { gang with yielded := some [] }), (5, { gang with slot := 3 })] }
theorem witness_QuadrantRotation : yielding.quadNext (0, 0, 0, 0) = some 5 ∧ yielding.passedOver [1, 5] 1 = true ∧
    yielding.passedOver [1, 5] 5 = false ∧ yielding.offered 1 = true := by decide +kernel
/-- Lane 0 exits while lane 1 waits on m1, which names both. -/
def waiting : Gang := { gang with threads := gang.threads.set 1 { pc := 4096, wait := .waitm 1 } }
theorem witness_ExitRule : hasLane 1 0 = true ∧ hasLane 1 1 = false ∧ ((waiting.exit 1).thread 1).wait = .none ∧ ((waiting.exit 1).thread 1).pc = 4100 := by
  decide +kernel
theorem witness_ReleaseRule : (∀ l < 32, hasLane 2 l = true → hasLane (waiting.writeMask 1 2).live l = true → (waiting.thread l).wait = .waitm 1) ∧
    (∃ l, hasLane 3 l = true ∧ hasLane (waiting.writeMask 1 3).live l = true ∧ (waiting.thread l).wait ≠ .waitm 1) :=
  ⟨by decide +kernel, 0, by decide +kernel⟩

/-- v0 and v1 as given in lanes 0 and 1. -/
def values (x y : Nat) : State :=
  user.modGang 1 fun g => { g with v := [(0, BitVec.ofNat 32 x), (1, BitVec.ofNat 32 x), (32, BitVec.ofNat 32 y), (33, BitVec.ofNat 32 y)] }
/-- Each border of Table 3, and an ordinary pair, with what the quotient and the remainder are of. -/
theorem witness_DivisionRule : ∀ p ∈ [(7, 0), (2 ^ 31, 2 ^ 32 - 1), (2 ^ 31, 1), (7, 2)],
    (readyB (.div none 2 0 1) (values p.1 p.2) u0 && readyB (.rem none 2 0 1) (values p.1 p.2) u0
      && ((values p.1 p.2).ctx (.div none 2 0 1) u0).val 0 0 == p.1 && ((values p.1 p.2).ctx (.div none 2 0 1) u0).val 1 0 == p.2) = true :=
  List.all_eq_true.mp (by decide +kernel)
/-- Shifts of the width and one less. -/
theorem witness_ShiftRule : ∀ p ∈ [(7, 31), (7, 32), (2 ^ 31, 2 ^ 32 - 1)],
    (readyB (.shl none 2 0 1) (values p.1 p.2) u0 && readyB (.shr none 2 0 1) (values p.1 p.2) u0
      && ((values p.1 p.2).ctx (.shl none 2 0 1) u0).val 1 0 == p.2) = true :=
  List.all_eq_true.mp (by decide +kernel)
theorem witness_TypeRule : (1 : Nat) ≤ 1 ∧ 1 ≤ 9 ∧ typeBits 1 < 32 ∧ isSigned 1 = true ∧ typeBits 5 < 32 ∧ isSigned 5 = false ∧ 32 ≤ typeBits 9 := by
  decide
theorem witness_NanOperands : Fmt.f32 ∈ [Fmt.f16, Fmt.bf16, Fmt.f32, Fmt.f64] ∧ (unpack .f32 false 0x7F800001).isNan = true := by decide +kernel
/-- [1, 2] holds both of its bounds. -/
def oneTwo : IvSrc := ⟨0x3F800000, 0x40000000, 0, 0, false⟩
theorem witness_IntervalEnclosure : wellFormedIv oneTwo.lo oneTwo.hi = true ∧ oneTwo.l.le oneTwo.l = true ∧ oneTwo.l.le oneTwo.h = true ∧
    oneTwo.h.le oneTwo.h = true ∧ (oneTwo.l.add oneTwo.h).isSome = true ∧ (oneTwo.l.add oneTwo.h.neg).isSome = true := by decide +kernel

/-- The last word of the address space, of the partition and of a peer's, the first beyond, one before the start, a misaligned one, and one
both misaligned and beyond. -/
theorem witness_AddressRules : (user.laneAddr 2 0 (2 ^ 57 - 4) o0 4).bad = none ∧ (user.laneAddr 2 0 (2 ^ 57) o0 4).bad = some (0x10, 2 ^ 57) ∧
    (user.laneAddr 2 0 2 o0 4).bad = some (0x12, 2) ∧ (user.laneAddr 2 1 32764 o0 4).bad = none ∧
    (user.laneAddr 2 1 32768 o0 4).bad = some (0x11, 32768) ∧ (user.laneAddr 2 1 2 o0 4).bad = some (0x12, 2) ∧
    user.peerCrew 2 (2 ^ 24) = none ∧ user.peerCrew 2 0 = some 2 ∧ (user.laneAddr 2 2 (2 ^ 24) o0 4).bad = some (0x11, 2 ^ 24) ∧
    (user.laneAddr 2 2 32764 o0 4).bad = none ∧ (user.laneAddr 2 2 32768 o0 4).bad = some (0x11, 32768) ∧
    (user.laneAddr 2 2 2 o0 4).bad = some (0x12, 2) ∧ (user.laneAddr 2 2 32766 o0 4).bad = some (0x11, 32766) := by decide +kernel
theorem witness_AddressRules_below : ∀ x ∈ [(0, 0x10), (1, 0x11), (2, 0x11)],
    (user.laneAddr 2 x.1 0 { o0 with off := -1 } 4).bad = some (x.2, 2 ^ 64 - 4) := by decide +kernel
/-- A compare that fails and one that meets its operand: memory holds 0 at 8000h. -/
theorem witness_AtomicPerforms : ∀ x ∈ [0, 1],
    ((doing (op (.atomic 0x8000 4 16 9 0 x 5 (some d0) none) home)).opAt 9 == some (op (.atomic 0x8000 4 16 9 0 x 5 (some d0) none) home)
      && ofBytes ((doing (op (.atomic 0x8000 4 16 9 0 x 5 (some d0) none) home)).readAt (.home 0 0x8000 0) 4) == 0) = true :=
  List.all_eq_true.mp (by decide +kernel)
theorem witness_CompletionRule : (doing (op (.load 0x8000 4 9 (some d0)) home)).opAt 9 = some (op (.load 0x8000 4 9 (some d0)) home) ∧
    (find (doing (op (.load 0x8000 4 9 (some d0)) home)).gangs 1).isSome = true ∧ 0 < d0.n ∧ d0.reg + d0.n ≤ 192 ∧ hasLane d0.lanes 0 = true ∧
    hasLane ((doing (op (.load 0x8000 4 9 (some d0)) home)).gang 1).live 0 = true := by decide +kernel
theorem witness_NodeAllocation : find (user.crew 2).caddy.nodes 1 = none ∧ 1 < (user.crew 2).nodeSpace ∧ (find user.crews 2).isSome = true ∧
    (user.crew 2).caddy.last = 0 := by decide +kernel
theorem witness_BarrierFills : ({ exp := 1 } : Barrier).phases = [] ∧ ({ exp := 1 } : Barrier).iss = 0 ∧ (0 : Nat) < 1 := by decide
/-- Gang 1 holds a lock for which gang 5 waits with its QLK in flight. -/
def locked : State :=
  { layerIs (fun y => { y with locks := [(7, { holder := some 1, fifo := [5] })] }) (base 0 false) with
    ops := [(9, { op (.qlk 7 d0 none) with gang := 5 }), (10, op (.qul 7)), (11, { op (.qlk 7 d0 none) with gang := 5, failed := some (0x20, 7) })] }
theorem witness_LockPasses : look (locked.layer 0).locks 7 {} = { holder := some 1, fifo := [5] } ∧
    find locked.ops 9 = some { op (.qlk 7 d0 none) with gang := 5 } ∧ find locked.ops 10 = some (op (.qul 7)) ∧
    find locked.ops 11 = some { op (.qlk 7 d0 none) with gang := 5, failed := some (0x20, 7) } := by decide +kernel
/-- A ring of 64 entries, empty and full. -/
def ringState (n : Nat) : State := let s := base 0 false; s.setPort 0 { s.port 0 with evcfg := 6, evwr := n }
theorem witness_EventPosted : ((ringState 63).port 0).ringFull = false ∧ ((ringState 64).port 0).ringFull = true := by decide +kernel
theorem witness_SystemRegisters : (0 : Nat) < 2 ^ 32 ∧ 0x021 ∈ systemRegisters := by decide

/-! ### Words written out from the spec's encodings -/

/-- The words decode to the instruction. -/
def reads (ws : List Nat) (i : Instr) : Bool :=
  match decodeWords (ws.map (BitVec.ofNat 32 ·)) with | .ok j => j == i | .error _ => false

/-- R76 Table 20, R86, R87, R92 to R102. -/
theorem test_decode_control : (reads [0x00000000] .nop && reads [0x01000002] (.bra 2) && reads [0x0220001A] (.brc 2 26) && reads [0x07000000] .exit
    && reads [0x81010000] (.join 1) && reads [0x83000000] (.waitm 0) && reads [0x87020001] (.mandn 2 0 1) && reads [0x8801C001] (.mmovMG 1 192)) = true := by
  decide +kernel
/-- R106, R119, R122, R125: `movi v2, 8`, `umovi g0, 255`, `mov v4, q24`, and the worked shuffle and scan. -/
theorem test_decode_integer : (reads [0x2A020008] (.movi none 2 8) && reads [0x98C000FF] (.umovi 192 255) && reads [0x2D04F800] (.mov none 4 248)
    && reads [0x7F11C100, 0x4A090843] (.shfd (some ⟨1, 0, false, true, 193, 0, 0⟩) 9 8 2 3)
    && reads [0x7F100000, 0x4E0A0950] (.scan (some ⟨1, 0, false, false, 0, 0, 0⟩) 10 9 5 false 0)) = true := by decide +kernel
/-- R76 Table 20, R137, R147. -/
theorem test_decode_float : (reads [0x7F260000, 0x30090304] (.fadd (some ⟨2, 1, true, false, 0, 0, 0⟩) 9 3 4)
    && reads [0x7FF10500, 0x33010203] (.ffma (some ⟨15, 0, false, true, 5, 0, 0⟩) 1 2 3)
    && reads [0x7FF000A0, 0x3906050C] (.fcvt (some ⟨15, 0, false, false, 0, 10, 0⟩) 6 5 12)
    && reads [0x40080520] (.sfq none 8 5 2 0) && reads [0x41000004] (.sfwait none 4)) = true := by decide +kernel
/-- R163, R187, R210, R222. -/
theorem test_decode_memory : (reads [0xBE000200] (.swait 2 0) && reads [0x60040200, 0x20640004] (.ldg none 4 2 false ⟨1, 3, 1, false, 0, 0, 4⟩)
    && reads [0x7FF11000, 0x69080200, 0x81080000] (.cas128 (some ⟨15, 0, false, true, 16, 0, 0⟩) 8 2 0 ⟨4, 8, 2, false, 0, 0, 0⟩)
    && reads [0xB0050022, 0x01040000] (.barrPhase 5 2 ⟨0, 8, 1, false, 0, 0, 0⟩)
    && reads [0xB1000502, 0x20040000] (.barw 5 2 ⟨1, 0, 1, false, 0, 0, 0⟩)) = true := by decide +kernel
/-- R273, R288, R356. -/
theorem test_decode_engines : (reads [0x5C080801] (.esever none 8 8 true) && reads [0x5A0C0800] (.emov none 12 8 false)
    && reads [0x7FF10800, 0x5D420040] (.ecmp (some ⟨15, 0, false, true, 8, 0, 0⟩) 4 2 0 4) && reads [0x5E140C50] (.esgn none 20 12 5)
    && reads [0x7500C400, 0x60040000, 0x31001080] (.ruleSub none 196 ⟨3, 0, 1, false, 0, 0, 0⟩ ⟨2, false⟩)) = true := by decide +kernel
/-- R372, R407, R425. -/
theorem test_decode_system : (reads [0xC0C0C2C3, 0x202C0000] (.spawn 192 194 195 ⟨1, 1, 3, false, 0, 0, 0⟩) && reads [0xC600C000] (.bflush 192)
    && reads [0xC5C6F000] (.qlen 198 240 false) && reads [0xD0C8C403, 0x40500002] (.mcst 200 196 3 ⟨2, 2, 4, false, 0, 0, 2⟩)
    && reads [0xD1140200, 0x60100000] (.rchk 20 2 ⟨3, 0, 4, false, 0, 0, 0⟩) && reads [0xD2000200, 0x80100000] (.resync 2 ⟨4, 0, 4, false, 0, 0, 0⟩)
    && reads [0xD3CA0001] (.slotq 202 1) && reads [0xD4060000] (.slotr 6) && reads [0xD500CA00] (.slotw 202) && reads [0xD6140200] (.rstat 20 2)
    && reads [0xF2C40003] (.csrr 196 3) && reads [0xF3C40021] (.csrw 196 33)) = true := by decide +kernel
/-- R487: the store whose variant byte is 02h has a reserved bit set. -/
theorem test_decode_reserved : decodeWords [0x61080202, 0x40043440] = .error .reservedField := by decide +kernel

/-! ### Ill-formed terms: one for each check -/

theorem test_ill_act : ¬ Instr.loadComplete.WellFormed := by decide +kernel
theorem test_ill_field : ¬ (Instr.atom none 4 2 0 3 ⟨0, 0, 0, false, 0, 0, 0⟩).WellFormed := by decide +kernel
theorem test_ill_mask : ¬ (Instr.fadd (some ⟨12, 0, false, false, 0, 0, 0⟩) 1 2 3).WellFormed := by decide +kernel
theorem test_ill_f4 : ¬ (Instr.ffma none 1 2 3).WellFormed ∧ ¬ (Instr.fadd (some ⟨15, 0, false, true, 4, 0, 0⟩) 1 2 3).WellFormed ∧
    ¬ (Instr.fadd (some ⟨15, 0, false, false, 4, 0, 0⟩) 1 2 3).WellFormed := by decide +kernel
theorem test_ill_rounding : ¬ (Instr.add (some ⟨15, 1, false, false, 0, 0, 0⟩) 1 2 3).WellFormed := by decide +kernel
theorem test_ill_zeroing : ¬ (Instr.stg (some ⟨1, 0, true, false, 0, 0, 0⟩) 4 2 false ⟨0, 0, 0, false, 0, 0, 0⟩).WellFormed := by decide +kernel
theorem test_ill_type : ¬ (Instr.mul (some ⟨15, 0, false, false, 0, 1, 0⟩) 1 2 3).WellFormed := by decide +kernel
theorem test_ill_scope : ¬ (Instr.ldg none 4 2 false ⟨0, 0, 6, false, 0, 0, 0⟩).WellFormed := by decide +kernel
theorem test_ill_register : ¬ (Instr.add none 248 2 3).WellFormed ∧ ¬ (Instr.lea none 5 2 3).WellFormed ∧ ¬ (Instr.eneg none 192 0).WellFormed := by
  decide +kernel

/-! ### One step: expected values are worked by hand from the rules cited -/

def after (i : Instr) (s : State) : State := match exec i s with | .next t => t | _ => s
/-- Register vr of lane 0 after the instruction. -/
def gives (i : Instr) (s : State) (r : Nat) : Nat := ((after i s).gang 1).vreg r 0
/-- A prefix of a type. -/
def pt (t : BitVec 4) : OPfx := some ⟨15, 0, false, false, 0, t, 0⟩

/-- R104, R107: words wrap, bytes clamp. -/
theorem test_add : gives (.add none 2 0 1) (values 0xFFFFFFFF 3) 2 = 2 ∧ gives (.add (pt 1) 2 0 1) (values 0x7F 1) 2 = 0x7F := by decide +kernel
theorem test_sub : gives (.sub none 2 0 1) (values 0 1) 2 = 0xFFFFFFFF ∧ gives (.sub (pt 5) 2 0 1) (values 0 1) 2 = 0 := by decide +kernel
/-- R110 and its Table 3. -/
theorem test_div : gives (.div none 2 0 1) (values 0xFFFFFFF9 2) 2 = 0xFFFFFFFD ∧ gives (.div none 2 0 1) (values 7 0) 2 = 0xFFFFFFFF := by decide +kernel
theorem test_rem : gives (.rem none 2 0 1) (values 0xFFFFFFF9 2) 2 = 0xFFFFFFFF ∧ gives (.rem none 2 0 1) (values 0x80000000 0xFFFFFFFF) 2 = 0 := by
  decide +kernel
/-- R113. -/
theorem test_shl : gives (.shl none 2 0 1) (values 3 31) 2 = 0x80000000 ∧ gives (.shl none 2 0 1) (values 3 32) 2 = 0 := by decide +kernel
theorem test_shr : gives (.shr none 2 0 1) (values 0x80000000 31) 2 = 1 ∧ gives (.shr (pt 3) 2 0 1) (values 0x80000000 40) 2 = 0xFFFFFFFF := by
  decide +kernel
/-- R116. -/
theorem test_counts : gives (.clz none 2 0) (values 0 0) 2 = 32 ∧ gives (.popc none 2 0) (values 0xF0F0 0) 2 = 8 ∧
    gives (.brev none 2 0) (values 1 0) 2 = 0x80000000 := by decide +kernel
/-- R119. -/
theorem test_movi : gives (.movi none 2 0xFFFF) user 2 = 0xFFFFFFFF ∧ gives (.movi (pt 7) 2 0xFFFF) user 2 = 0xFFFF := by decide +kernel
theorem test_movh : gives (.movh none 0 0x1234) (values 0xAAAABBBB 0) 0 = 0x1234BBBB := by decide +kernel
/-- R122. -/
theorem test_usub : ((after (.usub 200 192 193) user).gang 1).greg 8 = 0xFFFFFFFF := by decide +kernel
/-- R126: lane 0 takes lane 1's word, R128: inclusive sums. -/
theorem test_shfx : gives (.shfx (some ⟨15, 0, false, true, 193, 0, 0⟩) 2 0 5 15)
    (user.modGang 1 fun g => { g with v := [(0, 5), (1, 9)] }) 2 = 9 := by decide +kernel
theorem test_scan : ((after (.scan none 2 0 5 false 0) (values 3 0)).gang 1).vreg 2 1 = 6 := by decide +kernel
/-- R118: −1 is less than 1. -/
theorem test_cmpm : ((after (.cmpm none 2 2 0 1) (values 0xFFFFFFFF 1)).gang 1).mask 2 = 3 := by decide +kernel
/-- R98. -/
theorem test_mandn : ((after (.mandn 1 0 1) user).gang 1).mask 1 = 0 := by decide +kernel
/-- R130, R138: 1 + 2^−24 is a tie, that rounds to even; towards +∞ it rounds up. -/
theorem test_fadd : gives (.fadd none 2 0 1) (values 0x3F800000 0x33800000) 2 = 0x3F800000 ∧
    gives (.fadd (some ⟨15, 2, false, false, 0, 0, 0⟩) 2 0 1) (values 0x3F800000 0x33800000) 2 = 0x3F800001 := by decide +kernel
/-- 1/3 and the square root of 2, to the nearest. -/
theorem test_fdiv : gives (.fdiv none 2 0 1) (values 0x3F800000 0x40400000) 2 = 0x3EAAAAAB := by decide +kernel
theorem test_fsqrt : gives (.fsqrt none 2 0) (values 0x40000000 0) 2 = 0x3FB504F3 := by decide +kernel
/-- R141, R142: 1.0 as binary16, 2.5 to an integer, −1 to a float. -/
theorem test_conversions : gives (.fcvt (pt 10) 2 0 12) (values 0x3F800000 0) 2 = 0x3C00 ∧ gives (.fcvti none 2 0 12) (values 0x40200000 0) 2 = 2 ∧
    gives (.icvtf none 2 0 3) (values 0xFFFFFFFF 0) 2 = 0xBF800000 := by decide +kernel
/-- R276: 1 + 1. -/
theorem test_eadd : gives (.eadd none 4 0 0) (values 0x3F800000 0x3F800000) 4 = 0x40000000 ∧
    gives (.eadd none 4 0 0) (values 0x3F800000 0x3F800000) 5 = 0x40000000 := by decide +kernel
/-- R88, R89: the target is pc + 4 OFF. -/
theorem test_bra : (((after (.bra 0xFFFFF) user).gang 1).thread 0).pc = 4092 := by decide +kernel
theorem test_call : (((after (.call 2) user).gang 1).thread 1) = { pc := 4104, stack := [4100, 8192] } := by decide +kernel
theorem test_ret : (((after .ret user).gang 1).thread 1) = { pc := 8192 } := by decide +kernel
/-- R92. -/
theorem test_exit : ((after .exit user).gang 1).live = 0 := by decide +kernel
/-- R390: q0 holds 32 entries; the words pushed come last. -/
theorem test_qlen : ((after (.qlen 200 224 false) user).gang 1).greg 8 = 32 := by decide +kernel
theorem test_push : (after (.mov none 224 8) { user with crews := alter user.crews 2 fun c => { c with queues := [] } }).queue 1 0 = [0x300, 0x300] := by
  decide +kernel
/-- R423: NETIDLE below 64 is taken as 64. -/
theorem test_csrw : ((after (.csrw 193 0x30) sys).layer 0).netidle = 64 := by decide +kernel
/-- R432: TRAP 5 with nothing in flight enters the kernel's handler at level 2. -/
theorem test_trap : let g := (after (.trap 5) (layerIs (fun y => { y with kvec := 0x4000 }) user)).gang 1
    g.level = 2 ∧ (g.thread 0).pc = 0x4000 ∧ g.greg 30 = 7 ∧ g.greg 31 = 3 := by decide +kernel
/-- The example after R214: x = 7, and the word goes from 6 to 7, 0 and 1. -/
theorem test_atomic_inc : atomicNew 8 7 0 false 32 6 7 = 7 ∧ atomicNew 8 7 0 false 32 7 7 = 0 ∧ atomicNew 8 7 0 false 32 0 7 = 1 := by decide +kernel
/-- R191, R200: a load brings its word, a store of scope crew leaves its bytes. -/
theorem test_load : ((after .loadComplete ((doing (op (.load 0x8000 4 9 (some d0)) home)).writeAt (.home 0 0x8000 0) [1, 2, 3, 4])).gang 1).vreg 0 0
    = 0x04030201 := by decide +kernel
theorem test_store : (after .storeComplete (doing { op (.store 0x8000 [7, 8]) home with scope := 1 })).readAt (.home 0 0x8000 0) 3 = [7, 8, 0] := by decide +kernel
/-- The whole step: fetch, decode, branch. -/
theorem test_step : (match step (first 0x01000002) with | .next t => ((t.gang 4).thread 31).pc | _ => 0) = startVa + 8 := by decide +kernel
/-- R496 by name: the base point of P-384 lies on the curve; SHA-384 starts from the fraction of the square root of 23 (FIPS 180-4 5.3.4). -/
theorem test_signature : onCurve p384G = true ∧ shaStart.getD 0 0 = 0xCBBB9D5DC1059ED8 := by decide +kernel

end Sys2Proof.Tests
end

section
/-! PROOFS. An atomic as one read and one write of its bytes (spec/08_atomics.md R212 to R214, spec/01_machine.md R10). -/

namespace Sys2Proof.Machine

/-! ### Little-endian bytes -/

@[simp] theorem length_toBytes (x n : Nat) : (toBytes x n).length = n := by
  induction n generalizing x with
  | zero => rfl
  | succ n ih => rw [toBytes, List.length_cons, ih]

/-- n bytes hold a value modulo 2^(8n) (R2). -/
theorem ofBytes_toBytes (x n : Nat) : ofBytes (toBytes x n) = x % 2 ^ (8 * n) := by
  induction n generalizing x with
  | zero => simp [toBytes, ofBytes, Nat.mod_one]
  | succ n ih =>
    rw [toBytes, ofBytes, ih, BitVec.toNat_ofNat, show 2 ^ (8 * (n + 1)) = 256 * 2 ^ (8 * n) by ring, Nat.mod_mul]

/-! ### Operations and places under a change of one operation -/

theorem State.opAt_modOp (s : State) (i j : Nat) (f : Op → Op) :
    (s.modOp i f).opAt j = if i = j then (s.opAt j).map f else s.opAt j := find_alter s.ops i j f

@[simp] theorem State.opAt_writeAt (s : State) (p : Place) (b : List Byte) (j : Nat) : (s.writeAt p b).opAt j = s.opAt j := rfl

@[simp] theorem State.readAt_modOp (s : State) (i : Nat) (f : Op → Op) (p : Place) (n : Nat) :
    (s.modOp i f).readAt p n = s.readAt p n := by cases p <;> rfl

/-! ### The bytes a write leaves -/

/-- Beside the bytes written, memory is as an access under the place's key record finds it (R10). -/
theorem State.get_writeAt_apart {s : State} {p : Place} {b : List Byte} {k : Nat} (h : k < s.key p ∨ s.key p + b.length ≤ k) :
    Memory.get (s.writeAt p b).mem k = Memory.get (s.memUnder (s.recordOf p) (s.key p) b.length) k := by
  rw [State.writeAt_mem, Memory.get_write, if_neg (by omega)]

/-- A write leaves every line but its own. -/
theorem State.get_writeAt_other_line {s : State} {p : Place} {b : List Byte} {k : Nat} (h : k / 64 ∉ linesOf (s.key p) b.length) :
    Memory.get (s.writeAt p b).mem k = Memory.get s.mem k := by
  have hk : k < s.key p ∨ s.key p + b.length ≤ k := by
    by_contra hin
    exact h (linesOf_mem (by omega) (by omega))
  rw [State.get_writeAt_apart hk, State.get_memUnder h]

/-! ### What an atomic writes -/

theorem atomicWrite_cas_succeeds (t rnd : Nat) (ftz : Bool) (w x y : Nat) : atomicWrite 16 t rnd ftz w x x y = some y := by
  rw [atomicWrite, if_pos rfl, if_pos rfl]

theorem atomicWrite_cas_fails {old x : Nat} (t rnd : Nat) (ftz : Bool) (w y : Nat) (h : old ≠ x) :
    atomicWrite 16 t rnd ftz w old x y = none := by
  rw [atomicWrite, if_pos rfl, if_neg h]

theorem atomicWrite_not_cas {op : Nat} (t rnd : Nat) (ftz : Bool) (w old x y : Nat) (h : op ≠ 16) :
    atomicWrite op t rnd ftz w old x y = some (atomicNew op t rnd ftz w old x) := by
  rw [atomicWrite, if_neg h]

/-! ### The performance -/

section
variable {s : State} {i : Nat} {o : Op} {p : Place} {ea size op ty rnd x y : Nat} {d : Option Dest}

/-- An operation that has been performed, with what it is from then on. -/
def Op.performed (o : Op) (k : OpKind) : Op := { o with visible := true, kind := k }

/-- The kind of an atomic once its old value is read. -/
def readKind (s : State) (p : Place) (ea size op ty rnd x y : Nat) (d : Option Dest) : OpKind :=
  .atomic ea size op ty rnd x y d (some (ofBytes (s.readAt p size)))

/-- A performance that writes: the bytes of its new value, then its own record. -/
theorem State.performAtomic_writes {v : Nat} (ho : s.opAt i = some o) (hk : o.kind = .atomic ea size op ty rnd x y d none)
    (hp : o.place = some p) (hw : atomicWrite op ty rnd (s.ftz o.gang) (8 * size) (ofBytes (s.readAt p size)) x y = some v) :
    s.performAtomic i = (s.writeAt p (toBytes v size)).modOp i (·.performed (readKind s p ea size op ty rnd x y d)) := by
  simp only [State.performAtomic, ho, hk, hp, hw]
  rfl

/-- A performance that writes nothing changes its own record alone. -/
theorem State.performAtomic_silent (ho : s.opAt i = some o) (hk : o.kind = .atomic ea size op ty rnd x y d none)
    (hp : o.place = some p) (hw : atomicWrite op ty rnd (s.ftz o.gang) (8 * size) (ofBytes (s.readAt p size)) x y = none) :
    s.performAtomic i = s.modOp i (·.performed (readKind s p ea size op ty rnd x y d)) := by
  simp only [State.performAtomic, ho, hk, hp, hw]
  rfl

/-- Whatever it writes, the operation holds its old value, and no other operation changes. -/
theorem State.opAt_performAtomic (ho : s.opAt i = some o) (hk : o.kind = .atomic ea size op ty rnd x y d none) (hp : o.place = some p)
    (j : Nat) : (s.performAtomic i).opAt j =
      if i = j then some (o.performed (readKind s p ea size op ty rnd x y d)) else s.opAt j := by
  have hrec : ∀ u : State, (∀ j, u.opAt j = s.opAt j) →
      (u.modOp i (·.performed (readKind s p ea size op ty rnd x y d))).opAt j =
        if i = j then some (o.performed (readKind s p ea size op ty rnd x y d)) else s.opAt j := by
    intro u hu
    rw [State.opAt_modOp, hu]
    split
    · subst j; rw [ho]; rfl
    · rfl
  cases hw : atomicWrite op ty rnd (s.ftz o.gang) (8 * size) (ofBytes (s.readAt p size)) x y with
  | none => rw [State.performAtomic_silent ho hk hp hw]; exact hrec s fun _ => rfl
  | some v => rw [State.performAtomic_writes ho hk hp hw]; exact hrec _ (s.opAt_writeAt p _)

/-- A write of v leaves v in its bytes, modulo their width. -/
theorem State.readAt_performAtomic {v : Nat} (ho : s.opAt i = some o) (hk : o.kind = .atomic ea size op ty rnd x y d none)
    (hp : o.place = some p) (hw : atomicWrite op ty rnd (s.ftz o.gang) (8 * size) (ofBytes (s.readAt p size)) x y = some v) :
    ofBytes ((s.performAtomic i).readAt p size) = v % 2 ^ (8 * size) := by
  have hread := s.readAt_writeAt p (toBytes v size)
  rw [length_toBytes] at hread
  rw [State.performAtomic_writes ho hk hp hw, State.readAt_modOp, hread, ofBytes_toBytes]

/-- No other line changes. -/
theorem State.get_performAtomic_other_line (ho : s.opAt i = some o) (hk : o.kind = .atomic ea size op ty rnd x y d none)
    (hp : o.place = some p) {k : Nat} (h : k / 64 ∉ linesOf (s.key p) size) :
    Memory.get (s.performAtomic i).mem k = Memory.get s.mem k := by
  cases hw : atomicWrite op ty rnd (s.ftz o.gang) (8 * size) (ofBytes (s.readAt p size)) x y with
  | none => rw [State.performAtomic_silent ho hk hp hw, State.modOp_mem]
  | some v =>
    rw [State.performAtomic_writes ho hk hp hw, State.modOp_mem]
    exact State.get_writeAt_other_line (by rwa [length_toBytes])

/-- A write leaves the bytes beside its own as an access under the place's record finds them. -/
theorem State.get_performAtomic_apart {v : Nat} (ho : s.opAt i = some o) (hk : o.kind = .atomic ea size op ty rnd x y d none)
    (hp : o.place = some p) (hw : atomicWrite op ty rnd (s.ftz o.gang) (8 * size) (ofBytes (s.readAt p size)) x y = some v)
    {k : Nat} (h : k < s.key p ∨ s.key p + size ≤ k) :
    Memory.get (s.performAtomic i).mem k = Memory.get (s.memUnder (s.recordOf p) (s.key p) size) k := by
  have hlen := length_toBytes v size
  rw [State.performAtomic_writes ho hk hp hw, State.modOp_mem, State.get_writeAt_apart (by rwa [hlen]), hlen]

end

/-- Unless a compare fails, an atomic writes. -/
theorem exists_atomicWrite {op old x : Nat} (t rnd : Nat) (ftz : Bool) (w y : Nat) (h : op = 16 → old = x) :
    ∃ v, atomicWrite op t rnd ftz w old x y = some v := by
  by_cases hop : op = 16
  · subst hop
    obtain rfl := h rfl
    exact ⟨y, atomicWrite_cas_succeeds ..⟩
  · exact ⟨_, atomicWrite_not_cas t rnd ftz w old x y hop⟩

/-- Settles O54, by what the operation writes: nothing where a compare fails, and else one value over its bytes. -/
theorem atomicPerforms : Obligations.AtomicPerforms := by
  intro s i o p ea size op ty rnd x y d ho hk hp old t
  have hops : ∀ j, t.opAt j = _ := State.opAt_performAtomic ho hk hp
  refine ⟨?own, ?others, ?fails, ?swaps, ?computes, ?lines, ?beside⟩
  case own => rw [hops, if_pos rfl]; rfl
  case others => exact fun j hj => by rw [hops, if_neg (Ne.symm hj)]
  case fails =>
    rintro rfl hne
    have ht : t = _ := State.performAtomic_silent ho hk hp (atomicWrite_cas_fails _ _ _ _ _ hne)
    rw [ht]
    exact ⟨rfl, rfl⟩
  case swaps =>
    rintro rfl heq
    refine State.readAt_performAtomic ho hk hp ?_
    rw [show ofBytes (s.readAt p size) = x from heq, atomicWrite_cas_succeeds]
  case computes => exact fun hop => State.readAt_performAtomic ho hk hp (atomicWrite_not_cas _ _ _ _ _ _ _ hop)
  case lines => exact fun k hk' => State.get_performAtomic_other_line ho hk hp hk'
  case beside =>
    intro hwrites k hk'
    obtain ⟨v, hv⟩ := exists_atomicWrite ty rnd (s.ftz o.gang) (8 * size) y hwrites
    exact State.get_performAtomic_apart ho hk hp hv hk'

end Sys2Proof.Machine
end

section
/-! PROOFS. Starts, readiness, freezing, heat and links (spec/01_machine.md R29, spec/18_commands.md R477 to R483): where the table calls
an act due, the act leaves the table's state. -/

namespace Sys2Proof.Machine

/-! ### Starts -/

/-- The table's row of a request of start v, which the warm and the cold one share. -/
def State.askStart (s : State) (v : Nat) : Option State :=
  let p := s.choice.port
  if 2 ≤ p then none
  else if (s.port (1 - p)).link = false then some { s with startDue := v }
  else (match (s.port (1 - p)).request with
    | some (w, t) => some (if s.clk < t + s.second then { s with startDue := if w = v then v else 2 }
        else s.setPort p { s.port p with request := some (v, s.clk) })
    | none => some (s.setPort p { s.port p with request := some (v, s.clk) }))

theorem partAct_warmStartRequest (s : State) : partAct .warmStartRequest s = s.askStart 1 := rfl
theorem partAct_coldStartRequest (s : State) : partAct .coldStartRequest s = s.askStart 2 := rfl

section
variable {s t : State}

/-- The other port's link is down, or its request is in force, or it has lapsed, or there is none (R480). -/
theorem startRequest_of_askStart {v : Nat} (h : s.askStart v = some t) : startRequest v s = .next t := by
  unfold State.askStart at h
  unfold startRequest State.asked
  by_cases hp : 2 ≤ s.choice.port
  · simp [hp] at h
  by_cases hl : (s.port (1 - s.choice.port)).link = false
  · simpa [hp, hl] using h
  rcases hr : (s.port (1 - s.choice.port)).request with _ | ⟨w, u⟩
  · simpa [hp, hl, hr] using h
  · by_cases hin : s.clk < u + s.second <;> simpa [hp, hl, hr, hin] using h

theorem exec_warmStartRequest_of_due (h : partAct .warmStartRequest s = some t) : exec .warmStartRequest s = .next t := by
  rw [exec_warmStartRequest]
  exact startRequest_of_askStart h

theorem exec_coldStartRequest_of_due (h : partAct .coldStartRequest s = some t) : exec .coldStartRequest s = .next t := by
  rw [exec_coldStartRequest]
  exact startRequest_of_askStart h

theorem exec_startRequestLapse_of_due (h : partAct .startRequestLapse s = some t) : exec .startRequestLapse s = .next t := by
  obtain ⟨⟨v, u⟩, hr, hx⟩ := Option.bind_eq_some_iff.mp h
  obtain ⟨hlapsed, hx⟩ := Option.ite_none_right_eq_some.mp hx
  cases hx
  simp only [exec_startRequestLapse, execStartRequestLapse, hr]
  exact congrArg _ (if_pos hlapsed)

theorem exec_coldStart_of_due (h : partAct .coldStart s = some t) : exec .coldStart s = .next t := by
  obtain ⟨hdue, hx⟩ := Option.ite_none_right_eq_some.mp h
  cases hx
  rw [exec_coldStart, execColdStart, if_pos hdue]

theorem exec_warmStart_of_due (h : partAct .warmStart s = some t) : exec .warmStart s = .next t := by
  obtain ⟨hdue, hx⟩ := Option.ite_none_right_eq_some.mp h
  cases hx
  rw [exec_warmStart, execWarmStart, if_pos hdue]

/-- No sleeping layer holds back the function of bit b: the table asks it of every layer, the act of some (R29). -/
theorem not_any_asleep {b : Nat} (h : ((List.range 8).all fun l => !((s.layer l).asleep && (b == l || b == 28 + l))) = true) :
    (!(List.range Config.layers).any fun l => (s.layer l).asleep && (b == l || b == 28 + l)) = true := by
  rw [List.not_any_eq_all_not]
  exact h

theorem exec_readySet_of_due (h : partAct .readySet s = some t) : exec .readySet s = .next t := by
  obtain ⟨⟨hb, hawake⟩, hx⟩ := Option.ite_none_right_eq_some.mp h
  cases hx
  rw [exec_readySet, execReadySet]
  exact congrArg _ (if_pos ⟨hb, not_any_asleep hawake⟩)

/-! ### Freezing -/

theorem exec_freezeWrite_of_due (h : partAct .freezeWrite s = some t) : exec .freezeWrite s = .next t := by
  obtain ⟨hdue, hx⟩ := Option.ite_none_right_eq_some.mp h
  cases hx
  rw [exec_freezeWrite, execFreezeWrite]
  exact congrArg _ (if_pos hdue)

theorem exec_freezeLapse_of_due (h : partAct .freezeLapse s = some t) : exec .freezeLapse s = .next t := by
  obtain ⟨u, hf, hx⟩ := Option.bind_eq_some_iff.mp h
  obtain ⟨hlapsed, hx⟩ := Option.ite_none_right_eq_some.mp hx
  cases hx
  simp only [exec_freezeLapse, execFreezeLapse, hf]
  exact congrArg _ (if_pos hlapsed)

theorem exec_freeze_of_due (h : partAct .freeze s = some t) : exec .freeze s = .next t := by
  obtain ⟨hdue, hx⟩ := Option.ite_none_right_eq_some.mp h
  cases hx
  rw [exec_freeze, execFreeze]
  exact if_pos hdue

/-! ### Heat and links -/

theorem exec_thermalThrottle_of_due (h : partAct .thermalThrottle s = some t) : exec .thermalThrottle s = .next t := by
  cases h
  rfl

theorem exec_ethernetLinkChange_of_due (h : partAct .ethernetLinkChange s = some t) : exec .ethernetLinkChange s = .next t := by
  obtain ⟨⟨hk, hchange⟩, hx⟩ := Option.ite_none_right_eq_some.mp h
  cases hx
  rw [exec_ethernetLinkChange, execEthernetLinkChange]
  exact if_neg (not_or.mpr ⟨Nat.not_le.mpr hk, hchange⟩)

theorem exec_pcieLinkChange_of_due (h : partAct .pcieLinkChange s = some t) : exec .pcieLinkChange s = .next t := by
  obtain ⟨hp, hx⟩ := Option.ite_none_right_eq_some.mp h
  cases hx
  rw [exec_pcieLinkChange, execPcieLinkChange]
  exact if_neg (Nat.not_le.mpr hp)

end

/-- Settles O28, act by act; the table holds no other. -/
theorem partActsComplete : Obligations.PartActsComplete := by
  intro a s t h
  cases a
  case warmStartRequest => exact exec_warmStartRequest_of_due h
  case coldStartRequest => exact exec_coldStartRequest_of_due h
  case startRequestLapse => exact exec_startRequestLapse_of_due h
  case coldStart => exact exec_coldStart_of_due h
  case warmStart => exact exec_warmStart_of_due h
  case readySet => exact exec_readySet_of_due h
  case freezeWrite => exact exec_freezeWrite_of_due h
  case freezeLapse => exact exec_freezeLapse_of_due h
  case freeze => exact exec_freeze_of_due h
  case thermalThrottle => exact exec_thermalThrottle_of_due h
  case ethernetLinkChange => exact exec_ethernetLinkChange_of_due h
  case pcieLinkChange => exact exec_pcieLinkChange_of_due h
  all_goals exact nomatch h

end Sys2Proof.Machine
end

section
/-! PROOFS. The decoder and the encoder are each other's inverse (spec/02_formats.md R31 to R38, R46, R50, R64). -/

namespace Sys2Proof
open Machine

/-- The set bit and the major of a base word (R34). -/
def opOf (w : Word) : Nat := w.toNat / 2 ^ 24

/-! ### From a list of words to its base word -/

/-- The decoder of a base word's major, past the check of its prefix. -/
def decodeMajor (op : Nat) (p : OPfx) (w : Word) (o : Ord) (e : Word) : Except Reject Instr :=
  match op / 16 with
  | 0x0 => decodeControl op w
  | 0x1 => decodeInteger1 op p w
  | 0x2 => decodeInteger2 op p w
  | 0x3 => decodeFloat op p w
  | 0x4 => decodeCross op p w
  | 0x5 => decodeInterval op p w
  | 0x6 => decodeMemory op p w o
  | 0x7 => decodeEngine op p w o e
  | 0x8 => decodeUniform0 op w
  | 0x9 => decodeUniform1 op w
  | 0xB => decodeUniform3 op w o e
  | 0xC => decodeUniform4 op w o
  | 0xD => decodeUniform5 op w o
  | 0xE => decodeUniform6 op w o
  | 0xF => decodeUniform7 op w o
  | _ => .error .unassigned

/-- A prefix may stand before this major (R38). -/
def PfxFits (p : OPfx) (op : Nat) : Prop := p = none ∨ 0x10 ≤ op ∧ op ≤ 0x77

/-- Only a lane major takes a prefix (R38). -/
theorem PfxFits.eq_none {p : OPfx} {op : Nat} (hp : PfxFits p op) (h : op / 16 = 0 ∨ 8 ≤ op / 16) : p = none :=
  hp.resolve_right (by omega)

theorem decodeBase_eq (p : OPfx) (w ow ew : Word) : decodeBase p w ow ew =
    if p.isSome && !(decide (0x10 ≤ opOf w) && decide (opOf w ≤ 0x77)) then .error .badPrefix
    else decodeMajor (opOf w) p w (ordOf ow) ew := rfl

theorem pfxFits_iff (p : OPfx) (op : Nat) : PfxFits p op ↔ (p.isSome && !(decide (0x10 ≤ op) && decide (op ≤ 0x77))) = false := by
  cases p <;> simp [PfxFits]

theorem decodeBase_of_fits {p : OPfx} {w : Word} (ow ew : Word) (hp : PfxFits p (opOf w)) :
    decodeBase p w ow ew = decodeMajor (opOf w) p w (ordOf ow) ew := by
  rw [decodeBase_eq, (pfxFits_iff _ _).mp hp]
  rfl

theorem decodeBase_ok {p : OPfx} {w ow ew : Word} {i : Instr} (h : decodeBase p w ow ew = .ok i) :
    PfxFits p (opOf w) ∧ decodeMajor (opOf w) p w (ordOf ow) ew = .ok i := by
  rw [decodeBase_eq] at h
  split at h
  · cases h
  · next hp => exact ⟨(pfxFits_iff _ _).mpr (Bool.not_eq_true _ ▸ hp), h⟩

/-- A prefix is read, or there is none; the base word follows. -/
theorem decodeWords_pw (p : OPfx) {w : Word} (rest : List Word) (h : opOf w ≠ 0x7F) :
    decodeWords (pw p ++ w :: rest) = decodeWords.decodeAt p w rest := by
  cases p with
  | none => exact if_neg h
  | some q => exact (if_pos (op_pfx q)).trans (by rw [pfxOf_word])

section
variable {p : OPfx} {v : Word} {op : Nat} {i : Instr} (hop : opOf v = op) (hp : PfxFits p op) (h7 : op ≠ 0x7F)
include hop hp h7

/-- An instruction of a base word alone decodes as its major reads the word (R32). -/
theorem decodes_ext0 (he : i.encode = pw p ++ [v]) (hn : extWords op = 0)
    (h : ∀ w, v = w → decodeMajor op p w (ordOf 0) 0 = .ok i) : decodeWords i.encode = .ok i := by
  subst hop
  rw [he, decodeWords_pw p _ h7, decodeWords.decodeAt.eq_def, ← opOf, hn]
  exact (decodeBase_of_fits _ _ hp).trans (h v rfl)

/-- An instruction of a base word and an ordering word (R32, R46). -/
theorem decodes_ext1 {o : Ord} (he : i.encode = pw p ++ [v, o.word]) (hn : extWords op = 1)
    (h : ∀ w, v = w → decodeMajor op p w o 0 = .ok i) : decodeWords i.encode = .ok i := by
  subst hop
  rw [he, decodeWords_pw p _ h7, decodeWords.decodeAt.eq_def, ← opOf, hn]
  exact (decodeBase_of_fits _ _ hp).trans (by rw [ordOf_word, h v rfl])

/-- An instruction of a base word, an ordering word and an engine word (R32, R50). -/
theorem decodes_ext2 {o : Ord} {u : Word} (he : i.encode = pw p ++ [v, o.word, u]) (hn : extWords op = 2)
    (h : ∀ w e, v = w → u = fld e 0 32 → decodeMajor op p w o e = .ok i) : decodeWords i.encode = .ok i := by
  subst hop
  rw [he, decodeWords_pw p _ h7, decodeWords.decodeAt.eq_def, ← opOf, hn]
  exact (decodeBase_of_fits _ _ hp).trans (by rw [ordOf_word, h v u rfl (fld_whole u).symm])

end

/-! ### A word and its fields -/

theorem append_inj {m n : Nat} {x x' : BitVec m} {y y' : BitVec n} : x ++ y = x' ++ y' ↔ x = x' ∧ y = y' := by
  refine ⟨fun h => ⟨?_, ?_⟩, fun ⟨hx, hy⟩ => by rw [hx, hy]⟩
  · have hf := congrArg (·.extractLsb' n m) h
    simpa only [fld_append_high _ _ le_rfl, Nat.sub_self, fld_whole] using hf
  · have hf := congrArg (·.extractLsb' 0 n) h
    simpa only [fld_append_low _ _ (Nat.zero_add n).le, fld_whole] using hf

/-- Two vectors side by side are a field when each is its part of it. The widths of an encoding's fields are numerals, which is why the sum
is no key of the simp lemma. -/
@[simp] theorem append_eq_fld {m n lo : Nat} (x : BitVec m) (y : BitVec n) (w : Word) :
    @Eq (BitVec (no_index (m + n))) (@HAppend.hAppend _ _ (BitVec (no_index (m + n))) _ x y) (fld w lo (no_index (m + n))) ↔
      x = fld w (lo + n) m ∧ y = fld w lo n := by
  rw [← append_inj, fld, fld, fld, BitVec.extractLsb'_append_extractLsb'_eq_extractLsb' rfl]

theorem fld_one (w : Word) (lo : Nat) : fld w lo 1 = b1 (bit w lo) := by
  ext i hi
  obtain rfl : i = 0 := by omega
  simp [fld, bit, b1]

@[simp] theorem b1_eq_fld (b : Bool) (w : Word) (lo : Nat) : b1 b = fld w lo 1 ↔ bit w lo = b := by
  rw [fld_one, eq_comm]
  exact ⟨fun h => by rw [← bit_b1 (bit w lo), h, bit_b1], congrArg b1⟩

/-- The parts of an encoding that are numbers stand on the right, as a decoder compares them. -/
@[simp] theorem ofNat_eq_fld_comm {n lo k : Nat} {w : Word} : BitVec.ofNat n k = fld w lo n ↔ fld w lo n = BitVec.ofNat n k := eq_comm

@[simp] theorem fld_eq_zero {w : Word} {lo : Nat} : fld w lo 1 = 0#1 ↔ bit w lo = false := eq_comm.trans (b1_eq_fld false w lo)

@[simp] theorem fld_eq_one {w : Word} {lo : Nat} : fld w lo 1 = 1#1 ↔ bit w lo = true := eq_comm.trans (b1_eq_fld true w lo)

theorem fld_ne_zero {w : Word} {lo n : Nat} (k : Nat) (hk : k < n) (h : bit w (lo + k) = true) : fld w lo n ≠ 0#n := fun h0 => by
  have hbit : (fld w lo n).getLsbD k = bit w (lo + k) := by simp only [fld, bit, BitVec.getLsbD_extractLsb', hk, decide_true, Bool.true_and]
  rw [h0, h, BitVec.getLsbD_zero] at hbit
  cases hbit

/-- A field is a number when its two parts are the number's. -/
theorem fld_eq_ofNat {m k lo n : Nat} {w : Word} : fld w lo (m + k) = BitVec.ofNat (m + k) n ↔
    fld w (lo + k) m = BitVec.ofNat m (n / 2 ^ k) ∧ fld w lo k = BitVec.ofNat k n := by
  have : BitVec.ofNat (m + k) n = BitVec.ofNat m (n / 2 ^ k) ++ BitVec.ofNat k n := by
    ext i hi
    simp only [← BitVec.getLsbD_eq_getElem, BitVec.getLsbD_append, BitVec.getLsbD_ofNat, Nat.testBit_div_two_pow]
    split
    · next h => simp only [h, hi]
    · next h => simp only [show i - k < m by omega, hi, Nat.sub_add_cancel (Nat.not_lt.mp h)]
  rw [this, eq_comm, append_eq_fld, eq_comm, @eq_comm _ _ (fld w lo k)]

/-- The codes ENG and OP of an engine word (R50). -/
theorem fld_eq_code {n : Nat} {e : Word} :
    fld e 24 8 = BitVec.ofNat 8 n ↔ fld e 28 4 = BitVec.ofNat 4 (n / 2 ^ 4) ∧ fld e 24 4 = BitVec.ofNat 4 n :=
  fld_eq_ofNat (m := 4) (k := 4)

/-- An engine word whose parameters are a number. -/
theorem fld_eq_engineWord {n : Nat} {e : Word} :
    fld e 0 32 = BitVec.ofNat 32 n ↔ fld e 24 8 = BitVec.ofNat 8 (n / 2 ^ 24) ∧ fld e 0 24 = BitVec.ofNat 24 n :=
  fld_eq_ofNat (m := 8) (k := 24)

/-- A word is its bits. -/
theorem eq_word {x w : Word} : x = w ↔ x = fld w 0 32 := by rw [fld, fld_whole]

/-- The first byte of a base word holds its major (R34). -/
theorem op_eq_fld {op : BitVec 8} {w : Word} : op = fld w 24 8 ↔ opOf w = op.toNat := by
  have : (fld w 24 8).toNat = opOf w := by
    have := w.isLt
    simp only [opOf, fld, BitVec.extractLsb'_toNat, Nat.shiftRight_eq_div_pow]
    omega
  rw [← BitVec.toNat_inj, this, eq_comm]

@[simp] theorem wA_eq {op d a b : BitVec 8} {w : Word} :
    wA op d a b = w ↔ opOf w = op.toNat ∧ d = fld w 16 8 ∧ a = fld w 8 8 ∧ b = fld w 0 8 := by
  rw [← op_eq_fld, eq_word, wA, append_eq_fld, append_eq_fld, append_eq_fld, and_assoc, and_assoc]

@[simp] theorem wI_eq {op d : BitVec 8} {imm : BitVec 16} {w : Word} :
    wI op d imm = w ↔ opOf w = op.toNat ∧ d = fld w 16 8 ∧ imm = fld w 0 16 := by
  rw [← op_eq_fld, eq_word, wI, append_eq_fld, append_eq_fld, and_assoc]

@[simp] theorem wB_eq {op : BitVec 8} {sel : BitVec 4} {off : BitVec 20} {w : Word} :
    wB op sel off = w ↔ opOf w = op.toNat ∧ sel = fld w 20 4 ∧ off = fld w 0 20 := by
  rw [← op_eq_fld, eq_word, wB, append_eq_fld, append_eq_fld, and_assoc]

/-- The prefix word holds nothing but its fields (R37). -/
theorem word_pfxOf {w : Word} (h : opOf w = 0x7F) : (pfxOf w).word = w := by
  have hop : 0x7F#8 = fld w 24 8 := op_eq_fld.mpr h
  rw [eq_word, Pfx.word]
  simp only [append_eq_fld, b1_eq_fld, pfxOf, hop, and_self]

/-- The ordering word holds nothing but its fields (R46). -/
@[simp] theorem word_ordOf (w : Word) : (ordOf w).word = w := by
  rw [eq_word, Ord.word]
  simp only [append_eq_fld, b1_eq_fld, ordOf, and_self]

/-! ### What each decoder reads encodes to the words it read -/

/-- The words of i are a prefix p, the base word w and its extension words. -/
structure Encodes (p : OPfx) (w : Word) (ext : List Word) (i : Instr) : Prop where
  encode : i.encode = pw p ++ w :: ext
  word : i.info.word = true
  pfx : i.info.pfx = p
  ext : i.info.ext = ext.length

/-- The encoding's own words need only be equal to these. -/
theorem Encodes.of {p : OPfx} {v w : Word} {x ext : List Word} {i : Instr} (he : i.encode = pw p ++ v :: x) (hi : i.info.word = true)
    (hp : i.info.pfx = p) (hn : i.info.ext = ext.length) (hv : v = w) (hx : x = ext) : Encodes p w ext i :=
  ⟨by rw [he, hv, hx], hi, hp, hn⟩

/-- EBND's destination depends on its form, its words do not. -/
theorem shape_ebnd (p : OPfx) (d a : Reg) (v : BitVec 2) :
    (Instr.ebnd p d a v).info.word = true ∧ (Instr.ebnd p d a v).info.pfx = p ∧ (Instr.ebnd p d a v).info.ext = 0 := by
  rw [info_ebnd]
  split <;> exact ⟨rfl, rfl, rfl⟩

section
variable {p : OPfx} {w ow ew : Word} {op : Nat} {i : Instr} (hw : opOf w = op)
include hw

/-! Each decoder's leaves are instructions of the word's own fields; what a leaf's conditions say of the other fields is what the encoding
has there. -/

theorem encodes_of_control (h : decodeControl op w = .ok i) : Encodes none w ([ow, ew].take (extWords op)) i := by
  simp only [decodeControl] at h
  repeat' split at h
  all_goals cases h
  all_goals exact .of rfl rfl rfl rfl (by simp_all [dOf, aOf, bOf]) rfl

theorem encodes_of_integer1 (h : decodeInteger1 op p w = .ok i) : Encodes p w ([ow, ew].take (extWords op)) i := by
  simp only [decodeInteger1, zero] at h
  repeat' split at h
  all_goals cases h
  all_goals exact .of rfl rfl rfl rfl (by simp_all [dOf, aOf, bOf]) rfl

theorem encodes_of_integer2 (h : decodeInteger2 op p w = .ok i) : Encodes p w ([ow, ew].take (extWords op)) i := by
  simp only [decodeInteger2, zero] at h
  repeat' split at h
  all_goals cases h
  all_goals exact .of rfl rfl rfl rfl (by simp_all [dOf, aOf, bOf]) rfl

theorem encodes_of_float (h : decodeFloat op p w = .ok i) : Encodes p w ([ow, ew].take (extWords op)) i := by
  simp only [decodeFloat, zero] at h
  repeat' split at h
  all_goals cases h
  all_goals exact .of rfl rfl rfl rfl (by simp_all [dOf, aOf, bOf]) rfl

theorem encodes_of_cross (h : decodeCross op p w = .ok i) : Encodes p w ([ow, ew].take (extWords op)) i := by
  simp only [decodeCross, zero, zeroBit] at h
  repeat' split at h
  all_goals cases h
  all_goals exact .of rfl rfl rfl rfl (by simp_all [dOf, aOf, bOf]) rfl

theorem encodes_of_uniform0 (h : decodeUniform0 op w = .ok i) : Encodes none w ([ow, ew].take (extWords op)) i := by
  simp only [decodeUniform0] at h
  repeat' split at h
  all_goals cases h
  all_goals exact .of rfl rfl rfl rfl (by simp_all [dOf, aOf, bOf]) rfl

theorem encodes_of_uniform1 (h : decodeUniform1 op w = .ok i) : Encodes none w ([ow, ew].take (extWords op)) i := by
  simp only [decodeUniform1] at h
  repeat' split at h
  all_goals cases h
  all_goals exact .of rfl rfl rfl rfl (by simp_all [dOf, aOf, bOf]) rfl

theorem encodes_of_memory (h : decodeMemory op p w (ordOf ow) = .ok i) : Encodes p w ([ow, ew].take (extWords op)) i := by
  simp only [decodeMemory, zero] at h
  repeat' split at h
  all_goals cases h
  all_goals exact .of rfl rfl rfl rfl (by simp_all [dOf, aOf]) (by simp [extWords, *])

theorem encodes_of_uniform6 (h : decodeUniform6 op w (ordOf ow) = .ok i) : Encodes none w ([ow, ew].take (extWords op)) i := by
  simp only [decodeUniform6] at h
  repeat' split at h
  all_goals cases h
  all_goals exact .of rfl rfl rfl rfl (by simp_all [dOf, aOf]) (by simp [extWords, *])

theorem encodes_of_engine (h : decodeEngine op p w (ordOf ow) ew = .ok i) : Encodes p w ([ow, fld ew 0 32].take (extWords op)) i := by
  simp only [decodeEngine] at h
  repeat' split at h
  all_goals cases h
  all_goals refine .of rfl rfl rfl rfl (by simp_all [dOf, aOf, bOf]) ?_
  all_goals simp_all [extWords, fld_eq_code, fld_eq_engineWord, -BitVec.reduceAppend]

theorem encodes_of_uniform3 (h : decodeUniform3 op w (ordOf ow) ew = .ok i) : Encodes none w ([ow, ew].take (extWords op)) i := by
  simp only [decodeUniform3] at h
  repeat' split at h
  all_goals cases h
  all_goals exact .of rfl rfl rfl rfl (by simp_all [dOf, aOf, bOf]) (by simp [extWords, *])

theorem encodes_of_uniform4 (h : decodeUniform4 op w (ordOf ow) = .ok i) : Encodes none w ([ow, ew].take (extWords op)) i := by
  simp only [decodeUniform4] at h
  repeat' split at h
  all_goals cases h
  all_goals exact .of rfl rfl rfl rfl (by simp_all [dOf, aOf, bOf]) (by simp [extWords, *])

theorem encodes_of_uniform5 (h : decodeUniform5 op w (ordOf ow) = .ok i) : Encodes none w ([ow, ew].take (extWords op)) i := by
  simp only [decodeUniform5] at h
  repeat' split at h
  all_goals cases h
  all_goals exact .of rfl rfl rfl rfl (by simp_all [dOf, aOf, bOf]) (by simp [extWords, *])

theorem encodes_of_uniform7 (h : decodeUniform7 op w (ordOf ow) = .ok i) : Encodes none w ([ow, ew].take (extWords op)) i := by
  simp only [decodeUniform7] at h
  repeat' split at h
  all_goals cases h
  all_goals exact .of rfl rfl rfl rfl (by simp_all [dOf, aOf, bOf]) (by simp [extWords, *])

theorem encodes_of_interval (h : decodeInterval op p w = .ok i) : Encodes p w ([ow, ew].take (extWords op)) i := by
  simp only [decodeInterval, zero] at h
  repeat' split at h
  all_goals cases h
  case h_12 =>
    obtain ⟨hi, hp, hn⟩ := shape_ebnd p (dOf w) (aOf w) (fld w 0 2)
    exact .of rfl hi hp hn (by simp_all [dOf, aOf]) rfl
  all_goals exact .of rfl rfl rfl rfl (by simp_all [dOf, aOf, bOf]) rfl

/-- Whatever a major's decoder reads encodes to the base word and the extension words its major has. -/
theorem encodes_of_major (hp : PfxFits p op) (h : decodeMajor op p w (ordOf ow) ew = .ok i) :
    Encodes p w ([ow, ew].take (extWords op)) i := by
  unfold decodeMajor at h
  split at h
  · next g => exact hp.eq_none (by omega) ▸ encodes_of_control hw h
  · exact encodes_of_integer1 hw h
  · exact encodes_of_integer2 hw h
  · exact encodes_of_float hw h
  · exact encodes_of_cross hw h
  · exact encodes_of_interval hw h
  · exact encodes_of_memory hw h
  · have he := encodes_of_engine hw h
    rwa [fld, fld_whole] at he
  · next g => exact hp.eq_none (by omega) ▸ encodes_of_uniform0 hw h
  · next g => exact hp.eq_none (by omega) ▸ encodes_of_uniform1 hw h
  · next g => exact hp.eq_none (by omega) ▸ encodes_of_uniform3 hw h
  · next g => exact hp.eq_none (by omega) ▸ encodes_of_uniform4 hw h
  · next g => exact hp.eq_none (by omega) ▸ encodes_of_uniform5 hw h
  · next g => exact hp.eq_none (by omega) ▸ encodes_of_uniform6 hw h
  · next g => exact hp.eq_none (by omega) ▸ encodes_of_uniform7 hw h
  · cases h
end

/-- A base word that is read with the words after it takes the first of them (R32). -/
theorem decodeAt_ok {p : OPfx} {w : Word} {ext : List Word} {i : Instr} (h : decodeWords.decodeAt p w ext = .ok i) :
    ∃ ow ew rest, ext = [ow, ew].take (extWords (opOf w)) ++ rest ∧ decodeBase p w ow ew = .ok i := by
  unfold decodeWords.decodeAt at h
  rw [← opOf] at h
  split at h
  · next hn => exact ⟨0, 0, _, by rw [hn]; rfl, h⟩
  · next ow rest hn => exact ⟨ow, 0, rest, by rw [hn]; rfl, h⟩
  · next ow ew rest hn => exact ⟨ow, ew, rest, by rw [hn]; rfl, h⟩
  · split at h <;> cases h

/-- Words that decode begin with a prefix or none, and a base word. -/
theorem decodeWords_ok {ws : List Word} {i : Instr} (h : decodeWords ws = .ok i) :
    ∃ p w ext, ws = pw p ++ w :: ext ∧ decodeWords.decodeAt p w ext = .ok i := by
  unfold decodeWords at h
  split at h
  · cases h
  · next v rest =>
    split at h
    · next hv =>
      split at h
      · cases h
      · next w ext => exact ⟨some (pfxOf v), w, ext, by rw [pw, word_pfxOf hv]; rfl, h⟩
    · exact ⟨none, v, rest, rfl, h⟩

/-- Words that decode are those of the instruction, and what follows them. -/
theorem encodes_of_decodeWords {ws : List Word} {i : Instr} (h : decodeWords ws = .ok i) :
    ∃ p w ext rest, Encodes p w ext i ∧ ws = i.encode ++ rest := by
  obtain ⟨p, w, ext, rfl, ha⟩ := decodeWords_ok h
  obtain ⟨ow, ew, rest, rfl, hb⟩ := decodeAt_ok ha
  obtain ⟨hp, hm⟩ := decodeBase_ok hb
  have he := encodes_of_major rfl hp hm
  exact ⟨p, w, _, rest, he, by rw [he.encode, List.append_assoc, List.cons_append]⟩

/-- The words of an instruction fill the bytes its length counts (R31). -/
theorem Encodes.length {p : OPfx} {w : Word} {ext : List Word} {i : Instr} (h : Encodes p w ext i) : 4 * i.encode.length = i.len := by
  rw [h.encode, Instr.len, h.pfx, h.ext]
  cases p <;> simp only [pw, List.length_append, List.length_cons, List.length_nil, Option.isSome_none, Option.isSome_some,
    if_true, Bool.false_eq_true, if_false] <;> omega

/-! ### An encoding decodes -/

/-- Every instruction word decodes from its own encoding, format by format (R34 to R36, R50): each field of its words reads back as the
decoder finds it. A BRU whose mask field is 15 has no mask (R87). -/
theorem decodeWords_encode (i : Instr) (hi : i.info.word = true) (hb : ∀ off, i ≠ .bruMask 15 off) : decodeWords i.encode = .ok i := by
  cases i
  case nop | ret | retPair q | jmpi q | calli q | calliLink d q | exit | vote k x v | join k | leave k | waitm k | mand k a b
    | mor k a b | mxor k a b | mandn k a b | mmovMM k a | mmovMG k a | mmovGM d a | yieldGang | sleep x | roleGet d | roleSet x
    | mpop d a v | uadd d a b | usub d a b | umul d a b | uand d a b | uor d a b | uxor d a b | ushl d a b | ushr d a b
    | tktw x y | tagw a any | tagf d a c | tagclr a | waity a m | swait sm n | claim n | claimTry d n | give n | cyield
    | tdone k act | qlen d q room | bflush x | bflushAll | slotq d v | slotr d | slotw x | rstat d a | trap n | eret | eretKill
    | iclock d a b | icunlk a b | brk n | dbgh a v =>
    exact decodes_ext0 (op_wA ..) (p := none) (.inl rfl) (by decide) rfl rfl fun w hw => by
      simp_all [decodeMajor, decodeControl, decodeUniform0, decodeUniform1, decodeUniform3, decodeUniform4, decodeUniform5,
        decodeUniform7, dOf, aOf, bOf]
  case bra off | brc k off | call off | bru off =>
    exact decodes_ext0 (op_wB ..) (p := none) (.inl rfl) (by decide) rfl rfl fun w hw => by
      simp_all [decodeMajor, decodeControl, decodeUniform0]
  case umovi d imm | umovh d imm | csrr d n | csrw x n =>
    exact decodes_ext0 (op_wI ..) (p := none) (.inl rfl) (by decide) rfl rfl fun w hw => by
      simp_all [decodeMajor, decodeUniform1, decodeUniform7, dOf]
  case barr bar o | barrPhase d bar o | barw x bar o | bars x bar o | tkt d x o | tktsNext x o | tktsSet x y o | rawait d a f o
    | rarel a o | rapub a o | spawn x a b o | mcst x a sz o | rchk d a o | resync a o | uldg d a sz o | ustg d a sz o
    | ulds d a sz o | usts d a sz o | uatom d a op wd sg sp o | ucas d a wd sp o | tlbiAll o | tlbiVa a o | keyld x a o
    | ctxsv a o | ctxld a o | qlk d x o | qul x o =>
    exact decodes_ext1 (op_wA ..) (p := none) (.inl rfl) (by decide) rfl rfl fun w hw => by
      simp_all [decodeMajor, decodeUniform3, decodeUniform4, decodeUniform5, decodeUniform6, decodeUniform7, dOf, aOf, bOf]
  case add p d a b | sub p d a b | addc p d a b | mul p d a b | mulh p d a b | mad p d a b | div p d a b | rem p d a b
    | min p d a b | max p d a b | abs p d a | and p d a b | or p d a b | xor p d a b | andn p d a b | shl p d a b | shr p d a b
    | fsh p d a b | bfx p d a b | bfi p d a b | popc p d a | clz p d a | ctz p d a | brev p d a | sel p d a b | cmpm p cc k a b
    | mov p d a | lea p d a b | fadd p d a b | fsub p d a b | fmul p d a b | ffma p d a b | fmin p d a b | fmax p d a b
    | fabs p d a | fneg p d a | fcmp p cc k a b | fcvt p d a b | fcvti p d a b | icvtf p d a b | fadd2 p d a b | fmul2 p d a b
    | ffma2 p d a b | fclass p d a | sfq p d a t fn | frnd p d a | fscl p d a b | fdiv p d a b | fsqrt p d a | shfi p d a wid f
    | shfu p d a wid f | shfd p d a wid f | shfx p d a wid f | cxs p d a rev lk lj | perm p d a b | scan p d a wid ex op
    | eadd p d a b | esub p d a b | emul p d a b | ediv p d a b | esqrt p d a | eneg p d a | esq p d a | efma p d a b
    | eleaf p d a | eleafi p d a | emov p d a v | ebnd p d a v | esever p d a v | ecmp p cc k a u | esgn p d a u | ewid p d a v =>
    exact decodes_ext0 (op_wA ..) (p := p) (.inr ⟨by decide, by decide⟩) (by decide) rfl rfl fun w hw => by
      simp_all [decodeMajor, decodeInteger1, decodeInteger2, decodeFloat, decodeCross, decodeInterval, dOf, aOf, bOf, zero,
        zeroBit]
  case movi p d imm | movh p d imm | addi p d imm | sfwait p m =>
    exact decodes_ext0 (op_wI ..) (p := p) (.inr ⟨by decide, by decide⟩) (by decide) rfl rfl fun w hw => by
      simp_all [decodeMajor, decodeInteger2, decodeCross, dOf, zero]
  case ldg p d a x o | stg p d a x o | lds p d a x o | sts p d a x o | ldp p d a x o | stp p d a x o | pfg p a l o
    | atom p d a op sp o | cas p d a sp o | cas128 p d a sp o | red p d a op sp o =>
    exact decodes_ext1 (op_wA ..) (p := p) (.inr ⟨by decide, by decide⟩) (by decide) rfl rfl fun w hw => by
      simp_all [decodeMajor, decodeMemory, dOf, aOf, zero]
  case accz p o acc | accrd p d o acc f fin | accwr p a o acc f | ctbl p a o | wcfg p a o | wsig p d a o f | wtest p d x c o n k
    | wskip p d x o v | wstep p o | wstepSet p x o | ioreq p a o =>
    exact decodes_ext2 (op_wA ..) (p := p) (.inr ⟨by decide, by decide⟩) (by decide) rfl rfl fun w e hw he => by
      simp_all [decodeMajor, decodeEngine, dOf, aOf, bOf, fld_eq_code, fld_eq_engineWord, -BitVec.reduceAppend]
  case mma p a b o e =>
    obtain ⟨acc, fmt, ca, cb, pa, pb, za, ctag, nt⟩ := e
    exact decodes_ext2 (op_wA ..) (p := p) (.inr ⟨by decide, by decide⟩) (by decide) rfl rfl fun w e hw he => by
      simp_all [decodeMajor, decodeEngine, dOf, aOf, bOf, fld_eq_code, -BitVec.reduceAppend]
  case qnt p d a o e | dqnt p d a o e =>
    obtain ⟨fmt, cmp, ori⟩ := e
    exact decodes_ext2 (op_wA ..) (p := p) (.inr ⟨by decide, by decide⟩) (by decide) rfl rfl fun w e hw he => by
      simp_all [decodeMajor, decodeEngine, dOf, aOf, bOf, fld_eq_code, -BitVec.reduceAppend]
  case nbrk p a o t | nbrr p a o t | siteh p a o t | rule p a o t | ruleSub p a o t | pgat p a o v t | psca p a o t =>
    obtain ⟨tag, nt⟩ := t
    exact decodes_ext2 (op_wA ..) (p := p) (.inr ⟨by decide, by decide⟩) (by decide) rfl rfl fun w e hw he => by
      simp_all [decodeMajor, decodeEngine, dOf, aOf, bOf, fld_eq_code, -BitVec.reduceAppend]
  case bruMask k off =>
    exact decodes_ext0 (op_wB ..) (p := none) (.inl rfl) (by decide) rfl rfl fun w hw => by
      simp_all [decodeMajor, decodeUniform0]
  case giveRole r n =>
    refine decodes_ext0 (op_wA ..) (p := none) (.inl rfl) (by decide) rfl rfl fun w hw => ?_
    simp only [wA_eq, append_eq_fld, ofNat_eq_fld_comm, fld_eq_one, fld_eq_zero] at hw
    obtain ⟨-, hd, ha, ⟨⟨h7, rfl⟩, h4⟩, rfl⟩ := hw
    have hne : fld w 4 4 ≠ 0#4 := fld_ne_zero 3 (by decide) h7
    simp_all [decodeMajor, decodeUniform4, dOf, aOf]
  case barge a o =>
    exact decodes_ext2 (op_wA ..) (p := none) (.inl rfl) (by decide) rfl rfl fun w e hw he => by
      rw [← eq_word] at he
      simp_all [decodeMajor, decodeUniform3, dOf, aOf, bOf]
  all_goals cases hi

theorem Instr.WellFormed.word {i : Instr} (h : i.WellFormed) : i.info.word = true := by
  simp only [Instr.WellFormed, Info.legal, Bool.and_eq_true, and_assoc] at h
  exact h.1

/-- Settles O30: the fields read back, and the words that decode fill the length. -/
theorem decodeEncode : Obligations.DecodeEncode := by
  intro i h
  have hd : decodeWords i.encode = .ok i := decodeWords_encode i h.word (by rintro off rfl; cases h)
  obtain ⟨p, w, ext, rest, he, -⟩ := encodes_of_decodeWords hd
  exact ⟨hd, he.length⟩

/-- Settles O31, by what each major's decoder accepts. -/
theorem encodeDecode : Obligations.EncodeDecode := by
  intro ws i h
  obtain ⟨p, w, ext, rest, he, rfl⟩ := encodes_of_decodeWords h
  exact ⟨List.take_left, he.word⟩

/-- Words that are an encoding decode to what they encode. -/
theorem reads_of_encode {i : Instr} {ws : List Word} (he : i.encode = ws) (hi : i.info.word = true) (hb : ∀ off, i ≠ .bruMask 15 off) :
    decodeWords ws = .ok i ∧ i.encode = ws :=
  ⟨he ▸ decodeWords_encode i hi hb, he⟩

/-- Settles O29: the lines encode to the words, and decode from them by O30's lemma. -/
theorem workedEncodings : Obligations.WorkedEncodings :=
  ⟨reads_of_encode (by decide) rfl nofun, reads_of_encode (by decide) rfl nofun, reads_of_encode (by decide) rfl nofun,
    reads_of_encode (by decide) rfl nofun, reads_of_encode rfl rfl nofun, reads_of_encode rfl rfl nofun⟩

end Sys2Proof
end

section
/-! PROOFS. What stands before an instruction's effect: its checks and its stalls, in their order (spec/02_formats.md R41, R57,
R64 to R66). -/

namespace Sys2Proof.Machine

/-! ### What issue does at each answer of its checks -/

theorem exec_of_gate_trap {i : Instr} {s : State} {u : Issue} {cause : Nat} (hw : i.info.word = true) (hu : s.issue = some u)
    (hg : s.gate i u = .trap cause) : exec i s = .next (s.trapAt u i.len cause 0 255) := by
  obtain ⟨eff, he⟩ := exec_word i s hw
  simp only [he, issueInstr, hu, hg]

theorem exec_of_gate_none {i : Instr} {s : State} {u : Issue} (hw : i.info.word = true) (hu : s.issue = some u)
    (hg : s.gate i u = .none_) : exec i s = .next (s.advance u (s.ctx i u).next) := by
  obtain ⟨eff, he⟩ := exec_word i s hw
  simp only [he, issueInstr, hu, hg]

theorem exec_of_gate_stall {i : Instr} {s : State} {u : Issue} (hw : i.info.word = true) (hu : s.issue = some u)
    (hg : s.gate i u = .stall) : exec i s = .next (s.noteStall i (s.ctx i u)) := by
  obtain ⟨eff, he⟩ := exec_word i s hw
  simp only [he, issueInstr, hu, hg]

/-- An instruction that may go but reads what a storage error has taken traps (R451). -/
theorem exec_of_readsStore {i : Instr} {s : State} {u : Issue} (hw : i.info.word = true) (hu : s.issue = some u)
    (hg : s.gate i u = .go) (hr : readsStore i u.err = true) : exec i s = .next (s.trapAt u i.len 0x1C u.err 255) := by
  obtain ⟨eff, he⟩ := exec_word i s hw
  simp only [he, issueInstr, hu, hg, hr, if_true]

/-- A change of a gang that leaves its crew leaves it whether or not the gang is there. -/
theorem State.crew_of_modGang (s : State) (gid : Nat) (f : Gang → Gang) (hf : ∀ g, (f g).crew = g.crew) :
    ((s.modGang gid f).gang gid).crew = (s.gang gid).crew := by
  by_cases h : (find s.gangs gid).isSome
  · rw [State.gang_modGang _ _ _ h, hf]
  · have hnone : find s.gangs gid = none := by simpa using h
    simp [State.gang, look_eq_find, find_alter, hnone]

/-! ### The checks, by name -/

/-- The checks once an instruction's words and allotments let it pass: an active lane, the queues' range, the stalls. -/
def State.laneGate (s : State) (i : Instr) (u : Issue) : Gate :=
  if (s.ctx i u).act = 0 ∧ isSfwait i = false then .none_
  else if queueRangeOk i (popcount (s.ctx i u).qlanes) = false then .trap 0x23
  else if s.unstalled i u = false then .stall
  else .go

/-- Whether an instruction completes at once without an active lane (R66). -/
def endsWithoutLanes (i : Instr) : Bool :=
  match i with
  | .sfwait .. => false
  | _ => true

theorem endsWithoutLanes_eq (i : Instr) : endsWithoutLanes i = !isSfwait i := by cases i <;> rfl

/-- Whether an instruction stalls, as the checks test it. -/
def State.stalls (s : State) (i : Instr) (u : Issue) : Bool :=
  !(s.queuesReady u.gang (popcount (s.ctx i u).qlanes) i && (s.destsFree u.gang i || badIv i (s.ctx i u))
      && s.streamRoom u.gang (s.ctx i u).act i)
    || specialStall i (s.ctx i u) s

theorem State.stalls_eq (s : State) (i : Instr) (u : Issue) : s.stalls i u = !s.unstalled i u := by
  simp only [State.stalls, State.unstalled, Bool.not_and, Bool.not_not]

theorem State.segOk_eq (s : State) (i : Instr) (u : Issue) :
    s.segOk i u = !(i.info.privileged && !s.segmentSys (s.layerOf u.gang) (s.viaOf (s.gang u.gang).crew) u.pc) := by
  simp [State.segOk]

theorem State.laneGate_eq (s : State) (i : Instr) (u : Issue) :
    s.laneGate i u =
      if decide ((s.ctx i u).act = 0) && endsWithoutLanes i then .none_
      else if !queueRangeOk i (popcount (s.ctx i u).qlanes) then .trap 0x23
      else if s.stalls i u then .stall
      else .go := by
  simp [State.laneGate, endsWithoutLanes_eq, State.stalls_eq]

/-- The checks in their order, by the names the statements give them. -/
theorem State.gate_eq (s : State) (i : Instr) (u : Issue) :
    s.gate i u =
      if !s.formOk i u then .trap 0x01
      else if !s.segOk i u then .trap 0x02
      else match s.levelBad i u with
        | some cause => .trap cause
        | none => if !s.allotOk i u then .trap 0x03 else s.laneGate i u := by
  rw [State.segOk_eq, Bool.not_not, State.laneGate_eq]
  unfold State.gate
  refine ite_congr rfl (fun _ => rfl) fun _ => ite_congr rfl (fun _ => rfl) fun _ => ?_
  split
  · next cause hlevel => rw [show s.levelBad i u = some cause from hlevel]
  · next hlevel =>
    rw [show s.levelBad i u = none from Option.eq_none_iff_forall_ne_some.mpr hlevel]
    rfl

theorem Passes.gate {i : Instr} {s : State} {u : Issue} (h : Passes i s u) : s.gate i u = s.laneGate i u := by
  simp [State.gate_eq, h.form, h.seg, h.level, h.allot]

/-- Settles O36: each clause is a branch of the checks in their order. -/
theorem wordChecks : Obligations.WordChecks := by
  intro i s u hw hu
  refine ⟨fun hform => ?_, fun hform hseg => ?_, fun cause hform hseg hlevel => ?_, fun hform hseg hlevel hallot => ?_⟩ <;>
    refine exec_of_gate_trap hw hu ?_
  · simp [State.gate_eq, hform]
  · simp [State.gate_eq, hform, hseg]
  · simp [State.gate_eq, hform, hseg, hlevel]
  · simp [State.gate_eq, hform, hseg, hlevel, hallot]

/-- Settles O38: past the words' checks the answer is that of `laneGate`, whose branches the clauses are. -/
theorem queuesAndStalls : Obligations.QueuesAndStalls := by
  intro i s u hp hact
  have hnot : ¬ ((s.ctx i u).act = 0 ∧ isSfwait i = false) := by
    rintro ⟨h0, hs⟩
    exact hact.elim (absurd h0) (by simp [hs])
  refine ⟨fun hdeep => ?_, fun hdeep hstall => ?_, fun hdeep hfree hread => ?_⟩
  · refine exec_of_gate_trap hp.word hp.atIssue ?_
    rw [hp.gate, State.laneGate, if_neg hnot, if_pos hdeep]
  · have h : exec i s = .next (s.noteStall i (s.ctx i u)) := by
      refine exec_of_gate_stall hp.word hp.atIssue ?_
      rw [hp.gate, State.laneGate, if_neg hnot, if_neg (by simp [hdeep]), if_pos hstall]
    refine ⟨h, fun hne => ?_⟩
    have : s.noteStall i (s.ctx i u) = s := by
      cases i <;> try rfl
      case waity a m => exact absurd rfl (hne a m)
    rw [h, this]
  · refine exec_of_readsStore hp.word hp.atIssue ?_ hread
    rw [hp.gate, State.laneGate, if_neg hnot, if_neg (by simp [hdeep]), if_neg (by simp [hfree])]

/-- Settles O37: without an active lane the checks answer that the run moves on. -/
theorem noActiveLane : Obligations.NoActiveLane := by
  intro i s u hp h0 hs
  rw [exec_of_gate_none hp.word hp.atIssue (by rw [hp.gate, State.laneGate, if_pos ⟨h0, hs⟩])]
  unfold State.advance
  dsimp only
  rw [State.crew_of_modGang]
  · rfl
  · exact fun _ => rfl

end Sys2Proof.Machine
end

section
/-! PROOFS. A step of a gang whose turn it is: the fetch of the run it offers, the decoding of its words, the traps and waits of a fetch that
fails (spec/02_formats.md R33, R39, R64, spec/03_control.md R77 to R80). -/

namespace Sys2Proof.Machine

/-- What a gang's issue cycle presents is what the step does: the agenda and the rotation lead to it. -/
theorem State.prepare_turns {s : State} {g err pc : Nat} {run : BitVec 32} (h : Turns s g err pc run)
    (exe : Instr → State → Out) (auto : State → Option (Instr × Choice)) :
    s.prepare exe auto = (s.turn g err).issueCycle exe g (errOf err) := by
  obtain ⟨q, rest, hagenda, hnext⟩ := h.next
  have hturn : s.turn g err = ((({ s.tick with agenda := rest, issue := none }).noteOffer g).errTurn g err).1 := by
    rw [State.turn, hagenda, List.tail_cons]
  have herr : ((({ s.tick with agenda := rest, issue := none }).noteOffer g).errTurn g err).2 = errOf err := by
    unfold State.errTurn errOf
    split <;> rfl
  unfold State.prepare
  simp only [h.awake, hagenda, State.gangTurn, hnext, hturn, herr]
  rfl

/-! ### The run that is offered -/

/-- The state in which the run of the turn is presented. -/
def State.ticked (s : State) (g : Nat) : State :=
  { (s.tickCounts g).modGang g (fun x => { x with offer := none }) with lastGang := g }

theorem State.ticked_gang (s : State) (g : Nat) (h : (find s.gangs g).isSome) :
    (s.ticked g).gang g = { (s.gang g).modLanes (s.runnable g) (fun t => { t with count := t.count + 1 }) with offer := none } := by
  have hfound : (find (s.tickCounts g).gangs g).isSome := by
    unfold State.tickCounts
    rw [State.modGang_gangs, find_alter_isSome]
    exact h
  have hgang : (s.tickCounts g).gang g = (s.gang g).modLanes (s.runnable g) (fun t => { t with count := t.count + 1 }) :=
    State.gang_modGang s g _ h
  unfold State.ticked
  rw [← hgang]
  exact State.gang_modGang _ _ _ hfound

theorem State.ticked_gang_absent (s : State) (g : Nat) (h : find s.gangs g = none) : (s.ticked g).gang g = s.gang g := by
  simp [State.ticked, State.tickCounts, State.modGang, State.gang, look_eq_find, find_alter, h]

theorem Gang.thread_modLanes_pc (x : Gang) (m : BitVec 32) (f : Thread → Thread) (hf : ∀ t, (f t).pc = t.pc) (l : Nat) :
    ((x.modLanes m f).thread l).pc = (x.thread l).pc := by
  simp only [Gang.thread, Gang.modLanes, List.getD_eq_getElem?_getD, List.getElem?_mapIdx]
  cases x.threads[l]? with
  | none => rfl
  | some t =>
    simp only [Option.map_some, Option.getD_some]
    split
    · exact hf t
    · rfl

/-- The count of a turn moves no program counter, and leaves the waits of the gang's fetches (R80, R448). -/
theorem State.ticked_keeps (s : State) (g : Nat) :
    (∀ l, (((s.ticked g).gang g).thread l).pc = ((s.gang g).thread l).pc) ∧
    ((s.ticked g).gang g).fetchWait = (s.gang g).fetchWait ∧
    ((s.gang g).offer = none → ((s.ticked g).gang g).offer = none) := by
  by_cases h : (find s.gangs g).isSome
  · rw [State.ticked_gang s g h]
    exact ⟨fun l => Gang.thread_modLanes_pc _ _ _ (fun t => (rfl : ({ t with count := t.count + 1 } : Thread).pc = t.pc)) l,
      rfl, fun _ => rfl⟩
  · rw [State.ticked_gang_absent s g (by simpa using h)]
    exact ⟨fun _ => rfl, rfl, id⟩

/-- The head run is that of the least program counter, which is a matter of the threads' program counters (R77). -/
theorem Gang.offered_eq {x y : Gang} (m : BitVec 32) (hx : x.offer = none) (hy : y.offer = none)
    (hpc : ∀ l, (y.thread l).pc = (x.thread l).pc) : y.offered m = x.offered m := by
  simp only [Gang.offered, hx, hy, hpc]

/-- The issue cycle of such a turn presents the run it offers. -/
theorem State.issueCycle_turns {s : State} {g err pc : Nat} {run : BitVec 32} (h : Turns s g err pc run) (exe : Instr → State → Out) :
    (s.turn g err).issueCycle exe g (errOf err) = ((s.turn g err).ticked g).present g (errOf err) run pc := by
  have hoffer : ((s.turn g err).gang g).offer = none := by
    have := h.ordinary
    simp only [Bool.or_eq_false_iff, Option.isSome_eq_false_iff, Option.isNone_iff_eq_none] at this
    exact this.2
  obtain ⟨hpc, -, hnone⟩ := State.ticked_keeps (s.turn g err) g
  have hhead : (((s.turn g err).ticked g).gang g).offered ((s.turn g err).runnable g) = pc := by
    rw [Gang.offered_eq _ hoffer (hnone hoffer) hpc, h.head]
  unfold State.ticked at hhead ⊢
  unfold State.issueCycle
  simp only [h.up, h.calm, h.some_, h.ordinary, Bool.not_true, Bool.false_eq_true, if_false, hhead, ← h.whole]

/-- No fetch of the run waits as it is presented. -/
theorem Turns.atFetch_free {s : State} {g err pc : Nat} {run : BitVec 32} (h : Turns s g err pc run) :
    ((s.atFetch g err pc run).gang g).fetchWait.any (·.1 == pc) = false := by
  obtain ⟨-, hwait, -⟩ := State.ticked_keeps (s.turn g err) g
  have hgang : (s.atFetch g err pc run).gang g = ((s.turn g err).ticked g).gang g := rfl
  rw [hgang, hwait, h.free]

/-! ### What the fetch comes to -/

/-- What a run that is offered comes to, by what its fetch finds. -/
def State.comesTo (t : State) (g err pc : Nat) (run : BitVec 32) : Fetch → Prep
  | .fault cause faddr true _ => .done (t.waitFault g pc cause faddr)
  | .fault cause faddr false got =>
    .done (t.trapAt { gang := g, run := run, pc := pc, pfx := (headWords got).1, insn := (headWords got).2 } 0 cause faddr 255)
  | .words ws =>
    match decodeWords ws with
    | .error _ => .done ((t.filled g pc ws).trapAt (issueOf g err pc run ws) (4 * ws.length) 0x01 0 255)
    | .ok i => .act i (t.fetched g err pc run ws)

theorem Turns.present_eq {s : State} {g err pc : Nat} {run : BitVec 32} (h : Turns s g err pc run) :
    ((s.turn g err).ticked g).present g (errOf err) run pc = (s.atFetch g err pc run).comesTo g err pc run (s.finds g err pc run) := by
  have hfree := h.atFetch_free
  generalize hf : s.finds g err pc run = found
  unfold State.finds State.atFetch at hf
  unfold State.atFetch at hfree
  unfold State.present State.ticked
  simp only [hfree, hf, Bool.false_eq_true, if_false]
  cases found with
  | fault cause faddr replay got => cases replay <;> rfl
  | words ws =>
    simp only [State.comesTo]
    cases decodeWords ws <;> rfl

/-- A step of a gang whose turn it is, from the fetch on. -/
theorem Turns.prepare_eq {s : State} {g err pc : Nat} {run : BitVec 32} (h : Turns s g err pc run) :
    s.prepare exec (State.autoAct exec) = (s.atFetch g err pc run).comesTo g err pc run (s.finds g err pc run) := by
  rw [State.prepare_turns h, State.issueCycle_turns h, h.present_eq]

theorem step_of_act {s t : State} {i : Instr} (h : s.prepare exec (State.autoAct exec) = .act i t) : step s = settled (exec i t) := by
  unfold step
  simp only [h]
  rfl

theorem step_of_done {s t : State} (h : s.prepare exec (State.autoAct exec) = .done t) : step s = .next t.afterAct := by
  simp only [step, h]

/-- Settles O32: the fetch finds the words, and the words decode. -/
theorem stepRunsDecoded : Obligations.StepRunsDecoded := by
  intro s g err pc run ws i h hf hd
  refine step_of_act ?_
  simp only [h.prepare_eq, hf, State.comesTo, hd]

/-- Settles O33: a fetch that fails, or finds words that do not decode, ends the turn. -/
theorem fetchFailures : Obligations.FetchFailures := by
  intro s g err pc run h
  refine ⟨fun ws r hf hd => ?_, fun cause faddr got hf => ?_, fun cause faddr got hf => ?_⟩ <;> refine step_of_done ?_
  · simp only [h.prepare_eq, hf, State.comesTo, hd]
  · simp only [h.prepare_eq, hf, State.comesTo]
  · simp only [h.prepare_eq, hf, State.comesTo]

end Sys2Proof.Machine
end

section
/-! PROOFS. The checks of an access's address, once for every space (spec/07_access.md R185, R186, R189). -/

namespace Sys2Proof.Machine

/-- The checks of R189 in a space of `limit` bytes whose range fault is `cause`. -/
def checkRange (cause : Nat) (ea : Int) (size : Nat) (limit : Int) : Option (Nat × Nat) :=
  if ea < 0 ∨ limit < ea + size then some (cause, trunc ea 64)
  else if ea % size ≠ 0 then some (0x12, trunc ea 64) else none

theorem checkGlobal_eq (ea : Int) (size : Nat) : checkGlobal ea size = checkRange 0x10 ea size (2 ^ 57) := rfl

theorem checkScratch_eq (ea : Int) (size limit : Nat) : checkScratch ea size limit = checkRange 0x11 ea size limit := rfl

/-- What the checks find of an access in a space of `limit` bytes. -/
def RangeRule (cause : Nat) (ea : Int) (size : Nat) (limit : Int) (bad : Option (Nat × Nat)) : Prop :=
  (bad = none ↔ 0 ≤ ea ∧ ea + size ≤ limit ∧ ea % size = 0) ∧
  ((ea < 0 ∨ limit < ea + size) → bad = some (cause, trunc ea 64)) ∧
  (0 ≤ ea → ea + size ≤ limit → ea % size ≠ 0 → bad = some (0x12, trunc ea 64))

theorem checkRange_rule (cause : Nat) (ea : Int) (size : Nat) (limit : Int) :
    RangeRule cause ea size limit (checkRange cause ea size limit) := by
  unfold RangeRule checkRange
  by_cases hrange : ea < 0 ∨ limit < ea + size
  · rw [if_pos hrange]
    refine ⟨⟨nofun, fun ⟨h0, h1, _⟩ => ?_⟩, fun _ => rfl, fun h0 h1 => ?_⟩ <;> omega
  · rw [if_neg hrange]
    obtain ⟨h0, h1⟩ : 0 ≤ ea ∧ ea + size ≤ limit := by omega
    by_cases halign : ea % size = 0
    · simp [h0, h1, hrange, halign]
    · simp [hrange, halign]

/-! ### The address of each space -/

theorem State.laneAddr_global (s : State) (crew base : Nat) (o : Ord) (size : Nat) :
    s.laneAddr crew 0 base o size =
      { ea := withOff base o size, crew := none, bad := checkRange 0x10 (withOff base o size) size (2 ^ 57) } := rfl

theorem State.laneAddr_own (s : State) (crew base : Nat) (o : Ord) (size : Nat) :
    s.laneAddr crew 1 base o size =
      { ea := withOff base o size, crew := some crew, bad := checkRange 0x11 (withOff base o size) size (s.partition crew) } := rfl

theorem State.laneAddr_peer_none (s : State) (crew space base : Nat) (o : Ord) (size : Nat) (h : s.peerCrew crew base = none) :
    s.laneAddr crew (space + 2) base o size =
      { ea := withOff (bits base 23 0) o size, crew := none, bad := some (0x11, base % 2 ^ 32) } := by
  simp only [State.laneAddr, h]

theorem State.laneAddr_peer (s : State) (crew space base k : Nat) (o : Ord) (size : Nat) (h : s.peerCrew crew base = some k) :
    s.laneAddr crew (space + 2) base o size =
      { ea := withOff (bits base 23 0) o size, crew := some k
        bad := checkRange 0x11 (withOff (bits base 23 0) o size) size (s.partition k) } := by
  simp only [State.laneAddr, h]
  rfl

/-- Settles O53: every space's checks are those of one range. -/
theorem addressRules : Obligations.AddressRules := by
  intro s crew space base o size _
  refine ⟨?_, ?_, ?_⟩
  · rintro rfl
    rw [State.laneAddr_global]
    exact ⟨rfl, rfl, checkRange_rule ..⟩
  · rintro rfl
    rw [State.laneAddr_own]
    exact ⟨rfl, rfl, checkRange_rule ..⟩
  · intro hpeer
    obtain ⟨n, rfl⟩ := Nat.exists_eq_add_of_le' hpeer
    cases h : s.peerCrew crew base with
    | none =>
      rw [State.laneAddr_peer_none _ _ _ _ _ _ h]
      exact ⟨rfl, fun _ => rfl, nofun⟩
    | some c =>
      rw [State.laneAddr_peer _ _ _ _ _ _ _ h]
      refine ⟨rfl, nofun, fun k hk => ?_⟩
      obtain rfl := Option.some.inj hk
      exact ⟨rfl, checkRange_rule ..⟩

end Sys2Proof.Machine
end

section
/-! PROOFS. The registers that an arithmetic interval instruction leaves (spec/02_formats.md R59, R60, spec/10_intervals.md R259, R276): the
caddy unit's work leaves the gangs, and each lane writes its own e register. -/

namespace Sys2Proof.Machine

/-! ### Allocation, reference counts and reclamation leave the gangs -/

@[simp] theorem State.modCaddy_gangs (s : State) (c : Nat) (f : Caddy → Caddy) : (s.modCaddy c f).gangs = s.gangs := rfl

@[simp] theorem State.retain_gangs (s : State) (c i : Nat) : (s.retain c i).gangs = s.gangs := State.modNode_gangs ..

@[simp] theorem State.release_gangs (s : State) (c i : Nat) : (s.release c i).gangs = s.gangs := State.modNode_gangs ..

@[simp] theorem State.freeNode_gangs (s : State) (c i : Nat) : (s.freeNode c i).gangs = s.gangs := rfl

@[simp] theorem State.spillWrite_gangs (s : State) (c i : Nat) : (s.spillWrite c i).gangs = s.gangs := by
  rw [State.spillWrite_rest]

/-- A fold of steps that leave the gangs leaves them. -/
theorem foldl_gangs {β : Type} (f : State → β → State) (hf : ∀ t b, (f t b).gangs = t.gangs) (l : List β) (s : State) :
    (l.foldl f s).gangs = s.gangs := by
  induction l generalizing s with
  | nil => rfl
  | cons b r ih => rw [List.foldl_cons, ih, hf]

@[simp] theorem State.releaseChildren_gangs (s : State) (c i : Nat) (children : List Nat) (lost : Bool) :
    (s.releaseChildren c i children lost).gangs = s.gangs := by
  unfold State.releaseChildren
  split
  · exact foldl_gangs _ (fun t j => State.freeNode_gangs t c j) _ _
  · exact foldl_gangs _ (fun t j => State.release_gangs t c j) _ _

@[simp] theorem State.reclaim_gangs (s : State) (c i : Nat) : (s.reclaim c i).gangs = s.gangs := by
  unfold State.reclaim
  split
  · rfl
  · split
    · rfl
    · dsimp only
      rw [State.releaseChildren_gangs]
      split <;> simp

@[simp] theorem State.alloc_gangs (s : State) (c : Nat) (n : Node) : (s.alloc c n).1.gangs = s.gangs := by
  unfold State.alloc
  dsimp only
  split
  · rfl
  · rw [foldl_gangs _ (fun t j => State.retain_gangs t c j), State.modCaddy_gangs]
    split
    · split
      · split
        · rename_i e
          rw [State.modCaddy_gangs, State.writeVa_rest e]
        · rfl
      · rfl
    · rfl

@[simp] theorem State.operandNode_gangs (s : State) (c : Nat) (x : IvSrc) : (s.operandNode c x).1.gangs = s.gangs := by
  unfold State.operandNode
  split
  · rfl
  · exact State.alloc_gangs ..

/-- The operands' nodes, added one after the other. -/
theorem operandNodes_gangs (c : Nat) (xs : List IvSrc) (acc : State × List Nat × Option VaFault) :
    (xs.foldl (fun acc x =>
      let n := acc.1.operandNode c x
      (n.1, acc.2.1 ++ [n.2.1], orFault acc.2.2 n.2.2)) acc).1.gangs = acc.1.gangs := by
  induction xs generalizing acc with
  | nil => rfl
  | cons x r ih => rw [List.foldl_cons, ih, State.operandNode_gangs]

@[simp] theorem State.opNode_gangs (s : State) (c op : Nat) (xs : List IvSrc) : (s.opNode c op xs).1.gangs = s.gangs := by
  unfold State.opNode
  dsimp only
  rw [foldl_gangs, State.alloc_gangs, operandNodes_gangs]
  intro t p
  split
  · rfl
  · exact State.release_gangs ..

/-! ### Reclamation leaves the words of the v registers -/

/-- Gang gid stands in t where it stands in s, and its v registers hold the same words. -/
structure KeepsV (gid : Nat) (s t : State) : Prop where
  found : (find t.gangs gid).isSome = (find s.gangs gid).isSome
  words : (t.gang gid).v = (s.gang gid).v

theorem KeepsV.of_gangs {gid : Nat} {s t : State} (h : t.gangs = s.gangs) : KeepsV gid s t := by
  constructor <;> simp only [State.gang, h]

theorem KeepsV.trans {gid : Nat} {s t w : State} (h : KeepsV gid s t) (k : KeepsV gid t w) : KeepsV gid s w :=
  ⟨k.found.trans h.found, k.words.trans h.words⟩

theorem KeepsV.vreg {gid : Nat} {s t : State} (h : KeepsV gid s t) (r l : Nat) : (t.gang gid).vreg r l = (s.gang gid).vreg r l := by
  simp only [Gang.vreg, h.words]

theorem KeepsV.modGang (gid : Nat) (s : State) (g : Nat) (f : Gang → Gang) (hf : ∀ x, (f x).v = x.v) :
    KeepsV gid s (s.modGang g f) := by
  refine ⟨find_alter_isSome _ _ _ _, ?_⟩
  simp only [State.gang, State.modGang_gangs, look_eq_find, find_alter]
  split
  · cases find s.gangs gid with
    | none => rfl
    | some x => exact hf x
  · rfl

theorem KeepsV.foldl {β : Type} {gid : Nat} (f : State → β → State) (hf : ∀ t b, KeepsV gid t (f t b)) (l : List β) (s : State) :
    KeepsV gid s (l.foldl f s) := by
  induction l generalizing s with
  | nil => exact .of_gangs rfl
  | cons b r ih => exact (hf s b).trans (ih _)

theorem KeepsV.releaseGone (gid : Nat) (s : State) (c : Nat) : KeepsV gid s (s.releaseGone c) := by
  refine KeepsV.foldl _ (fun t g => KeepsV.foldl _ (fun w p => ?_) _ _) _ _
  exact (KeepsV.modGang gid w g _ (by exact fun _ => rfl)).trans (.of_gangs (State.release_gangs ..))

theorem KeepsV.reclaimAll_go (gid c k : Nat) (s : State) : KeepsV gid s (State.reclaimAll.go c k s) := by
  induction k generalizing s with
  | zero => exact .of_gangs rfl
  | succ k ih =>
    unfold State.reclaimAll.go
    split
    · exact .of_gangs rfl
    · exact (KeepsV.of_gangs (State.reclaim_gangs ..)).trans (ih _)

theorem KeepsV.reclaimAll (gid : Nat) (s : State) (c : Nat) : KeepsV gid s (s.reclaimAll c) :=
  (KeepsV.releaseGone gid s c).trans (KeepsV.reclaimAll_go gid c _ _)

/-! ### An e register receives an interval with a reference -/

/-- The gang's part of `State.putE` (R60, R276). -/
def Gang.putE (g : Gang) (e l lo hi handle word : Nat) : Gang :=
  let g := ((((g.dropE e l).setV (4 * e) l lo).setV (4 * e + 1) l hi).setV (4 * e + 2) l handle).setV (4 * e + 3) l word
  { g with hv := put g.hv (32 * e + l) (tbit word 0) false }

theorem State.putE_found (s : State) (gid e l lo hi handle word j : Nat) :
    (find (s.putE gid e l lo hi handle word).gangs j).isSome = (find s.gangs j).isSome := by
  unfold State.putE
  rw [State.modGang_gangs, find_alter_isSome, State.releaseE_found]

theorem State.putE_gang (s : State) (gid e l lo hi handle word : Nat) (h : (find s.gangs gid).isSome) :
    (s.putE gid e l lo hi handle word).gang gid = (s.gang gid).putE e l lo hi handle word := by
  unfold State.putE
  rw [State.gang_modGang _ _ _ (by rw [State.releaseE_found]; exact h), State.releaseE_gang _ _ _ _ h]
  rfl

theorem Gang.vreg_putE (g : Gang) (e l lo hi handle word r j : Nat) (hl : l < 32) (hj : j < 32) :
    (g.putE e l lo hi handle word).vreg r j =
      if j = l ∧ r / 4 = e then
        (if r % 4 = 0 then lo else if r % 4 = 1 then hi else if r % 4 = 2 then handle else word) % 2 ^ 32
      else g.vreg r j := by
  show (((((g.dropE e l).setV (4 * e) l lo).setV (4 * e + 1) l hi).setV (4 * e + 2) l handle).setV (4 * e + 3) l word).vreg r j = _
  simp only [Gang.vreg_setV _ _ _ _ _ _ hl hj, Gang.vreg_dropE _ _ _ _ _ hl hj]
  by_cases hlane : j = l
  · simp only [hlane, and_true, true_and]
    by_cases hreg : r / 4 = e
    · rw [if_pos hreg]
      obtain h | h | h | h : r % 4 = 0 ∨ r % 4 = 1 ∨ r % 4 = 2 ∨ r % 4 = 3 := by omega
      · rw [if_neg (by omega), if_neg (by omega), if_neg (by omega), if_pos (by omega), if_pos h]
      · rw [if_neg (by omega), if_neg (by omega), if_pos (by omega), if_neg (by omega), if_pos h]
      · rw [if_neg (by omega), if_pos (by omega), if_neg (by omega), if_neg (by omega), if_pos h]
      · rw [if_pos (by omega), if_neg (by omega), if_neg (by omega), if_neg (by omega)]
    · rw [if_neg hreg, if_neg (by omega), if_neg (by omega), if_neg (by omega), if_neg (by omega), if_neg (by omega)]
  · simp [hlane]

theorem Gang.hvAt_putE (g : Gang) (e l lo hi handle word k j : Nat) (hl : l < 32) (hj : j < 32) :
    (g.putE e l lo hi handle word).hvAt k j = if j = l ∧ k = e then tbit word 0 else g.hvAt k j := by
  show look (put (g.dropE e l).hv (32 * e + l) (tbit word 0) false) (32 * k + j) false = _
  rw [look_put]
  by_cases h : j = l ∧ k = e
  · obtain ⟨rfl, rfl⟩ := h
    simp
  · rw [if_neg (by omega), if_neg h]
    have hother : (decide (e = k) && decide (l = j)) = false := by
      rw [← Bool.decide_and, decide_eq_false_iff_not]
      exact fun ⟨he, hlane⟩ => h ⟨hlane.symm, he.symm⟩
    have := Gang.hvAt_dropE g e l k j hl hj
    rwa [hother, Bool.not_false, Bool.and_true] at this

/-- A flag word's lowest bit is HV (R259): each other flag adds an even number. -/
theorem tbit_ivWord_zero (ex opq sqr dom : Bool) (lo hi : Nat) : tbit (ivWord ex opq sqr dom lo hi) 0 = true := by
  have heven (x : Bool) (k : Nat) (hk : k ≠ 0) : (if x = true then 2 ^ k else 0) % 2 = 0 := by
    cases x <;> simp [Nat.pow_mod, hk]
  have hex := heven ex 1 (by decide)
  have hopq := heven opq 2 (by decide)
  have hsqr := heven sqr 3 (by decide)
  have hdom := heven dom 4 (by decide)
  have hinf := heven (infBound lo || infBound hi) 5 (by decide)
  simp only [tbit, ivWord, Nat.pow_zero, Nat.div_one, beq_iff_eq]
  omega

/-! ### The lanes act one after the other -/

/-- What lane l adds to the lanes before it: nothing once one has met a fault. -/
def laneStep (act : State → Nat → State × Option VaFault) (a : State × Option VaFault) (l : Nat) : State × Option VaFault :=
  match a.2 with
  | some _ => a
  | none => act a.1 l

theorem runLanes_eq (ls : List Nat) (t : State) (act : State → Nat → State × Option VaFault) :
    runLanes ls t act = ls.foldl (laneStep act) (t, none) := rfl

theorem foldl_laneStep_fault (act : State → Nat → State × Option VaFault) (ls : List Nat) (t : State) (f : VaFault) :
    ls.foldl (laneStep act) (t, some f) = (t, some f) := by
  induction ls with
  | nil => rfl
  | cons l r ih => exact ih

/-- Lanes that end without a fault have all acted: the first, then the rest from the state it leaves. -/
theorem runLanes_cons {l : Nat} {ls : List Nat} {t : State} {act : State → Nat → State × Option VaFault}
    (h : (runLanes (l :: ls) t act).2 = none) : runLanes (l :: ls) t act = runLanes ls (act t l).1 act := by
  have hfirst : laneStep act (t, none) l = act t l := rfl
  rw [runLanes_eq, List.foldl_cons, hfirst] at h
  rw [runLanes_eq, runLanes_eq, List.foldl_cons, hfirst]
  cases hact : act t l with | mk w found
  rw [hact] at h
  cases found with
  | none => rfl
  | some f => rw [foldl_laneStep_fault] at h; cases h

section
variable (c : Ctx) (d : Reg) (op n : Nat)

theorem Ctx.ivLane_found (t : State) (l j : Nat) :
    (find (c.ivLane d op n t l).1.gangs j).isSome = (find t.gangs j).isSome := by
  unfold Ctx.ivLane
  rw [State.putE_found, State.opNode_gangs]

/-- A lane writes its own e register and nothing else of the gang. -/
theorem Ctx.ivLane_gang (t : State) (l : Nat) (h : (find t.gangs c.gid).isSome) :
    ∃ handle, (c.ivLane d op n t l).1.gang c.gid =
      (t.gang c.gid).putE (d.toNat / 4) l (c.ivResult op n l).lo (c.ivResult op n l).hi handle (c.ivFlags op n l) := by
  have hgangs := State.opNode_gangs t c.crewId op (c.ivs n l)
  have hgang : (t.opNode c.crewId op (c.ivs n l)).1.gang c.gid = t.gang c.gid := by rw [State.gang, hgangs]; rfl
  unfold Ctx.ivLane
  exact ⟨_, by rw [State.putE_gang _ _ _ _ _ _ _ _ (by rw [hgangs]; exact h), hgang]⟩

/-- Lane l of the destination holds its operator's bounds and flag word, with a reference. -/
def Ctx.IvHeld (g : Gang) (l : Nat) : Prop :=
  g.vreg d.toNat l = (c.ivResult op n l).lo % 2 ^ 32 ∧ g.vreg (d.toNat + 1) l = (c.ivResult op n l).hi % 2 ^ 32 ∧
    g.vreg (d.toNat + 3) l = c.ivFlags op n l % 2 ^ 32 ∧ g.hvAt (d.toNat / 4) l = true

theorem Ctx.ivHeld_putE (g : Gang) (l handle : Nat) (hd : d.toNat % 4 = 0) (hl : l < 32) :
    c.IvHeld d op n (g.putE (d.toNat / 4) l (c.ivResult op n l).lo (c.ivResult op n l).hi handle (c.ivFlags op n l)) l := by
  refine ⟨?_, ?_, ?_, ?_⟩
  · rw [Gang.vreg_putE _ _ _ _ _ _ _ _ _ hl hl, if_pos ⟨rfl, rfl⟩, if_pos hd]
  · rw [Gang.vreg_putE _ _ _ _ _ _ _ _ _ hl hl, if_pos ⟨rfl, by omega⟩, if_neg (by omega), if_pos (by omega)]
  · rw [Gang.vreg_putE _ _ _ _ _ _ _ _ _ hl hl, if_pos ⟨rfl, by omega⟩, if_neg (by omega), if_neg (by omega), if_neg (by omega)]
  · rw [Gang.hvAt_putE _ _ _ _ _ _ _ _ _ hl hl, if_pos ⟨rfl, rfl⟩]
    exact tbit_ivWord_zero ..

/-- What the lanes of `ls` make of gang g: their e registers hold their results, every other register keeps its words, every other lane
its references. -/
structure Ctx.IvRun (ls : List Nat) (g g' : Gang) : Prop where
  held : ∀ l ∈ ls, c.IvHeld d op n g' l
  words : ∀ r l, l < 32 → l ∉ ls ∨ r / 4 ≠ d.toNat / 4 → g'.vreg r l = g.vreg r l
  refs : ∀ k l, l < 32 → l ∉ ls → g'.hvAt k l = g.hvAt k l

theorem Ctx.ivRun_cons {l : Nat} {ls : List Nat} {g g' : Gang} (handle : Nat) (hd : d.toNat % 4 = 0) (hl : l < 32) (hnew : l ∉ ls)
    (h : c.IvRun d op n ls (g.putE (d.toNat / 4) l (c.ivResult op n l).lo (c.ivResult op n l).hi handle (c.ivFlags op n l)) g') :
    c.IvRun d op n (l :: ls) g g' where
  held := by
    intro k hk
    obtain rfl | hk := List.mem_cons.mp hk
    · obtain ⟨hlo, hhi, hflags, href⟩ := c.ivHeld_putE d op n g k handle hd hl
      rw [Ctx.IvHeld, h.words _ _ hl (.inl hnew), h.words _ _ hl (.inl hnew), h.words _ _ hl (.inl hnew), h.refs _ _ hl hnew]
      exact ⟨hlo, hhi, hflags, href⟩
    · exact h.held k hk
  words := by
    intro r k hk hother
    rw [h.words r k hk (hother.imp_left fun hn hm => hn (List.mem_cons_of_mem _ hm)), Gang.vreg_putE _ _ _ _ _ _ _ _ _ hl hk, if_neg]
    rintro ⟨rfl, hr⟩
    exact hother.elim (fun hn => hn (List.mem_cons_self ..)) fun hne => hne hr
  refs := by
    intro k j hj hn
    rw [h.refs k j hj fun hm => hn (List.mem_cons_of_mem _ hm), Gang.hvAt_putE _ _ _ _ _ _ _ _ _ hl hj, if_neg]
    rintro ⟨rfl, -⟩
    exact hn (List.mem_cons_self ..)

theorem Ctx.ivRun_runLanes (hd : d.toNat % 4 = 0) (ls : List Nat) (hnodup : ls.Nodup) (hlt : ∀ l ∈ ls, l < 32) (t : State)
    (hfound : (find t.gangs c.gid).isSome) (hdone : (runLanes ls t (c.ivLane d op n)).2 = none) :
    c.IvRun d op n ls (t.gang c.gid) ((runLanes ls t (c.ivLane d op n)).1.gang c.gid) := by
  induction ls generalizing t with
  | nil => exact ⟨nofun, fun _ _ _ _ => rfl, fun _ _ _ _ => rfl⟩
  | cons l ls ih =>
    obtain ⟨hnew, hrest⟩ := List.nodup_cons.mp hnodup
    obtain ⟨handle, hgang⟩ := c.ivLane_gang d op n t l hfound
    have hcons := runLanes_cons hdone
    rw [hcons] at hdone ⊢
    have h := ih hrest (fun k hk => hlt k (List.mem_cons_of_mem _ hk)) _ ((c.ivLane_found d op n t l _).trans hfound) hdone
    rw [hgang] at h
    exact c.ivRun_cons d op n handle hd (hlt l (List.mem_cons_self ..)) hnew h

end

/-! ### The destination is a whole e register -/

theorem dst_mem_of_intervalOf {i : Instr} {d : Reg} {op n : Nat} (hi : intervalOf i = some (d, op, n)) :
    dst d 4 191 ∈ i.info.opnds := by
  unfold intervalOf at hi
  split at hi <;> cases hi <;> exact List.mem_append_right _ (List.mem_singleton_self _)

/-- A legal destination of an interval lies at a multiple of four (R59). -/
theorem intervalOf_dst_aligned {i : Instr} {d : Reg} {op n : Nat} (hi : intervalOf i = some (d, op, n)) (hlegal : i.info.legal = true) :
    d.toNat % 4 = 0 := by
  have hops : i.info.opnds.all Opnd.ok = true := (Bool.and_eq_true_iff.mp hlegal).2
  have hd : (decide (d.toNat ≤ 191) && (decide (224 ≤ d.toNat) || d.toNat % 4 == 0)) = true :=
    List.all_eq_true.mp hops _ (dst_mem_of_intervalOf hi)
  simp only [Bool.and_eq_true, Bool.or_eq_true, decide_eq_true_eq, beq_iff_eq] at hd
  omega

/-- Settles O19: reclamation leaves the v registers, and each lane writes its own destination. -/
theorem intervalValues : Obligations.IntervalValues := by
  intro i s u d op n h hi c t hdone
  have hkeep : KeepsV u.gang (s.issued i u) ((s.issued i u).reclaimAll c.crewId) := KeepsV.reclaimAll ..
  have hfound : (find ((s.issued i u).reclaimAll c.crewId).gangs c.gid).isSome := by
    rw [show c.gid = u.gang from rfl, hkeep.found, h.issued_found]
    exact h.gang
  have hrun := c.ivRun_runLanes d op n (intervalOf_dst_aligned hi h.legal) (lanes c.act) (lanes_nodup _)
    (fun l hl => hasLane_lt ((mem_lanes _ _).mp hl)) _ hfound hdone
  refine ⟨fun l hl => hrun.held l ((mem_lanes _ _).mpr hl), fun r l _ hl hother => ?_⟩
  have hnot : l ∉ lanes c.act ∨ r / 4 ≠ d.toNat / 4 := hother.imp_left fun hout hin => by
    rw [(mem_lanes _ _).mp hin] at hout
    cases hout
  calc (t.gang u.gang).vreg r l
      = (((s.issued i u).reclaimAll c.crewId).gang u.gang).vreg r l := hrun.words r l hl hnot
    _ = ((s.issued i u).gang u.gang).vreg r l := hkeep.vreg r l
    _ = (s.gang u.gang).vreg r l := by rw [h.issued_gang]; rfl

end Sys2Proof.Machine
end

section
/-! PROOFS. Branches, calls and returns, mask writers, and waits (spec/03_control.md R79, R88 to R91, R93 to R102,
spec/04_integer.md R118, spec/05_float.md R139, R150): at issue, each is one move of its run or one change of its gang. -/

namespace Sys2Proof.Machine

/-! ### The run's targets and return stacks -/

theorem Ctx.badTargets_iff (c : Ctx) : c.badTargets = true ↔ ∃ l, hasLane c.run l = true ∧ badTarget (c.val 0 l) = true := by
  simp only [Ctx.badTargets, List.any_eq_true, mem_lanes]

theorem Ctx.anyDepth_iff (c : Ctx) (n : Nat) :
    c.anyDepth n = true ↔ ∃ l, hasLane c.run l = true ∧ (c.gang.thread l).stack.length = n := by
  simp only [Ctx.anyDepth, List.any_eq_true, mem_lanes, beq_iff_eq]

theorem State.not_badTargets {i : Instr} {s : State} {u : Issue}
    (h : ∀ l, hasLane u.run l = true → badTarget ((s.ctx i u).val 0 l) = false) : ¬ (s.ctx i u).badTargets = true := by
  rw [Ctx.badTargets_iff]
  rintro ⟨l, hl, hbad⟩
  rw [h l hl] at hbad
  cases hbad

theorem State.not_anyDepth {i : Instr} {s : State} {u : Issue} {n : Nat}
    (h : ∀ l, hasLane u.run l = true → ((s.gang u.gang).thread l).stack.length ≠ n) : ¬ (s.ctx i u).anyDepth n = true := by
  rw [Ctx.anyDepth_iff]
  rintro ⟨l, hl, hn⟩
  exact h l hl hn

/-! ### What an effect at issue comes to -/

section
variable {i : Instr} {s : State} {u : Issue} (h : Ready i s u) {eff : Ctx → State → Effect} (hx : exec i s = issueInstr i s eff)
include h hx

/-- An effect that traps is the instruction's only one (R428). -/
theorem Ready.exec_trap {cause : Nat} (he : eff (s.ctx i u) (s.issued i u) = .trap cause 0 255) :
    exec i s = .next (s.trapAt u i.len cause 0 255) := by
  rw [hx, h.issue, he]
  rfl

/-- An effect that succeeds leaves its state. -/
theorem Ready.exec_ok {t : State} (he : eff (s.ctx i u) (s.issued i u) = .ok t) : exec i s = .next t := by
  rw [hx, h.issue, he]

/-- An effect that moves the threads of the run is one move of them, their advance included (R79). -/
theorem Ready.exec_jump (g : Nat → Thread → Thread)
    (he : eff (s.ctx i u) (s.issued i u) = .ok ((s.issued i u).modLanes u.gang u.run g)) :
    ∃ t, exec i s = .next t ∧ Quiet s i u (fun _ => []) t ∧ GangIs s u (s.ran u fun l th => g l { th with pc := (s.ctx i u).next }) t :=
  ⟨_, h.exec_ok hx he, h.jumped g⟩

/-- An effect that writes a mask releases what waits on it, and does nothing else (R85, R95). -/
theorem Ready.exec_writeMask (k : Nat) (v : BitVec 32)
    (he : eff (s.ctx i u) (s.issued i u) = .ok ((s.issued i u).modGang u.gang fun g => g.writeMask k v)) :
    ∃ t, exec i s = .next t ∧ Quiet s i u (fun _ => []) t ∧ GangIs s u ((s.moved i u).writeMask k v) t :=
  ⟨_, h.exec_ok hx he, h.masked k v⟩

/-- An effect that changes its gang's own fields. -/
theorem Ready.exec_change {φ : Gang → Gang} (hφ : Moves φ) (hk : ∀ g, (φ g).v = g.v ∧ (φ g).hv = g.hv ∧ (φ g).g = g.g)
    (hc : ∀ g, (φ g).crew = g.crew) (hq : ∀ g, (φ g).q24 = g.q24)
    (he : eff (s.ctx i u) (s.issued i u) = .ok ((s.issued i u).modGang u.gang φ)) :
    ∃ t, exec i s = .next t ∧ Quiet s i u (fun _ => []) t ∧ GangIs s u (φ (s.moved i u)) t :=
  ⟨_, h.exec_ok hx he, h.changed hφ hk hc hq⟩

/-- An effect that leaves the state past the issue: the run has moved on. -/
theorem Ready.exec_advance (he : eff (s.ctx i u) (s.issued i u) = .ok (s.issued i u)) :
    ∃ t, exec i s = .next t ∧ Quiet s i u (fun _ => []) t ∧ GangIs s u (s.moved i u) t :=
  ⟨_, h.exec_ok hx he, h.unchanged⟩

end

/-! ### Branches -/

/-- Settles O5: each branch is one move of its run, an indirect one past the check of its targets. -/
theorem branchesMove : Obligations.BranchesMove := by
  intro i s u f h hf hbad
  cases i
  case nop => cases hf; exact h.exec_advance (exec_nop s) rfl
  case bra off => cases hf; exact h.exec_jump (exec_bra off s) _ rfl
  case brc k off => cases hf; exact h.exec_jump (exec_brc k off s) _ rfl
  case bru off => cases hf; exact h.exec_jump (exec_bru off s) _ rfl
  case bruMask k off =>
    cases hf
    refine h.exec_jump (exec_bruMask k off s)
      (fun _ th => { th with pc := if (s.ctx (.bruMask k off) u).gang.mask k.toNat &&& (s.ctx (.bruMask k off) u).run = 0
        then (s.ctx (.bruMask k off) u).next else branchTarget (s.ctx (.bruMask k off) u).pc off }) ?_
    simp only [Ctx.jump, bne_iff_ne, ne_eq, ite_not]
    rfl
  case jmpi p => cases hf; exact h.exec_jump (exec_jmpi p s) _ (if_neg (State.not_badTargets (hbad rfl)))
  case retPair p => cases hf; exact h.exec_jump (exec_retPair p s) _ (if_neg (State.not_badTargets (hbad rfl)))
  all_goals exact nomatch hf

/-! ### Calls and returns -/

/-- A result keeps the set of gangs. -/
theorem Ctx.write_found (c : Ctx) (s : State) (d n : Nat) (f : Nat → Nat) (j : Nat) (h : (find s.gangs c.gid).isSome) :
    (find (c.write s d n f).gangs j).isSome = (find s.gangs j).isSome := by
  by_cases hv : d < 192
  · exact (c.write_regWrite s d n f hv h).found j
  by_cases hg : d < 224
  · rw [c.write_g s d n f (by omega) hg, State.modGang_gangs, find_alter_isSome]
  · rw [c.write_q s d n f (by omega)]
    exact (State.setQueue_move ..).gangFound j

/-- A link is a result, and then a move of the run (R90). -/
theorem Ready.linked {i : Instr} {s : State} {u : Issue} (h : Ready i s u) (d n : Nat) (f : Nat → Nat)
    (hd : ∃ o ∈ i.info.opnds, o.reg.toNat = d) (g : Nat → Thread → Thread) :
    Gave s i u d n f (s.ran u fun l th => g l { th with pc := (s.ctx i u).next })
      (((s.ctx i u).write (s.issued i u) d n f).modLanes u.gang u.run g) := by
  have hfound : (find (s.issued i u).gangs u.gang).isSome = true := by rw [h.issued_found]; exact h.gang
  have hwritten : (find ((s.ctx i u).write (s.issued i u) d n f).gangs u.gang).isSome = true := by
    rw [Ctx.write_found _ _ _ _ _ _ hfound]
    exact hfound
  have hmove := (h.wrote d n f hd).move hwritten (Gang.moveLanes_moves u.run g) rfl
  rw [State.moved, State.moveLanes_ran] at hmove
  exact hmove

/-- Settles O6: past its checks each call and return is one move of its run; a link is written first. -/
theorem callsAndReturns : Obligations.CallsAndReturns := by
  refine ⟨?stack, ?link⟩
  case stack =>
    intro i s u f n h hf hn hdepth hbad
    cases i
    case call off => cases hf; cases hn; exact h.exec_jump (exec_call off s) _ (if_neg (State.not_anyDepth hdepth))
    case calli p =>
      cases hf
      cases hn
      exact h.exec_jump (exec_calli p s) _
        ((if_neg (State.not_badTargets (hbad rfl))).trans (if_neg (State.not_anyDepth hdepth)))
    case ret => cases hf; cases hn; exact h.exec_jump (exec_ret s) _ (if_neg (State.not_anyDepth hdepth))
    all_goals exact nomatch hf
  case link =>
    intro d p s u h hbad
    exact ⟨_, h.exec_ok (exec_calliLink d p s) (if_neg (State.not_badTargets hbad)),
      h.linked d.toNat 2 _ ⟨dst d 2 191, List.mem_cons_of_mem _ (List.mem_cons_self ..), rfl⟩
        fun l th => { th with pc := (s.ctx (.calliLink d p) u).val 0 l }⟩

/-- Settles O7: the targets are checked before the stacks, and a check that fails is all there is. -/
theorem controlTraps : Obligations.ControlTraps := by
  intro i s u h
  refine ⟨fun hi hbad => ?target, fun n hn hfull hgood => ?depth⟩
  case target =>
    have hc : (s.ctx i u).badTargets = true := (Ctx.badTargets_iff _).mpr hbad
    cases i
    case jmpi p => exact h.exec_trap (exec_jmpi p s) (if_pos hc)
    case retPair p => exact h.exec_trap (exec_retPair p s) (if_pos hc)
    case calli p => exact h.exec_trap (exec_calli p s) (if_pos hc)
    case calliLink d p => exact h.exec_trap (exec_calliLink d p s) (if_pos hc)
    all_goals exact nomatch hi
  case depth =>
    have hc : (s.ctx i u).anyDepth n = true := (Ctx.anyDepth_iff _ n).mpr hfull
    cases i
    case call off => cases hn; exact h.exec_trap (exec_call off s) (if_pos hc)
    case calli p => cases hn; exact h.exec_trap (exec_calli p s) ((if_neg (State.not_badTargets (hgood rfl))).trans (if_pos hc))
    case ret => cases hn; exact h.exec_trap (exec_ret s) (if_pos hc)
    all_goals exact nomatch hn

/-! ### Masks -/

/-- Bits of some lanes written are a mask written (R99, R118). -/
theorem Ready.exec_writeLanes {i : Instr} {s : State} {u : Issue} (h : Ready i s u) {eff : Ctx → State → Effect}
    (hx : exec i s = issueInstr i s eff) (k : Nat) (f : Nat → Bool)
    (he : eff (s.ctx i u) (s.issued i u) = .ok ((s.issued i u).writeMaskLanes u.gang k (s.ctx i u).act f)) :
    ∃ t, exec i s = .next t ∧ Quiet s i u (fun _ => []) t ∧ GangIs s u ((s.moved i u).writeMask k ((s.ctx i u).maskWith k f)) t :=
  h.exec_writeMask hx k _ (he.trans (congrArg Effect.ok (h.writeMaskLanes k _ f)))

/-- Settles O8, writer by writer: the bits of the active lanes, or the whole mask. -/
theorem maskResults : Obligations.MaskResults := by
  intro i s u k v h hm
  cases i
  case cmpm p cc k a b =>
    cases hm
    exact h.exec_writeLanes (eff := fun c t => .ok (t.writeMaskLanes c.gid k.toNat c.act fun l =>
      icond cc.toNat (extT (effType p 3) (c.val 0 l)) (extT (effType p 3) (c.val 1 l)))) (exec_cmpm p cc k a b s) _ _ rfl
  case fcmp p cc k a b =>
    cases hm
    exact h.exec_writeLanes (eff := fun c t => .ok (t.writeMaskLanes c.gid k.toNat c.act fun l =>
      fcond (fmtOf p) c.ftz cc.toNat (c.fval (fmtOf p) 0 l) (c.fval (fmtOf p) 1 l))) (exec_fcmp p cc k a b s) _ _ rfl
  case vote k x v => cases hm; exact h.exec_writeLanes (exec_vote k x v s) _ _ rfl
  case join k => cases hm; exact h.exec_writeMask (exec_join k s) _ _ rfl
  case leave k => cases hm; exact h.exec_writeMask (exec_leave k s) _ _ rfl
  case mand k a b => cases hm; exact h.exec_writeMask (exec_mand k a b s) _ _ rfl
  case mor k a b => cases hm; exact h.exec_writeMask (exec_mor k a b s) _ _ rfl
  case mxor k a b => cases hm; exact h.exec_writeMask (exec_mxor k a b s) _ _ rfl
  case mandn k a b => cases hm; exact h.exec_writeMask (exec_mandn k a b s) _ _ rfl
  case mmovMM k a => cases hm; exact h.exec_writeMask (exec_mmovMM k a s) _ _ rfl
  case mmovMG k a => cases hm; exact h.exec_writeMask (exec_mmovMG k a s) _ _ rfl
  all_goals exact nomatch hm

/-! ### Waits, sleeps and roles -/

/-- Members of a group stand at their WAITM at pc, and the group is released where all of it waits (R94, R95). -/
def Gang.standAt (m : BitVec 32) (k pc : Nat) (g : Gang) : Gang := (g.moveLanes m fun _ t => { t with wait := .waitm k, pc := pc }).release k

theorem Gang.standAt_moves (m : BitVec 32) (k pc : Nat) : Moves (Gang.standAt m k pc) :=
  (Gang.moveLanes_moves m _).comp (Gang.release_moves k)

theorem Gang.standAt_rest (m : BitVec 32) (k pc : Nat) (g : Gang) :
    g.standAt m k pc = { g with threads := (g.standAt m k pc).threads } := Gang.release_rest _ k

theorem State.modGang_modGang (s : State) (gid : Nat) (f g : Gang → Gang) :
    (s.modGang gid f).modGang gid g = s.modGang gid fun x => g (f x) := by
  simp only [State.modGang, alter_alter]

/-- WAITM: the run's live members of the group stand where they were, the others have moved on. -/
theorem Ready.exec_waitm {s : State} {u : Issue} {k : BitVec 8} (h : Ready (.waitm k) s u) :
    ∃ t, exec (.waitm k) s = .next t ∧ Quiet s (.waitm k) u (fun _ => []) t ∧
      GangIs s u ((s.moved (.waitm k) u).standAt (u.run &&& (s.gang u.gang).mask k.toNat &&& (s.gang u.gang).live) k.toNat u.pc) t := by
  refine h.exec_change (Machine.exec_waitm k s) (Gang.standAt_moves _ k.toNat u.pc) (fun g => ?_) (fun g => ?_) (fun g => ?_)
    (congrArg Effect.ok (State.modGang_modGang ..))
  · rw [Gang.standAt_rest]; exact ⟨rfl, rfl, rfl⟩
  · rw [Gang.standAt_rest]
  · rw [Gang.standAt_rest]

theorem hasLane_of_and {a b : BitVec 32} {l : Nat} (h : hasLane (a &&& b) l = true) : hasLane a l = true := by
  rw [hasLane_and, Bool.and_eq_true] at h
  exact h.1

/-- Settles O10: the members of a WAITM's group stand, and every other change is one of a field of the gang or of its run. -/
theorem gangChanges : Obligations.GangChanges := by
  intro i s u g h hg
  cases i
  case waitm k =>
    cases hg
    obtain ⟨t, hx, hq, ht⟩ := h.exec_waitm
    refine ⟨t, hx, hq, ?_⟩
    rw [Gang.standAt, State.moved, State.moveSome_ran _ _ _ _ _ fun l hl => hasLane_of_and (hasLane_of_and hl)] at ht
    exact ht
  case yieldGang =>
    cases hg
    exact h.exec_change (φ := fun g => { g with yielded := some [] }) (exec_yieldGang s) (fun _ _ _ _ _ _ => rfl)
      (fun _ => ⟨rfl, rfl, rfl⟩) (fun _ => rfl) (fun _ => rfl) rfl
  case sleep x =>
    have hzero : Nat.min ((s.ctx (.sleep x) u).u 0) 1048575 = 0 ↔ (s.ctx (.sleep x) u).u 0 = 0 := by
      change min _ 1048575 = 0 ↔ _
      omega
    by_cases hn : (s.ctx (.sleep x) u).u 0 = 0
    · cases (if_pos hn).symm.trans hg
      exact h.exec_advance (exec_sleep x s) (if_pos (hzero.mpr hn))
    · cases (if_neg hn).symm.trans hg
      exact h.exec_jump (exec_sleep x s) _ (if_neg (mt hzero.mp hn))
  case roleSet x =>
    cases hg
    exact h.exec_change (φ := fun g => { g with role := BitVec.ofNat 2 ((s.ctx (.roleSet x) u).u 0) }) (exec_roleSet x s)
      (fun _ _ _ _ _ _ => rfl) (fun _ => ⟨rfl, rfl, rfl⟩) (fun _ => rfl) (fun _ => rfl) rfl
  case sfwait p m => cases hg; exact h.exec_advance (exec_sfwait p m s) rfl
  case swait m n => cases hg; exact h.exec_advance (exec_swait m n s) rfl
  all_goals exact nomatch hg

end Sys2Proof.Machine
end

section
/-! PROOFS. The release rule and EXIT (spec/03_control.md R85, R92, R95). -/

namespace Sys2Proof.Machine

/-! ### Masks and threads under a release -/

theorem Gang.mask_setMask (g : Gang) (k j : Nat) (v : BitVec 32) : (g.setMask k v).mask j = if k = j then v else g.mask j :=
  look_put g.m k j v 0

@[simp] theorem Gang.mask_release (g : Gang) (k j : Nat) : (g.release k).mask j = g.mask j := by
  rw [Gang.release_rest]
  rfl

theorem Gang.groupMet_iff (g : Gang) (k : Nat) : g.groupMet k = true ↔
    ∀ l, hasLane (g.mask k) l = true → hasLane g.live l = true → (g.thread l).wait = .waitm k := by
  simp only [Gang.groupMet, List.all_eq_true, mem_lanes, hasLane_and, Bool.and_eq_true, and_imp, beq_iff_eq]

/-- A thread that a release lets go on past its WAITM. -/
def Thread.letGo (t : Thread) : Thread := { t with wait := .none, pc := t.pc + 4 }

theorem Gang.threads_release_of_met {g : Gang} {k : Nat} (h : g.groupMet k = true) :
    (g.release k).threads = g.threads.map fun t => if t.wait = .waitm k then t.letGo else t := by
  rw [Gang.release, if_pos h]
  rfl

theorem Gang.release_of_unmet {g : Gang} {k : Nat} (h : ¬ g.groupMet k = true) : g.release k = g := if_neg h

theorem Gang.thread_release (g : Gang) (k l : Nat) :
    (g.release k).thread l = if g.groupMet k = true ∧ (g.thread l).wait = .waitm k then (g.thread l).letGo else g.thread l := by
  by_cases hmet : g.groupMet k = true
  · rw [Gang.thread, Gang.threads_release_of_met hmet, Gang.thread, List.getD_eq_getElem?_getD, List.getD_eq_getElem?_getD,
      List.getElem?_map]
    cases g.threads[l]? with
    | none => simp
    | some t => simp [hmet]
  · rw [Gang.release_of_unmet hmet, if_neg fun h => hmet h.1]

/-- Settles O9: the write makes the mask, and the release looks at the group that the new mask makes. -/
theorem releaseRule : Obligations.ReleaseRule := by
  intro g k v h
  have hmask : ∀ j, h.mask j = if k = j then v else g.mask j := fun j => (Gang.mask_release ..).trans (g.mask_setMask k j v)
  have hmet : (g.setMask k v).groupMet k = true ↔ ∀ l, hasLane v l = true → hasLane h.live l = true → (g.thread l).wait = .waitm k := by
    rw [Gang.groupMet_iff, Gang.mask_setMask, if_pos rfl, show (g.setMask k v).live = h.live from (Gang.mask_release ..).symm]
    rfl
  refine ⟨?written, ?others, ?rest, ?met, ?unmet⟩
  case written => rw [hmask, if_pos rfl]
  case others => exact fun j hj => by rw [hmask, if_neg hj.symm]
  case rest =>
    have hrest : h = { g with m := put g.m k v 0, threads := h.threads } := g.writeMask_rest k v
    rw [show h.m = put g.m k v 0 from congrArg Gang.m hrest]
    exact hrest
  case met => exact fun hall => Gang.threads_release_of_met (hmet.mpr hall)
  case unmet =>
    rintro ⟨l, hv, hl, hw⟩
    have hsame : h = g.setMask k v := Gang.release_of_unmet fun hall => hw (hmet.mp hall l hv hl)
    rw [hsame]
    rfl

/-! ### Releases of one mask after another -/

/-- The releases of m0 to m(n − 1). -/
def Gang.releases (g : Gang) (n : Nat) : Gang := (List.range n).foldl Gang.release g

theorem Gang.releases_succ (g : Gang) (n : Nat) : g.releases (n + 1) = (g.releases n).release n := by
  rw [Gang.releases, List.range_succ, List.foldl_append]
  rfl

theorem Gang.releases_rest (g : Gang) (n : Nat) : g.releases n = { g with threads := (g.releases n).threads } := by
  induction n with
  | zero => rfl
  | succ n ih => rw [Gang.releases_succ, Gang.release_rest, ih]

theorem Gang.mask_releases (g : Gang) (n j : Nat) : (g.releases n).mask j = g.mask j := by
  rw [Gang.releases_rest]
  rfl

/-- Releases let a thread go only past the WAITM it stands at, and only with its whole group: a release that went before gives no thread a
wait, so that the group of a later one waits as it did. -/
theorem Gang.thread_releases (g : Gang) (n l : Nat) : (g.releases n).thread l = g.thread l ∨
    ∃ k, k < n ∧ (g.thread l).wait = .waitm k ∧ (g.releases n).thread l = (g.thread l).letGo ∧ g.groupMet k = true := by
  induction n generalizing l with
  | zero => exact .inl rfl
  | succ n ih =>
    have hwait : ∀ j, ((g.releases n).thread j).wait = .waitm n → (g.releases n).thread j = g.thread j := by
      intro j hj
      obtain hsame | ⟨k, -, -, hgo, -⟩ := ih j
      · exact hsame
      · rw [hgo] at hj
        cases hj
    rw [Gang.releases_succ, Gang.thread_release]
    split
    · next h =>
      obtain ⟨hmet, hl⟩ := h
      refine .inr ⟨n, n.lt_succ_self, hwait l hl ▸ hl, congrArg Thread.letGo (hwait l hl), ?_⟩
      rw [Gang.groupMet_iff] at hmet ⊢
      intro j hk hlive
      have hj := hmet j (by rwa [Gang.mask_releases]) (by rwa [Gang.live, Gang.mask_releases])
      exact hwait j hj ▸ hj
    · exact (ih l).imp_right fun ⟨k, hk, h⟩ => ⟨k, hk.trans n.lt_succ_self, h⟩

/-! ### EXIT -/

/-- The gang whose threads of a set are gone, before the releases. -/
def Gang.drop (g : Gang) (m : BitVec 32) : Gang := (g.modLanes m fun _ => {}).setMask 0 (g.live &&& ~~~ m)

theorem Gang.exit_eq (g : Gang) (m : BitVec 32) : g.exit m = (g.drop m).releases 12 := rfl

theorem Gang.mask_drop (g : Gang) (m : BitVec 32) (k : Nat) : (g.drop m).mask k = if 0 = k then g.live &&& ~~~ m else g.mask k :=
  Gang.mask_setMask ..

theorem Gang.thread_drop (g : Gang) (m : BitVec 32) (l : Nat) : (g.drop m).thread l = if hasLane m l = true then {} else g.thread l := by
  rw [Gang.thread, Gang.thread, List.getD_eq_getElem?_getD, List.getD_eq_getElem?_getD]
  show ((g.threads.mapIdx fun l t => if hasLane m l then {} else t)[l]?).getD {} = _
  rw [List.getElem?_mapIdx]
  cases g.threads[l]? <;> simp

theorem Gang.live_exit (g : Gang) (m : BitVec 32) : (g.exit m).live = g.live &&& ~~~ m := by
  rw [Gang.live, Gang.exit_eq, Gang.mask_releases, Gang.mask_drop, if_pos rfl]

/-- No lane that lives on has exited. -/
theorem hasLane_of_survives {a m : BitVec 32} {l : Nat} (h : hasLane (a &&& ~~~ m) l = true) : hasLane m l = false := by
  rw [hasLane_and, Bool.and_eq_true] at h
  obtain ⟨ha, hm⟩ := h
  rwa [hasLane_not _ _ (hasLane_lt ha), Bool.not_eq_true'] at hm

/-- Settles O46: the run's threads are gone, and the releases of m0 to m11 let the others go. -/
theorem exitRule : Obligations.ExitRule := by
  intro g m h
  have hlive : h.live = g.live &&& ~~~ m := g.live_exit m
  refine ⟨hlive, ?masks, ?rest, ?gone, ?others⟩
  case masks => exact fun k hk => ((g.drop m).mask_releases 12 k).trans ((g.mask_drop m k).trans (if_neg hk.symm))
  case rest =>
    have hrest : h = { g.drop m with threads := h.threads } := (g.drop m).releases_rest 12
    rw [show h.m = (g.drop m).m by rw [hrest]]
    exact hrest
  case gone =>
    intro l hl
    have hdrop : (g.drop m).thread l = {} := by rw [Gang.thread_drop, if_pos hl]
    obtain hsame | ⟨k, -, hw, -, -⟩ := (g.drop m).thread_releases 12 l
    · exact hsame.trans hdrop
    · rw [hdrop] at hw
      cases hw
  case others =>
    intro l hl
    have hdrop : ∀ j, hasLane m j = false → (g.drop m).thread j = g.thread j := fun j hj => by
      rw [Gang.thread_drop, if_neg (Bool.eq_false_iff.mp hj)]
    obtain hsame | ⟨k, hk, hw, hgo, hmet⟩ := (g.drop m).thread_releases 12 l
    · exact .inl (hsame.trans (hdrop l hl))
    · rw [hdrop l hl] at hw hgo
      refine .inr ⟨k, hk, hw, hgo, fun j hj hlives => ?_⟩
      have hout : hasLane m j = false := hasLane_of_survives (hlive ▸ hlives)
      have hmask : hasLane ((g.drop m).mask k) j = true := by
        rw [Gang.mask_drop]
        split
        · exact hlive ▸ hlives
        · exact hj
      rw [← hdrop j hout]
      exact (Gang.groupMet_iff _ _).mp hmet j hmask (by rw [Gang.live, Gang.mask_drop, if_pos rfl]; exact hlive ▸ hlives)

end Sys2Proof.Machine
end

section
/-! PROOFS. Whose turn it is: the head run of a gang and the rotation of a quadrant (spec/03_control.md R77, R78, R100). -/

namespace Sys2Proof.Machine

/-! ### The head run -/

/-- A fold that keeps the lesser value ends at the least. -/
theorem foldl_least (f : Nat → Nat) (ls : List Nat) (b : Nat) :
    let r := ls.foldl (fun a l => if f l < a then f l else a) b
    r ≤ b ∧ (∀ l ∈ ls, r ≤ f l) ∧ (r = b ∨ ∃ l ∈ ls, f l = r) := by
  induction ls generalizing b with
  | nil => exact ⟨le_rfl, nofun, .inl rfl⟩
  | cons l ls ih =>
    obtain ⟨hb, hls, hr⟩ := ih (if f l < b then f l else b)
    have hfirst : (if f l < b then f l else b) ≤ f l ∧ (if f l < b then f l else b) ≤ b := by split <;> omega
    refine ⟨hb.trans hfirst.2, List.forall_mem_cons.mpr ⟨hb.trans hfirst.1, hls⟩, ?_⟩
    obtain hr | ⟨j, hj, hr⟩ := hr
    · rw [List.foldl_cons, hr]
      split
      · exact .inr ⟨l, List.mem_cons_self .., rfl⟩
      · exact .inl rfl
    · exact .inr ⟨j, List.mem_cons_of_mem _ hj, hr⟩

/-- Without a starvation turn's choice the gang offers the least program counter (R77). -/
theorem Gang.offered_eq_least {g : Gang} (m : BitVec 32) (h : g.offer = none) :
    g.offered m = (lanes m).foldl (fun a l => if (g.thread l).pc < a then (g.thread l).pc else a) (2 ^ 57) := by
  rw [Gang.offered, h]

theorem Gang.hasLane_at (g : Gang) {m : BitVec 32} {l : Nat} (pc : Nat) (h : hasLane m l = true) :
    hasLane (g.at_ m pc) l = true ↔ (g.thread l).pc = pc := by
  rw [Gang.at_, hasLane_laneSet]
  simp [h, hasLane_lt h]

/-- Settles O44: a least program counter lies below 2^57, where the fold begins. -/
theorem headRun : Obligations.HeadRun := by
  intro g m hoffer hm hpc
  obtain ⟨-, hleast, hfound⟩ := foldl_least (fun l => (g.thread l).pc) (lanes m) (2 ^ 57)
  rw [← Gang.offered_eq_least m hoffer] at hfound
  have hle : ∀ l, hasLane m l = true → g.offered m ≤ (g.thread l).pc := fun l hl => by
    rw [Gang.offered_eq_least m hoffer]
    exact hleast l ((mem_lanes m l).mpr hl)
  refine ⟨?_, fun l hl => ⟨hle l hl, g.hasLane_at _ hl⟩⟩
  obtain hlimit | ⟨l, hl, heq⟩ := hfound
  · have hlow := hle _ (lowest_mem hm)
    have hbelow := hpc _ (lowest_mem hm)
    omega
  · exact ⟨l, (mem_lanes m l).mp hl, heq⟩

/-! ### The rotation -/

/-- The gangs a quadrant offers a slot. -/
def State.quadIds (s : State) (q : Nat × Nat × Nat × Nat) : List Nat :=
  (s.gangs.map (·.1)).filter fun i => s.offered i && s.quadOf i == q

/-- Those among whom the slot goes round: the ones that are not passed over, or all where each is (R100). -/
def State.contenders (s : State) (ids : List Nat) : List Nat :=
  match ids.filter (fun i => !s.passedOver ids i) with | [] => ids | l => l

/-- How far behind the slot its quadrant offered last a gang's slot lies (R78). -/
def State.behind (s : State) (q : Nat × Nat × Nat × Nat) (i : Nat) : Nat :=
  ((s.gang i).slot + 63 - look (look s.cores (quadCore q) {}).turns q.2.2.2 7) % 8

/-- The slot goes to the first contender in rotation. -/
theorem State.quadNext_eq (s : State) (q : Nat × Nat × Nat × Nat) :
    s.quadNext q = (s.contenders (s.quadIds q)).argmin (s.behind q) := by
  rw [List.argmin]
  unfold State.quadNext
  dsimp only
  congr 1
  funext a i
  cases a with
  | none => rfl
  | some b =>
    have hfar : ∀ k, ((s.gang k).slot + 64 - (look (look s.cores (quadCore q) {}).turns q.2.2.2 7 + 1)) % 8 = s.behind q k := fun k =>
      congrArg (· % 8) (Nat.add_sub_add_right ((s.gang k).slot + 63) 1 _)
    simp only [hfar]
    rfl

theorem State.contenders_cases (s : State) (ids : List Nat) :
    (s.contenders ids = ids ∧ ∀ j ∈ ids, s.passedOver ids j = true) ∨
    (s.contenders ids = ids.filter (fun i => !s.passedOver ids i) ∧ s.contenders ids ≠ []) := by
  unfold State.contenders
  split
  · next h =>
    refine .inl ⟨rfl, fun j hj => ?_⟩
    have := List.filter_eq_nil_iff.mp h j hj
    simpa using this
  · next h => exact .inr ⟨rfl, h⟩

/-- Settles O45: the first in rotation of those not passed over, or of all. -/
theorem quadrantRotation : Obligations.QuadrantRotation := by
  intro s q ids last far
  have hnext : s.quadNext q = (s.contenders ids).argmin far := s.quadNext_eq q
  rw [hnext]
  refine ⟨fun hids => ?some, fun g hg => ?first⟩
  case some =>
    rw [Option.isSome_iff_ne_none, Ne, List.argmin_eq_none]
    obtain ⟨hall, -⟩ | ⟨-, hne⟩ := s.contenders_cases ids
    · rwa [hall]
    · exact hne
  case first =>
    have hin : g ∈ s.contenders ids := List.argmin_mem hg
    have hleast : ∀ j ∈ s.contenders ids, far g ≤ far j := fun j hj => List.le_of_mem_argmin hj hg
    obtain ⟨hall, hpassed⟩ | ⟨hsome, -⟩ := s.contenders_cases ids
    · rw [hall] at hin hleast
      exact ⟨hin, fun _ => hpassed, fun j hj _ => hleast j hj⟩
    · rw [hsome] at hin hleast
      obtain ⟨hids, hfree⟩ := List.mem_filter.mp hin
      rw [Bool.not_eq_true'] at hfree
      refine ⟨hids, fun h => absurd (h.symm.trans hfree) (by decide), fun j hj hsame => hleast j (List.mem_filter.mpr ⟨hj, ?_⟩)⟩
      rw [hsame, hfree]
      rfl

end Sys2Proof.Machine
end

section
/-! PROOFS. EXIT, CLAIM.TRY, GIVE, TDONE, TRAP, BRK, ERET, ICLOCK, ECMP and ESGN (spec/03_control.md R92, spec/11_decisions.md R290,
spec/15_tasks.md R383 to R387, spec/17_system.md R427, R437, R438, R445): past their checks, the effect the rules name. -/

namespace Sys2Proof.Machine

/-! ### Checks that find nothing -/

/-- A check that would trap does not: its condition fails. -/
theorem not_of_ite_eq_none {α : Type} {p : Prop} [Decidable p] {a : α} {b : Option α} (h : (if p then some a else b) = none) : ¬ p :=
  fun hp => nomatch (if_pos hp).symm.trans h

theorem firstSome_eq_none {α β : Type} {f : α → Option β} {l : List α} (h : ∀ x ∈ l, f x = none) : firstSome f l = none := by
  induction l with
  | nil => rfl
  | cons x l ih =>
    obtain ⟨hx, hl⟩ := List.forall_mem_cons.mp h
    rw [firstSome, hx]
    exact ih hl

theorem Ctx.checked_of_none {c : Ctx} {f : Nat → Option (Nat × Nat)} (h : ∀ l, hasLane c.act l = true → f l = none) (k : Effect) :
    c.checked f k = k := by
  have hcheck : c.check f = none := firstSome_eq_none fun l hl => by rw [h l ((mem_lanes _ _).mp hl)]; rfl
  rw [Ctx.checked, hcheck]
  rfl

/-! ### The instructions -/

/-- Where the table chooses among three states, the instruction leaves the one chosen. -/
theorem Effect.ok_of_branches {p q : Prop} [Decidable p] [Decidable q] {x y z t : State}
    (h : (if p then some x else if q then some y else some z) = some t) :
    (if p then Effect.ok x else if q then .ok y else .ok z) = .ok t := by
  by_cases hp : p
  · rw [if_pos hp] at h ⊢; cases h; rfl
  · rw [if_neg hp] at h ⊢
    by_cases hq : q
    · rw [if_pos hq] at h ⊢; cases h; rfl
    · rw [if_neg hq] at h ⊢; cases h; rfl

/-- A handler noted in the gang, and then, where the action is to exit, the exit of its lanes: one change of the gang (R383). -/
theorem State.modGang_exit (s : State) (gid : Nat) (f : Gang → Gang) (m : BitVec 32) (p : Prop) [Decidable p] :
    (if p then (s.modGang gid f).modGang gid fun g => g.exit m else s.modGang gid f) =
      s.modGang gid fun g => if p then (f g).exit m else f g := by
  split
  · exact State.modGang_modGang ..
  · rfl

section
variable {s t : State} {u : Issue}

/-- A trap that the instruction itself is comes past it (R427). -/
theorem Ready.exec_soft {i : Instr} (h : Ready i s u) {eff : Ctx → State → Effect} (hx : exec i s = issueInstr i s eff) {cause faddr : Nat}
    (he : eff (s.ctx i u) (s.issued i u) = .soft cause faddr) :
    exec i s = .next ((s.advance u (s.ctx i u).next).trapAt u i.len cause faddr 255) := by
  rw [hx, h.issue, he]

theorem Ready.exec_claimTry {d : Reg} {n : BitVec 4} (h : Ready (.claimTry d n) s u)
    (hnone : issueTrap (.claimTry d n) (s.ctx (.claimTry d n) u) (s.issued (.claimTry d n) u) = none)
    (ht : effectOf (.claimTry d n) s u = some t) : exec (.claimTry d n) s = .next t := by
  refine h.exec_ok (Machine.exec_claimTry d n s) ((if_neg (not_of_ite_eq_none hnone)).trans ?_)
  by_cases hpool : n.toNat ≤ (s.ctx (.claimTry d n) u).crew.pool
  · cases (if_pos hpool).symm.trans ht
    exact if_pos hpool
  · cases (if_neg hpool).symm.trans ht
    exact if_neg hpool

theorem Ready.exec_brk {n : BitVec 8} (h : Ready (.brk n) s u) (ht : effectOf (.brk n) s u = some t) : exec (.brk n) s = .next t := by
  have hlayer : (s.issued (.brk n) u).layer (s.ctx (.brk n) u).layer = s.layer (s.ctx (.brk n) u).layer := by
    rw [h.issued_rest]; rfl
  have hoff : ¬ (s.layer (s.ctx (.brk n) u).layer).dbgctl % 2 = 1 := fun hon => nomatch (if_pos hon).symm.trans ht
  cases (if_neg hoff).symm.trans ht
  exact h.exec_soft (Machine.exec_brk n s) (if_neg (by rw [hlayer]; exact hoff))

theorem Ready.exec_eret (h : Ready .eret s u) (ht : effectOf .eret s u = some t) : exec .eret s = .next t := by
  refine h.exec_ok (Machine.exec_eret s) ?_
  cases ht
  cases (s.ctx .eret u).gang.handler <;> rfl

theorem Ready.exec_eretKill (h : Ready .eretKill s u) (ht : effectOf .eretKill s u = some t) : exec .eretKill s = .next t := by
  refine h.exec_ok (Machine.exec_eretKill s) ?_
  cases ht
  cases (s.ctx .eretKill u).gang.handler <;> rfl

theorem Ready.exec_tdone {k : BitVec 8} {act : BitVec 2} (h : Ready (.tdone k act) s u) (ht : effectOf (.tdone k act) s u = some t) :
    exec (.tdone k act) s = .next t := by
  refine h.exec_ok (Machine.exec_tdone k act s) ?_
  simp only [effectOf] at ht
  cases hh : (s.ctx (.tdone k act) u).gang.handler <;> cases hk : (s.ctx (.tdone k act) u).gang.task <;>
    simp only [hh, hk] at ht ⊢
  case some.some =>
    rw [State.modGang_exit]
    exact Effect.ok_of_branches ht
  all_goals cases ht; rfl

/-- No active lane has an operand that is badly formed: the check of ECMP and ESGN finds nothing (R290). -/
theorem Ctx.ivBad_unnamed {c : Ctx} {cmp : Bool} (h : ¬ (lanes c.act).any (c.ivBad cmp) = true) (l : Nat) (hl : hasLane c.act l = true) :
    (if c.ivBad cmp l then some (0x28, 0) else none) = (none : Option (Nat × Nat)) :=
  if_neg fun hbad => h (List.any_eq_true.mpr ⟨l, (mem_lanes _ _).mpr hl, hbad⟩)

/-- ECMP and ESGN with sound operands: the open lanes park, and the others are settled by their signs (R290). -/
theorem Ready.signInstr {i : Instr} (h : Ready i s u) {cmp : Option (Nat × Nat)} {d v : Nat}
    {settle : Ctx → State → BitVec 32 → (Nat → Int) → State}
    (hgood : ¬ (Machine.lanes (s.ctx i u).act).any ((s.ctx i u).ivBad cmp.isSome) = true) :
    Machine.signInstr i cmp d v s settle = .next (settle (s.ctx i u) ((s.ctx i u).parks (s.issued i u) cmp d v)
      ((s.ctx i u).act &&& ~~~ (s.ctx i u).openLanes cmp.isSome) ((s.ctx i u).sign cmp.isSome)) := by
  unfold Machine.signInstr
  rw [h.issue, Ctx.checked_of_none (Ctx.ivBad_unnamed hgood)]
  rfl

theorem Ready.exec_ecmp {p : OPfx} {cc k v : BitVec 4} {a : Reg} (h : Ready (.ecmp p cc k a v) s u)
    (ht : effectOf (.ecmp p cc k a v) s u = some t) : exec (.ecmp p cc k a v) s = .next t := by
  have hgood : ¬ (Machine.lanes (s.ctx (.ecmp p cc k a v) u).act).any ((s.ctx (.ecmp p cc k a v) u).ivBad true) = true :=
    fun hbad => nomatch (if_pos hbad).symm.trans ht
  rw [Machine.exec_ecmp, execEcmp, h.signInstr (cmp := some (cc.toNat, k.toNat)) hgood]
  by_cases hnone : (s.ctx (.ecmp p cc k a v) u).act &&& ~~~ (s.ctx (.ecmp p cc k a v) u).openLanes true = 0
  · cases (if_pos hnone).symm.trans ((if_neg hgood).symm.trans ht)
    exact congrArg _ (if_pos hnone)
  · cases (if_neg hnone).symm.trans ((if_neg hgood).symm.trans ht)
    exact congrArg _ (if_neg hnone)

theorem Ready.exec_esgn {p : OPfx} {d a : Reg} {v : BitVec 4} (h : Ready (.esgn p d a v) s u)
    (ht : effectOf (.esgn p d a v) s u = some t) : exec (.esgn p d a v) s = .next t := by
  have hgood : ¬ (Machine.lanes (s.ctx (.esgn p d a v) u).act).any ((s.ctx (.esgn p d a v) u).ivBad false) = true :=
    fun hbad => nomatch (if_pos hbad).symm.trans ht
  cases (if_neg hgood).symm.trans ht
  rw [Machine.exec_esgn, execEsgn, h.signInstr (cmp := none) hgood]
  rfl

end

/-- Settles O17, instruction by instruction; the table holds no other. -/
theorem effectsComplete : Obligations.EffectsComplete := by
  intro i s u t h hnone ht
  cases i
  case exit => cases ht; exact h.exec_ok (exec_exit s) rfl
  case claimTry d n => exact h.exec_claimTry hnone ht
  case give n => cases ht; exact h.exec_ok (exec_give n s) (if_neg (not_of_ite_eq_none hnone))
  case giveRole r n => cases ht; exact h.exec_ok (exec_giveRole r n s) (if_neg (not_of_ite_eq_none hnone))
  case tdone k act => exact h.exec_tdone ht
  case trap n => cases ht; exact h.exec_soft (exec_trap n s) rfl
  case brk n => exact h.exec_brk ht
  case eret => exact h.exec_eret ht
  case eretKill => exact h.exec_eretKill ht
  case iclock d a b => cases ht; exact h.exec_ok (exec_iclock d a b s) rfl
  case ecmp p cc k a v => exact h.exec_ecmp ht
  case esgn p d a v => exact h.exec_esgn ht
  all_goals exact nomatch ht

end Sys2Proof.Machine
end

section
/-! PROOFS. Bins, task gangs, yields, traps, pre-emption, placing, the watchdog and the network (spec/07_access.md R204, R206,
spec/09_barges.md R253, R254, spec/15_tasks.md R375 to R388, spec/17_system.md R432, R441, R442, R455, spec/18_commands.md R469, R470):
where the table calls an act due, the act leaves the table's state. -/

namespace Sys2Proof.Machine

section
variable {s t : State}

/-! ### Bins and task gangs -/

theorem exec_binTimerExpiry_of_due (h : scheduleAct .binTimerExpiry s = some t) : exec .binTimerExpiry s = .next t := by
  obtain ⟨b, hbin, hx⟩ := Option.bind_eq_some_iff.mp h
  obtain ⟨⟨hopen, hage⟩, hx⟩ := Option.ite_none_right_eq_some.mp hx
  cases hx
  simp only [exec_binTimerExpiry, execBinTimerExpiry, hbin]
  exact if_pos (by simp [hopen, hage])

theorem exec_taskGangPlace_of_due (h : scheduleAct .taskGangPlace s = some t) : exec .taskGangPlace s = .next t := by
  obtain ⟨hopen, hx⟩ := Option.ite_none_left_eq_some.mp h
  simp only [exec_taskGangPlace, execTaskGangPlace]
  rw [if_neg hopen]
  rcases hfirst : (s.cluster s.choice.layer s.choice.cluster).ready.head? with _ | first <;>
    rcases hfits : s.readyFits s.choice.layer s.choice.cluster (s.coreRoom s.choice.layer s.choice.cluster s.choice.core)
      with _ | ⟨⟨b, x⟩, rest⟩ <;> simp only [hfirst, hfits, reduceCtorEq] at hx ⊢
  obtain ⟨hturn, hx⟩ := Option.ite_none_left_eq_some.mp hx
  obtain ⟨harea, hx⟩ := Option.ite_none_left_eq_some.mp hx
  cases hx
  rw [Bool.not_eq_true, Option.isSome_eq_false_iff, Option.isNone_iff_eq_none] at harea
  rw [if_neg hturn, harea]

theorem exec_coreReserve_of_due (h : scheduleAct .coreReserve s = some t) : exec .coreReserve s = .next t := by
  obtain ⟨⟨hready, hfree, hold⟩, hx⟩ := Option.ite_none_right_eq_some.mp h
  cases hx
  simp only [exec_coreReserve, execCoreReserve]
  rw [if_neg (by simp [hready, hfree])]
  refine if_pos ?_
  split at hold
  · next hage => exact .inl ⟨hage, hold⟩
  · next hage => exact .inr ⟨hage, of_decide_eq_true hold⟩

theorem exec_q24Fill_of_due (h : scheduleAct .q24Fill s = some t) : exec .q24Fill s = .next t := by
  rcases htask : (s.gang s.choice.target).task with _ | tk <;> simp only [scheduleAct, htask, reduceCtorEq] at h
  obtain ⟨hdue, hx⟩ := Option.ite_none_left_eq_some.mp h
  simp only [exec_q24Fill, execQ24Fill, htask]
  rw [if_neg hdue]
  rcases hwords : s.q24Words s.choice.target tk with ⟨f, lane⟩ | ws <;> simp only [hwords] at hx ⊢
  · obtain ⟨hfatal, hx⟩ := Option.ite_none_left_eq_some.mp hx
    cases hx
    rw [if_neg hfatal]
  · cases hx
    rfl

/-! ### Yields and returns -/

theorem exec_cyieldAct_of_due (h : scheduleAct .cyieldAct s = some t) : exec .cyieldAct s = .next t := by
  obtain ⟨hstand, hx⟩ := Option.ite_none_right_eq_some.mp h
  cases hx
  simp only [exec_cyieldAct, execCyieldAct]
  rw [if_neg (by simp [hstand])]
  cases s.waiters s.choice.target <;> rfl

theorem exec_crewYield_of_due (h : scheduleAct .crewYield s = some t) : exec .crewYield s = .next t := by
  obtain ⟨hdue, hx⟩ := Option.ite_none_right_eq_some.mp h
  cases hx
  simp only [exec_crewYield, execCrewYield]
  exact if_pos hdue

theorem exec_crewReturn_of_due (h : scheduleAct .crewReturn s = some t) : exec .crewReturn s = .next t := by
  obtain ⟨hdue, hx⟩ := Option.ite_none_left_eq_some.mp h
  simp only [exec_crewReturn, execCrewReturn]
  rw [if_neg hdue]
  rcases hload : s.loadCrew s.choice.target with f | w <;> simp only [hload, reduceCtorEq] at hx ⊢
  cases hx
  rfl

/-! ### Traps -/

theorem exec_trapEntry_of_due (h : scheduleAct .trapEntry s = some t) : exec .trapEntry s = .next t := by
  simp only [exec_trapEntry, execTrapEntry]
  by_cases hpend : (s.gang s.choice.target).pend.isSome = true
  · cases (if_pos hpend).symm.trans h
    rw [if_pos hpend]
  · obtain ⟨hrefine, hx⟩ := Option.ite_none_right_eq_some.mp ((if_neg hpend).symm.trans h)
    cases hx
    rw [if_neg hpend, if_pos hrefine]

/-! ### Pre-emption, restore and retirement -/

theorem exec_preemption_of_due (h : scheduleAct .preemption s = some t) : exec .preemption s = .next t := by
  obtain ⟨hdue, hx⟩ := Option.ite_none_left_eq_some.mp h
  simp only [Bool.or_eq_true, not_or] at hdue
  obtain ⟨⟨hstatus, hdrained⟩, hspilled⟩ := hdue
  simp only [exec_preemption, execPreemption]
  rw [if_neg (by simp only [Bool.or_eq_true, not_or]; exact ⟨hstatus, hdrained⟩), if_neg hspilled]
  rcases hsave : foldFault State.saveCrew ((s.reclaimConvoy s.choice.target).liveCrews s.choice.target) (s.reclaimConvoy s.choice.target)
    with f | w <;> simp only [hsave, reduceCtorEq] at hx ⊢
  cases hx
  rfl

theorem exec_convoyRestore_of_due (h : scheduleAct .convoyRestore s = some t) : exec .convoyRestore s = .next t := by
  obtain ⟨hdue, hx⟩ := Option.ite_none_left_eq_some.mp h
  simp only [exec_convoyRestore, execConvoyRestore]
  rw [if_neg hdue]
  rcases hrestore : foldFault State.restoreCrew (s.liveCrews s.choice.target)
    (s.modConvoy s.choice.target fun y => { y with status := .resident, wanted := false, ops := [], reqs := [] })
    with f | w <;> simp only [hrestore, reduceCtorEq] at hx ⊢
  cases hx
  rfl

theorem exec_gangRetire_of_due (h : scheduleAct .gangRetire s = some t) : exec .gangRetire s = .next t := by
  obtain ⟨hdue, hx⟩ := Option.ite_none_left_eq_some.mp h
  simp only [exec_gangRetire, execGangRetire]
  rw [if_neg hdue]
  by_cases hcaptured : (s.ops.any fun p => p.2.gang == s.choice.target && p.2.captured) = true
  · cases (if_pos hcaptured).symm.trans hx
    rw [if_pos hcaptured]
  · obtain ⟨hquiet, hx⟩ := Option.ite_none_left_eq_some.mp ((if_neg hcaptured).symm.trans hx)
    cases hx
    rw [if_neg hcaptured, if_neg hquiet]

/-! ### Placing, drains and the watchdog -/

theorem exec_convoyPlace_of_due (h : scheduleAct .convoyPlace s = some t) : exec .convoyPlace s = .next t := by
  obtain ⟨⟨hawake, hready⟩, hx⟩ := Option.ite_none_right_eq_some.mp h
  cases hx
  simp only [exec_convoyPlace, execConvoyPlace]
  exact if_neg (by simp [hawake, hready])

theorem exec_drainStart_of_due (h : scheduleAct .drainStart s = some t) : exec .drainStart s = .next t := by
  obtain ⟨hdue, hx⟩ := Option.ite_none_right_eq_some.mp h
  cases hx
  rw [exec_drainStart, execDrainStart]
  exact congrArg _ (if_pos hdue)

theorem exec_drainPreempt_of_due (h : scheduleAct .drainPreempt s = some t) : exec .drainPreempt s = .next t := by
  simp only [exec_drainPreempt, execDrainPreempt]
  rcases hdrain : (s.layer s.choice.layer).drain with _ | w <;> rcases hhead : (s.layer s.choice.layer).head with _ | n <;>
    rcases hlast : s.lastConvoy s.choice.layer with _ | v <;>
    simp only [scheduleAct, hdrain, hhead, hlast, reduceCtorEq] at h ⊢
  obtain ⟨⟨hlimit, hage, hblocked, hnone⟩, hx⟩ := Option.ite_none_right_eq_some.mp h
  cases hx
  exact if_pos ⟨hlimit, hage, hblocked, by rw [hnone]; rfl⟩

theorem exec_watchdogExpiry_of_due (h : scheduleAct .watchdogExpiry s = some t) : exec .watchdogExpiry s = .next t := by
  obtain ⟨hdue, hx⟩ := Option.ite_none_right_eq_some.mp h
  cases hx
  rw [exec_watchdogExpiry, execWatchdogExpiry]
  exact if_pos hdue

/-! ### The network -/

theorem exec_routerGate_of_due (h : scheduleAct .routerGate s = some t) : exec .routerGate s = .next t := by
  obtain ⟨⟨hrouter, hidle, hawake, hquiet, hage⟩, hx⟩ := Option.ite_none_right_eq_some.mp h
  cases hx
  rw [exec_routerGate, execRouterGate]
  exact if_pos ⟨hrouter, hidle, by rw [hawake]; rfl, by rw [hquiet]; rfl, hage⟩

theorem exec_routerWake_of_due (h : scheduleAct .routerWake s = some t) : exec .routerWake s = .next t := by
  obtain ⟨⟨hgated, hsignal⟩, hx⟩ := Option.ite_none_right_eq_some.mp h
  cases hx
  rw [exec_routerWake, execRouterWake]
  exact congrArg _ (if_pos (by rw [hgated, hsignal]; rfl))

theorem State.escapeFetch_of_late {l g : Nat} (hup : s.gangUp g = true) (hruns : s.runnable g ≠ 0)
    (hlayer : (s.fetchLayers g).contains l = true) (hlate : s.waitedLong l (s.gang g).turned = true)
    (hmoved : (s.gang g).moved < 12 * linePackets) :
    s.escapeFetch l g = (s.escape l).modGang g fun g => { g with moved := g.moved + 1 } := by
  refine if_pos ?_
  simp only [Bool.and_eq_true, bne_iff_ne, decide_eq_true_eq]
  exact ⟨⟨⟨⟨hup, hruns⟩, hlayer⟩, hlate⟩, hmoved⟩

theorem State.escapeCopy_of_late {l i m q k src dst n qrd begin moved : Nat}
    (hcopy : s.copies.find? (·.2.2.1 == i) = some (m, q, k, .copy src dst n qrd begin moved))
    (hroutes : s.copyRouters l m src dst n ≠ []) (hlate : s.waitedLong l begin = true)
    (hmoved : moved < 2 * (n / 64 + 2) * linePackets) :
    s.escapeCopy l i = (s.escape l).modCq m q fun x => { x with cmds := insert x.cmds i (.copy src dst n qrd begin (moved + 1)) } := by
  simp only [State.escapeCopy, hcopy]
  refine if_pos ?_
  simp only [Bool.and_eq_true, Bool.not_eq_true', List.isEmpty_eq_false_iff, decide_eq_true_eq]
  exact ⟨⟨hroutes, hlate⟩, hmoved⟩

/-- The packet of a fetch, of an operation or of a copy that has waited long moves to the Escape class (R206). -/
theorem exec_deadlockEscape_of_due (h : scheduleAct .deadlockEscape s = some t) : exec .deadlockEscape s = .next t := by
  simp only [exec_deadlockEscape, execDeadlockEscape]
  by_cases hfetch : s.choice.unit = 1
  · rw [if_pos hfetch]
    obtain ⟨⟨hup, hruns, hlayer, hlate, hmoved⟩, hx⟩ := Option.ite_none_right_eq_some.mp ((if_pos hfetch).symm.trans h)
    cases hx
    exact congrArg _ (State.escapeFetch_of_late hup hruns hlayer hlate hmoved)
  · rw [if_neg hfetch]
    have hx := (if_neg hfetch).symm.trans h
    rcases hop : s.opAt s.choice.target with _ | o <;> simp only [hop] at hx ⊢
    case none =>
      rcases hcopy : s.copies.find? (·.2.2.1 == s.choice.target) with _ | ⟨m, q, k, c⟩ <;> simp only [hcopy, reduceCtorEq] at hx
      cases c with
      | launch => exact nomatch hx
      | depwait => exact nomatch hx
      | copy src dst n qrd begin moved =>
        obtain ⟨⟨hroutes, hlate, hmoved⟩, hx⟩ := Option.ite_none_right_eq_some.mp hx
        cases hx
        exact congrArg _ (State.escapeCopy_of_late hcopy hroutes hlate hmoved)
    case some =>
      rcases hsince : s.packetsSince s.choice.layer s.choice.target o with _ | c <;> simp only [hsince, reduceCtorEq] at hx ⊢
      obtain ⟨⟨hlate, hmoved⟩, hx⟩ := Option.ite_none_right_eq_some.mp hx
      cases hx
      exact congrArg _ (if_pos (Bool.and_eq_true_iff.mpr ⟨hlate, decide_eq_true hmoved⟩))

end

/-- Settles O23, act by act; the table holds no other. -/
theorem scheduleActsComplete : Obligations.ScheduleActsComplete := by
  intro a s t h
  cases a
  case binTimerExpiry => exact exec_binTimerExpiry_of_due h
  case taskGangPlace => exact exec_taskGangPlace_of_due h
  case coreReserve => exact exec_coreReserve_of_due h
  case q24Fill => exact exec_q24Fill_of_due h
  case cyieldAct => exact exec_cyieldAct_of_due h
  case crewYield => exact exec_crewYield_of_due h
  case crewReturn => exact exec_crewReturn_of_due h
  case trapEntry => exact exec_trapEntry_of_due h
  case preemption => exact exec_preemption_of_due h
  case convoyRestore => exact exec_convoyRestore_of_due h
  case gangRetire => exact exec_gangRetire_of_due h
  case convoyPlace => exact exec_convoyPlace_of_due h
  case drainStart => exact exec_drainStart_of_due h
  case drainPreempt => exact exec_drainPreempt_of_due h
  case watchdogExpiry => exact exec_watchdogExpiry_of_due h
  case routerGate => exact exec_routerGate_of_due h
  case routerWake => exact exec_routerWake_of_due h
  case deadlockEscape => exact exec_deadlockEscape_of_due h
  all_goals exact nomatch h

end Sys2Proof.Machine
end

section
/-! PROOFS. Integers by type: how sources are read and results written, the quotients, remainders and shifts of a type's integers
(spec/04_integer.md R104, R110, R113). -/

namespace Sys2Proof.Machine

/-! ### Words of w bits as integers (R6) -/

theorem half_two_pow {w : Nat} (hw : 0 < w) : (2 : Int) ^ w / 2 = 2 ^ (w - 1) := by
  rw [← mul_pow_sub_one hw.ne' 2, Int.mul_ediv_cancel_left _ (by decide)]

/-- Sign extension is the balanced remainder. -/
theorem sext_eq_bmod (x : Nat) {w : Nat} (hw : 0 < w) : sext x w = (x : Int).bmod (2 ^ w) := by
  have heven : 2 * 2 ^ (w - 1) = 2 ^ w := mul_pow_sub_one hw.ne' 2
  rw [Int.bmod_def, ← Int.natCast_emod]
  unfold sext
  generalize x % 2 ^ w = y
  dsimp only
  split <;> split <;> omega

theorem sext_emod (x : Nat) {w : Nat} (hw : 0 < w) : sext x w % 2 ^ w = x % 2 ^ w := by
  have h : (x : Int).bmod (2 ^ w) % (2 ^ w : Nat) = x % (2 ^ w : Nat) := Int.bmod_emod
  rw [sext_eq_bmod x hw]
  exact_mod_cast h

theorem sext_mem (x : Nat) {w : Nat} (hw : 0 < w) : -(2 ^ w / 2) ≤ sext x w ∧ sext x w < 2 ^ w / 2 := by
  have heven : (2 : Int) * 2 ^ (w - 1) = 2 ^ w := mul_pow_sub_one hw.ne' 2
  have hlo := Int.le_bmod (x := x) (Nat.two_pow_pos w)
  have hhi := Int.bmod_lt (x := x) (Nat.two_pow_pos w)
  rw [← sext_eq_bmod x hw] at hlo hhi
  push_cast at hlo hhi
  omega

theorem trunc_cast (r : Int) (w : Nat) : (trunc r w : Int) = r % 2 ^ w := by
  rw [trunc, Int.toNat_of_nonneg (Int.emod_nonneg _ (by positivity))]
  push_cast
  rfl

theorem trunc_lt (r : Int) (w : Nat) : trunc r w < 2 ^ w := by
  have h := Int.emod_lt_of_pos r (show (0 : Int) < 2 ^ w by positivity)
  rw [← trunc_cast] at h
  exact_mod_cast h

theorem trunc_neg_one (w : Nat) : trunc (-1) w = 2 ^ w - 1 := by
  have hpos : (0 : Int) < 2 ^ w := by positivity
  have h : (-1 : Int) % 2 ^ w = 2 ^ w - 1 := ((Int.ediv_emod_unique (q := -1) hpos).mpr ⟨by ring, by omega, by omega⟩).2
  rw [← Int.natCast_inj, trunc_cast, h, Nat.cast_sub Nat.one_le_two_pow]
  push_cast
  rfl

theorem trunc_congr {r r' : Int} {w : Nat} (h : r % 2 ^ w = r' % 2 ^ w) : trunc r w = trunc r' w := by
  rw [← Int.natCast_inj, trunc_cast, trunc_cast, h]

theorem sext_trunc {r : Int} {w : Nat} (hw : 0 < w) (hlo : -(2 ^ w / 2) ≤ r) (hhi : r < 2 ^ w / 2) : sext (trunc r w) w = r := by
  have h : (r % (2 ^ w : Nat)).bmod (2 ^ w) = r.bmod (2 ^ w) := Int.emod_bmod ..
  push_cast at h
  rw [sext_eq_bmod _ hw, trunc_cast, h]
  exact Int.bmod_eq_of_le (by push_cast; exact hlo) (by push_cast; omega)

theorem clamped_clampI {lo hi : Int} (h : lo ≤ hi) (x : Int) : clamped x lo hi (clampI x lo hi) := by
  unfold clamped clampI
  split <;> [skip; split] <;> omega

theorem clampI_mem {lo hi : Int} (h : lo ≤ hi) (x : Int) : lo ≤ clampI x lo hi ∧ clampI x lo hi ≤ hi := by
  unfold clampI
  split <;> [skip; split] <;> omega

/-! ### The integers of a type (R104) -/

theorem typeBits_mem (t : Nat) : typeBits t = 8 ∨ typeBits t = 16 ∨ typeBits t = 32 ∨ typeBits t = 64 := by
  unfold typeBits
  split_ifs <;> simp

theorem typeBits_narrow {t : Nat} (h : typeBits t < 32) : typeBits t = 8 ∨ typeBits t = 16 := by
  have := typeBits_mem t
  omega

theorem typeBits_pos (t : Nat) : 0 < typeBits t := by
  have := typeBits_mem t
  omega

/-- r is one of the integers that type t represents. -/
def FitsType (t : Nat) (r : Int) : Prop :=
  if isSigned t then -(2 ^ typeBits t / 2) ≤ r ∧ r < 2 ^ typeBits t / 2 else 0 ≤ r ∧ r < 2 ^ typeBits t

theorem fitsType_signed {t : Nat} (h : isSigned t = true) (r : Int) :
    FitsType t r ↔ -(2 ^ typeBits t / 2) ≤ r ∧ r < 2 ^ typeBits t / 2 := by rw [FitsType, if_pos h]

theorem fitsType_unsigned {t : Nat} (h : ¬ isSigned t = true) (r : Int) : FitsType t r ↔ 0 ≤ r ∧ r < 2 ^ typeBits t := by
  rw [FitsType, if_neg h]

theorem extT_signed {t : Nat} (h : isSigned t = true) (x : Nat) : extT t x = sext x (typeBits t) := if_pos h

theorem extT_unsigned {t : Nat} (h : ¬ isSigned t = true) (x : Nat) : extT t x = x % 2 ^ typeBits t := by
  rw [extT, if_neg h]
  push_cast
  rfl

theorem extT_fits (t x : Nat) : FitsType t (extT t x) := by
  by_cases h : isSigned t = true
  · rw [fitsType_signed h, extT_signed h]
    exact sext_mem x (typeBits_pos t)
  · rw [fitsType_unsigned h, extT_unsigned h]
    exact ⟨Int.emod_nonneg _ (by positivity), Int.emod_lt_of_pos _ (by positivity)⟩

theorem extT_emod (t x : Nat) : extT t x % 2 ^ typeBits t = x % 2 ^ typeBits t := by
  by_cases h : isSigned t = true
  · rw [extT_signed h, sext_emod x (typeBits_pos t)]
  · rw [extT_unsigned h, Int.emod_emod]

/-- A type reads back the integers it represents. -/
theorem extT_trunc {t : Nat} {r : Int} (h : FitsType t r) : extT t (trunc r (typeBits t)) = r := by
  by_cases hs : isSigned t = true
  · obtain ⟨hlo, hhi⟩ := (fitsType_signed hs r).mp h
    rw [extT_signed hs, sext_trunc (typeBits_pos t) hlo hhi]
  · obtain ⟨hlo, hhi⟩ := (fitsType_unsigned hs r).mp h
    rw [extT_unsigned hs, trunc_cast, Int.emod_emod, Int.emod_eq_of_lt hlo hhi]

/-- An integer between 0 and one of a type's integers is the type's. -/
theorem FitsType.of_between {t : Nat} {x r : Int} (h : FitsType t x) (hr : 0 ≤ r ∧ r ≤ x ∨ x ≤ r ∧ r ≤ 0) : FitsType t r := by
  have hhalf : (0 : Int) < 2 ^ typeBits t / 2 := by
    rw [half_two_pow (typeBits_pos t)]
    positivity
  by_cases hs : isSigned t = true
  · rw [fitsType_signed hs] at h ⊢
    omega
  · rw [fitsType_unsigned hs] at h ⊢
    omega

/-! ### Results of a type (R104) -/

theorem putT_wide {t : Nat} (h : 32 ≤ typeBits t) (r : Int) : putT t r = trunc r (typeBits t) := if_neg (by omega)

theorem putT_narrow_signed {t : Nat} (h : typeBits t < 32) (hs : isSigned t = true) (r : Int) :
    putT t r = trunc (satI r (typeBits t)) 32 := (if_pos h).trans (if_pos hs)

theorem putT_narrow_unsigned {t : Nat} (h : typeBits t < 32) (hs : isSigned t = false) (r : Int) :
    putT t r = trunc (satN r (typeBits t)) 32 := (if_pos h).trans (if_neg (by simp [hs]))

/-- A narrow signed type saturates (R104). -/
theorem sext_putT {t : Nat} (h : typeBits t < 32) (hs : isSigned t = true) (r : Int) :
    clamped r (-(2 ^ typeBits t / 2)) (2 ^ typeBits t / 2 - 1) (sext (putT t r) 32) := by
  have hbound : (1 : Int) ≤ 2 ^ typeBits t / 2 ∧ (2 : Int) ^ typeBits t / 2 ≤ 2 ^ 32 / 2 := by
    rcases typeBits_narrow h with hw | hw <;> rw [hw] <;> decide
  have hsat : satI r (typeBits t) = clampI r (-(2 ^ typeBits t / 2)) (2 ^ typeBits t / 2 - 1) := by
    rw [satI, half_two_pow (typeBits_pos t)]
    push_cast
    rfl
  have hmem := clampI_mem (show -(2 ^ typeBits t / 2) ≤ (2 : Int) ^ typeBits t / 2 - 1 by omega) r
  rw [putT_narrow_signed h hs, hsat, sext_trunc (by decide) (by omega) (by omega)]
  exact clamped_clampI (by omega) r

/-- A narrow unsigned type saturates (R104). -/
theorem putT_clamped {t : Nat} (h : typeBits t < 32) (hs : isSigned t = false) (r : Int) :
    clamped r 0 (2 ^ typeBits t - 1) (putT t r : Int) := by
  have hbound : (1 : Int) ≤ 2 ^ typeBits t ∧ (2 : Int) ^ typeBits t ≤ 2 ^ 32 := by
    rcases typeBits_narrow h with hw | hw <;> rw [hw] <;> decide
  have hsat : satN r (typeBits t) = clampI r 0 (2 ^ typeBits t - 1) := by
    rw [satN]
    push_cast
    rfl
  have hmem := clampI_mem (show 0 ≤ (2 : Int) ^ typeBits t - 1 by omega) r
  rw [putT_narrow_unsigned h hs, hsat, trunc_cast, Int.emod_eq_of_lt hmem.1 (by omega)]
  exact clamped_clampI (by omega) r

/-- Settles O47: a source is its type's integer of the same low bits; a result wraps or is clamped. -/
theorem typeRule : Obligations.TypeRule := by
  intro t x r _ _
  refine ⟨⟨extT_emod t x, extT_fits t x⟩, typeBits_mem t, fun h => ?wraps, fun h hs => ⟨?word, sext_putT h hs r⟩,
    fun h hs => putT_clamped h hs r⟩
  case wraps => rw [putT_wide h, trunc_cast]
  case word => rw [putT_narrow_signed h hs]; exact trunc_lt ..

/-! ### Division (R110) -/

theorem divOf_zero {t a b : Nat} (h : extT t b = 0) : divOf t a b = 2 ^ typeBits t - 1 := if_pos h

theorem divOf_of_ne {t a b : Nat} (h : extT t b ≠ 0) :
    divOf t a b = trunc (Int.tdiv (extT t a) (extT t b)) (typeBits t) := if_neg h

theorem remOf_zero {t a b : Nat} (h : extT t b = 0) : remOf t a b = trunc (extT t a) (typeBits t) := if_pos h

theorem remOf_of_ne {t a b : Nat} (h : extT t b ≠ 0) :
    remOf t a b = trunc (Int.tmod (extT t a) (extT t b)) (typeBits t) := if_neg h

theorem divOf_lt (t a b : Nat) : divOf t a b < 2 ^ typeBits t := by
  by_cases h : extT t b = 0
  · rw [divOf_zero h]
    exact Nat.sub_lt (Nat.two_pow_pos _) Nat.one_pos
  · rw [divOf_of_ne h]
    exact trunc_lt ..

theorem remOf_lt (t a b : Nat) : remOf t a b < 2 ^ typeBits t := by
  by_cases h : extT t b = 0
  · rw [remOf_zero h]
    exact trunc_lt ..
  · rw [remOf_of_ne h]
    exact trunc_lt ..

/-- The one division of a type's integers whose quotient is none of them (R110, Table 3). -/
def DivOverflows (t : Nat) (x y : Int) : Prop := isSigned t = true ∧ x = -(2 : Int) ^ (typeBits t - 1) ∧ y = -1

/-- A remainder lies between 0 and the dividend. -/
theorem FitsType.tmod {t : Nat} {x : Int} (h : FitsType t x) (y : Int) : FitsType t (x.tmod y) := by
  refine h.of_between ?_
  have habs : (x.tmod y).natAbs ≤ x.natAbs := (Int.natAbs_tmod x y).trans_le (Nat.mod_le ..)
  rcases Int.le_total 0 x with hx | hx
  · have := Int.tmod_nonneg y hx
    omega
  · have hneg := Int.tmod_nonneg y (Int.neg_nonneg_of_nonpos hx)
    rw [Int.neg_tmod] at hneg
    omega

/-- A quotient of a signed type is none of its integers only where it is the negation of the least. -/
theorem tdiv_lt_of_not_overflows {h x y : Int} (hlo : -h ≤ x) (hhi : x < h) (hy : ¬ (x = -h ∧ y = -1)) :
    -h ≤ x.tdiv y ∧ x.tdiv y < h := by
  have habs := Int.natAbs_tdiv_le_natAbs x y
  refine ⟨by omega, lt_of_not_ge fun hge => ?_⟩
  have hx : x = -h := by omega
  have hquot : x.natAbs / y.natAbs = x.natAbs := (Int.natAbs_tdiv x y).symm.trans (by omega)
  have hone : y.natAbs = 1 := by
    rcases Nat.div_eq_self.mp hquot with h0 | h1
    · omega
    · exact h1
  rcases Int.natAbs_eq_iff.mp hone with rfl | rfl
  · rw [Nat.cast_one, Int.tdiv_one] at hge
    omega
  · exact hy ⟨hx, rfl⟩

theorem FitsType.tdiv {t : Nat} {x y : Int} (hx : FitsType t x) (hy : FitsType t y) (hover : ¬ DivOverflows t x y) :
    FitsType t (x.tdiv y) := by
  by_cases hs : isSigned t = true
  · rw [fitsType_signed hs, half_two_pow (typeBits_pos t)] at hx ⊢
    exact tdiv_lt_of_not_overflows hx.1 hx.2 fun h => hover ⟨hs, h⟩
  · have hx0 := ((fitsType_unsigned hs x).mp hx).1
    have hy0 := ((fitsType_unsigned hs y).mp hy).1
    exact hx.of_between (.inl ⟨Int.tdiv_nonneg hx0 hy0, Int.tdiv_le_self y hx0⟩)

/-- The quotient that overflows wraps to the dividend. -/
theorem extT_divOf_of_overflows {t a b : Nat} (h : DivOverflows t (extT t a) (extT t b)) : extT t (divOf t a b) = extT t a := by
  obtain ⟨-, hx, hy⟩ := h
  have heven : (2 : Int) * 2 ^ (typeBits t - 1) = 2 ^ typeBits t := mul_pow_sub_one (typeBits_pos t).ne' 2
  have hwrap : (extT t a).tdiv (extT t b) % 2 ^ typeBits t = extT t a % 2 ^ typeBits t := by
    rw [hy, Int.tdiv_neg, Int.tdiv_one, Int.emod_eq_emod_iff_emod_sub_eq_zero, hx, ← heven]
    exact Int.emod_eq_zero_of_dvd ⟨1, by ring⟩
  rw [divOf_of_ne (by omega), trunc_congr hwrap, extT_trunc (extT_fits t a)]

theorem remOf_of_overflows {t a b : Nat} (h : DivOverflows t (extT t a) (extT t b)) : remOf t a b = 0 := by
  obtain ⟨-, -, hy⟩ := h
  rw [remOf_of_ne (by omega), hy, Int.tmod_neg, Int.tmod_one]
  simp [trunc]

/-! ### Shifts (R113) -/

theorem shlOf_lt (w a n : Nat) : shlOf w a n < 2 ^ w := by
  unfold shlOf
  split
  · exact Nat.two_pow_pos w
  · exact Nat.mod_lt _ (Nat.two_pow_pos w)

/-- A logical shift right divides, whatever the amount. -/
theorem shrOf_unsigned {t : Nat} (h : isSigned t = false) (a n : Nat) : shrOf t a n = a % 2 ^ typeBits t / 2 ^ n := by
  simp only [shrOf, h, Bool.false_eq_true, if_false]
  split
  · next hn =>
    have := Nat.mod_lt a (Nat.two_pow_pos (typeBits t))
    exact (Nat.div_eq_of_lt (this.trans_le (Nat.pow_le_pow_right (by decide) hn))).symm
  · rfl

/-- Past the width, the floor of the quotient is its sign. -/
theorem sext_ediv_of_le (a : Nat) {w n : Nat} (hw : 0 < w) (hn : w ≤ n) : sext a w / 2 ^ n = if sext a w < 0 then -1 else 0 := by
  have hmem := sext_mem a hw
  have hle : (2 : Int) ^ w ≤ 2 ^ n := pow_le_pow_right₀ (by decide) hn
  split
  · exact Int.ediv_eq_neg_one_of_neg_of_le (by omega) (by omega)
  · exact Int.ediv_eq_zero_of_lt (by omega) (by omega)

/-- An arithmetic shift right is the floor of the quotient, whatever the amount. -/
theorem shrOf_signed {t : Nat} (h : isSigned t = true) (a n : Nat) :
    shrOf t a n = trunc (sext a (typeBits t) / 2 ^ n) (typeBits t) := by
  simp only [shrOf, h, if_true]
  split
  · next hn =>
    rw [sext_ediv_of_le a (typeBits_pos t) hn]
    split
    · exact (trunc_neg_one _).symm
    · simp [trunc]
  · push_cast
    rfl


theorem shrOf_lt (t a n : Nat) : shrOf t a n < 2 ^ typeBits t := by
  cases h : isSigned t
  · rw [shrOf_unsigned h]
    exact (Nat.div_le_self ..).trans_lt (Nat.mod_lt _ (Nat.two_pow_pos _))
  · rw [shrOf_signed h]
    exact trunc_lt ..

theorem sext_shrOf {t : Nat} (h : isSigned t = true) (a n : Nat) :
    sext (shrOf t a n) (typeBits t) = sext a (typeBits t) / 2 ^ n := by
  have hpos : (0 : Int) < 2 ^ n := by positivity
  have hfits : FitsType t (sext a (typeBits t) / 2 ^ n) := by
    have hx := extT_fits t a
    rw [extT_signed h] at hx
    refine hx.of_between ?_
    rcases Int.lt_or_le (sext a (typeBits t)) 0 with hneg | hnonneg
    · exact .inr ⟨Int.le_ediv_of_mul_le hpos (mul_le_of_one_le_right hneg.le hpos), (Int.ediv_neg_of_neg_of_pos hneg hpos).le⟩
    · exact .inl ⟨Int.ediv_nonneg hnonneg hpos.le, Int.ediv_le_self _ hnonneg⟩
  rw [shrOf_signed h, ← extT_signed h, extT_trunc hfits]

end Sys2Proof.Machine
end

section
/-! PROOFS. Integer, address, bit, uniform and cross-lane instructions: the results they complete with (spec/04_integer.md R108 to R129,
spec/03_control.md R98, R102). -/

namespace Sys2Proof.Machine

/-! ### What a result comes to -/

/-- An instruction that computes one result for its last operand, its destination, completes with it (R41, R54 to R60). -/
theorem Ready.exec_result {i : Instr} {s : State} {u : Issue} (h : Ready i s u) {d : Reg} {n : Nat} {f : Ctx → Nat → Nat}
    (hx : exec i s = resultInstr i s d n f) (hd : i.info.opnds.getLast?.map (·.reg) = some d) :
    ∃ t, exec i s = .next t ∧ Gave s i u d.toNat n (f (s.ctx i u)) (s.moved i u) t := by
  obtain ⟨o, ho, hreg⟩ := Option.map_eq_some_iff.mp hd
  rw [hx]
  exact h.result d n f ⟨o, List.mem_of_getLast? ho, hreg⟩

/-- Settles O48: what DIV and REM write is read back as the quotient and the remainder; Table 3 is where the quotient does not fit. -/
theorem divisionRule : Obligations.DivisionRule := by
  intro p d a b s u
  refine ⟨?quotient, ?remainder⟩
  case quotient =>
    rintro i rfl h
    obtain ⟨t, ht, hgave⟩ := h.exec_result (exec_div p d a b s) rfl
    refine ⟨_, t, ht, hgave, fun l => ⟨divOf_lt .., divOf_zero, extT_divOf_of_overflows, fun hne hover => ?_⟩⟩
    rw [divOf_of_ne hne]
    exact extT_trunc ((extT_fits ..).tdiv (extT_fits ..) hover)
  case remainder =>
    rintro i rfl h
    obtain ⟨t, ht, hgave⟩ := h.exec_result (exec_rem p d a b s) rfl
    refine ⟨_, t, ht, hgave, fun l => ⟨remOf_lt .., fun hzero => ?_, remOf_of_overflows, fun hne => ?_⟩⟩
    · rw [remOf_zero hzero]
      exact extT_trunc (extT_fits ..)
    · rw [remOf_of_ne hne]
      exact extT_trunc ((extT_fits ..).tmod _)

/-- Settles O49: past the width a logical shift gives 0 and an arithmetic one the sign, as the quotient by the power does. -/
theorem shiftRule : Obligations.ShiftRule := by
  intro p d a b s u
  refine ⟨?left, ?right⟩
  case left =>
    rintro i rfl h
    obtain ⟨t, ht, hgave⟩ := h.exec_result (exec_shl p d a b s) rfl
    exact ⟨_, t, ht, hgave, fun l => ⟨shlOf_lt .., fun hn => if_pos hn, fun hn => if_neg hn.not_ge⟩⟩
  case right =>
    rintro i rfl h
    obtain ⟨t, ht, hgave⟩ := h.exec_result (exec_shr p d a b s) rfl
    exact ⟨_, t, ht, hgave, fun l => ⟨shrOf_lt .., fun hs => shrOf_unsigned hs .., fun hs => sext_shrOf hs ..⟩⟩

/-! ### One result, instruction by instruction -/

/-- Settles O1: each instruction of the table computes its value for its last operand; the table holds no other. -/
theorem integerResults : Obligations.IntegerResults := by
  intro i s u r h hr
  cases i
  -- Arithmetic (R108 to R111).
  case add => cases hr; exact h.exec_result (exec_add ..) rfl
  case sub => cases hr; exact h.exec_result (exec_sub ..) rfl
  case addc => cases hr; exact h.exec_result (exec_addc ..) rfl
  case mul => cases hr; exact h.exec_result (exec_mul ..) rfl
  case mulh => cases hr; exact h.exec_result (exec_mulh ..) rfl
  case mad => cases hr; exact h.exec_result (exec_mad ..) rfl
  case div => cases hr; exact h.exec_result (exec_div ..) rfl
  case rem => cases hr; exact h.exec_result (exec_rem ..) rfl
  case min => cases hr; exact h.exec_result (exec_min ..) rfl
  case max => cases hr; exact h.exec_result (exec_max ..) rfl
  case abs => cases hr; exact h.exec_result (exec_abs ..) rfl
  case addi => cases hr; exact h.exec_result (exec_addi ..) rfl
  -- Logic, shifts, fields and counts (R112 to R116).
  case and => cases hr; exact h.exec_result (exec_and ..) rfl
  case or => cases hr; exact h.exec_result (exec_or ..) rfl
  case xor => cases hr; exact h.exec_result (exec_xor ..) rfl
  case andn => cases hr; exact h.exec_result (exec_andn ..) rfl
  case shl => cases hr; exact h.exec_result (exec_shl ..) rfl
  case shr => cases hr; exact h.exec_result (exec_shr ..) rfl
  case fsh => cases hr; exact h.exec_result (exec_fsh ..) rfl
  case bfx => cases hr; exact h.exec_result (exec_bfx ..) rfl
  case bfi => cases hr; exact h.exec_result (exec_bfi ..) rfl
  case popc => cases hr; exact h.exec_result (exec_popc ..) rfl
  case clz => cases hr; exact h.exec_result (exec_clz ..) rfl
  case ctz => cases hr; exact h.exec_result (exec_ctz ..) rfl
  case brev => cases hr; exact h.exec_result (exec_brev ..) rfl
  -- Selection, moves and addresses (R117, R119, R121).
  case sel => cases hr; exact h.exec_result (exec_sel ..) rfl
  case movi => cases hr; exact h.exec_result (exec_movi ..) rfl
  case movh => cases hr; exact h.exec_result (exec_movh ..) rfl
  case mov => cases hr; exact h.exec_result (exec_mov ..) rfl
  case lea => cases hr; exact h.exec_result (exec_lea ..) rfl
  -- Cross-lane (R127 to R129).
  case cxs => cases hr; exact h.exec_result (exec_cxs ..) rfl
  case perm => cases hr; exact h.exec_result (exec_perm ..) rfl
  case scan => cases hr; exact h.exec_result (exec_scan ..) rfl
  all_goals exact nomatch hr

/-- Settles O3: each uniform instruction of the table writes one word as its result; the table holds no other. -/
theorem uniformResults : Obligations.UniformResults := by
  intro i s u d x h hu
  cases i
  -- Arithmetic, logic and moves (R122, R123).
  case uadd => cases hu; exact h.exec_result (exec_uadd ..) rfl
  case usub => cases hu; exact h.exec_result (exec_usub ..) rfl
  case umul => cases hu; exact h.exec_result (exec_umul ..) rfl
  case uand => cases hu; exact h.exec_result (exec_uand ..) rfl
  case uor => cases hu; exact h.exec_result (exec_uor ..) rfl
  case uxor => cases hu; exact h.exec_result (exec_uxor ..) rfl
  case ushl => cases hu; exact h.exec_result (exec_ushl ..) rfl
  case ushr => cases hu; exact h.exec_result (exec_ushr ..) rfl
  case umovi => cases hu; exact h.exec_result (exec_umovi ..) rfl
  case umovh => cases hu; exact h.exec_result (exec_umovh ..) rfl
  -- Masks, roles, slots and regions (R98, R102, R412, R415).
  case mmovGM => cases hu; exact h.exec_result (exec_mmovGM ..) rfl
  case mpop => cases hu; exact h.exec_result (exec_mpop ..) rfl
  case roleGet => cases hu; exact h.exec_result (exec_roleGet ..) rfl
  case slotq => cases hu; exact h.exec_result (exec_slotq ..) rfl
  case rstat => cases hu; exact h.exec_result (exec_rstat ..) rfl
  all_goals exact nomatch hu

/-! ### Shuffles (R126) -/

/-- The lane a shuffle reads and its flag, as one choice. -/
theorem Ctx.shuffleLane_eq (c : Ctx) (kind w l : Nat) :
    c.shuffleLane kind w l =
      let q := shuffleSrc kind w (l % w) (c.val 1 l)
      if q.2 = true ∨ hasLane c.gang.live (l - l % w + q.1) = false then (l, true) else (l - l % w + q.1, false) := by
  simp only [Ctx.shuffleLane, Bool.or_eq_true, Bool.not_eq_true']

/-- A result leaves the masks, and then bits of one of them are written (R126). -/
theorem Ready.wrote_writeMaskLanes {i : Instr} {s : State} {u : Issue} (h : Ready i s u) (d n : Nat) (f : Nat → Nat)
    (hd : ∃ o ∈ i.info.opnds, o.reg.toNat = d) (k : Nat) (p : Nat → Bool) :
    Gave s i u d n f ((s.moved i u).writeMask k ((s.ctx i u).maskWith k p))
      (((s.ctx i u).write (s.issued i u) d n f).writeMaskLanes u.gang k (s.ctx i u).act p) := by
  have hfound : (find (s.issued i u).gangs u.gang).isSome = true := by rw [h.issued_found]; exact h.gang
  have hwritten := (Ctx.write_found (s.ctx i u) (s.issued i u) d n f u.gang hfound).trans hfound
  have hwrote := h.wrote d n f hd
  have hmask : (((s.ctx i u).write (s.issued i u) d n f).gang u.gang).mask k = (s.gang u.gang).mask k := by rw [hwrote.gang]; rfl
  have hmove := hwrote.move hwritten (Gang.writeMask_moves k ((s.ctx i u).maskWith k p)) (by rw [Gang.writeMask_rest])
  have hbits : ((s.ctx i u).write (s.issued i u) d n f).writeMaskLanes u.gang k (s.ctx i u).act p =
      ((s.ctx i u).write (s.issued i u) d n f).modGang u.gang fun g => g.writeMask k ((s.ctx i u).maskWith k p) :=
    State.modGang_congr _ _ _ _ (by rw [hmask]; rfl)
  rw [hbits]
  exact hmove

/-- A shuffle takes the operand of the lanes it reads, and writes their flags where a mask is named. -/
theorem Ready.exec_shuffle {i : Instr} {s : State} {u : Issue} (h : Ready i s u) {kind : Nat} {p : OPfx} {d : Reg} {wid : BitVec 3}
    {flg : BitVec 4} {src : Nat → Nat × Bool} (hx : exec i s = shuffleInstr i kind p d wid flg s)
    (hd : i.info.opnds.getLast?.map (·.reg) = some d) (hsrc : ∀ l, (s.ctx i u).shuffleLane kind (2 ^ wid.toNat) l = src l) :
    ∃ t, exec i s = .next t ∧ Gave s i u d.toNat (pairN (effType p 9)) (fun l => (s.ctx i u).val 0 (src l).1)
      (if flg = 15 then s.moved i u
       else (s.moved i u).writeMask flg.toNat ((s.ctx i u).maskWith flg.toNat fun l => (src l).2)) t := by
  obtain rfl : (s.ctx i u).shuffleLane kind (2 ^ wid.toNat) = src := funext hsrc
  obtain ⟨o, ho, hreg⟩ := Option.map_eq_some_iff.mp hd
  have hdst : ∃ o ∈ i.info.opnds, o.reg.toNat = d.toNat := ⟨o, List.mem_of_getLast? ho, congrArg _ hreg⟩
  refine ⟨_, h.exec_ok hx rfl, ?_⟩
  by_cases hflg : flg = 15
  · simp only [hflg, if_true]
    exact h.wrote _ _ _ hdst
  · simp only [hflg, if_false]
    exact h.wrote_writeMaskLanes _ _ _ hdst _ _

/-- Settles O4: by index, up, down and by exclusive-or, the lanes read are those of the statement. -/
theorem shuffleResults : Obligations.ShuffleResults := by
  intro i s u d n flg src h hs
  cases i
  case shfi => cases hs; exact h.exec_shuffle (exec_shfi ..) rfl (Ctx.shuffleLane_eq _ 0 _)
  case shfu => cases hs; exact h.exec_shuffle (exec_shfu ..) rfl (Ctx.shuffleLane_eq _ 1 _)
  case shfd => cases hs; exact h.exec_shuffle (exec_shfd ..) rfl (Ctx.shuffleLane_eq _ 2 _)
  case shfx => cases hs; exact h.exec_shuffle (exec_shfx ..) rfl (Ctx.shuffleLane_eq _ 3 _)
  all_goals exact nomatch hs

end Sys2Proof.Machine
end

section
/-! PROOFS. Floating-point and conversion instructions: the results they complete with, and NaN operands (spec/05_float.md R130, R131,
R135 to R146). -/

namespace Sys2Proof.Machine

/-! ### NaNs and their patterns -/

/-- A pattern is a NaN's where its exponent is all ones and its fraction is not zero (R131). -/
theorem unpack_isNan_iff (f : Fmt) (ftz : Bool) (x : Nat) :
    (unpack f ftz x).isNan = true ↔ bits x (f.eb + f.fb - 1) f.fb = 2 ^ f.eb - 1 ∧ x % 2 ^ f.fb ≠ 0 := by
  unfold unpack
  by_cases hex : bits x (f.eb + f.fb - 1) f.fb = 2 ^ f.eb - 1
  · by_cases hfr : x % 2 ^ f.fb = 0 <;> simp [hex, hfr, Fv.isNan]
  · simp only [hex, if_false, false_and, iff_false]
    split <;> exact Bool.false_ne_true

/-- A NaN that is read has a fraction of its format. -/
theorem frac_lt_of_unpack_eq_nan {f : Fmt} {ftz s : Bool} {x fr fb : Nat} (h : unpack f ftz x = .nan s fr fb) :
    fb = f.fb ∧ fr < 2 ^ f.fb := by
  unfold unpack at h
  dsimp only at h
  split at h
  · split at h
    · cases h
    · cases h
      exact ⟨rfl, Nat.mod_lt _ (Nat.two_pow_pos _)⟩
  · split at h <;> cases h

/-- An infinity's pattern with a fraction in it is a NaN's. -/
theorem unpack_inf_add_isNan {f : Fmt} (he : 0 < f.eb) (ftz s : Bool) {fr : Nat} (h0 : fr ≠ 0) (hlt : fr < 2 ^ f.fb) :
    (unpack f ftz (f.inf s + fr)).isNan = true := by
  have hinf : f.inf s + fr = ((if s = true then 2 ^ f.eb else 0) + (2 ^ f.eb - 1)) * 2 ^ f.fb + fr := by
    rw [Fmt.inf, Fmt.signBit, add_mul]
    cases s <;> simp [pow_add]
  have hexp : (if s = true then 2 ^ f.eb else 0) % 2 ^ f.eb = 0 := by cases s <;> simp
  rw [unpack_isNan_iff, hinf, bits, show f.eb + f.fb - 1 + 1 - f.fb = f.eb by omega, Nat.mul_add_mod_self_right, Nat.mod_eq_of_lt hlt]
  refine ⟨?_, h0⟩
  rw [mul_comm, Nat.mul_add_div (Nat.two_pow_pos _), Nat.div_eq_of_lt hlt, Nat.add_zero, Nat.add_mod, hexp, Nat.zero_add, Nat.mod_mod,
    Nat.mod_eq_of_lt (Nat.sub_one_lt (Nat.two_pow_pos _).ne')]

/-- A fraction made quiet is one of its format still, and not zero (R135). -/
theorem quiet_frac {w fr : Nat} (hw : 0 < w) (hlt : fr < 2 ^ w) :
    (if tbit fr (w - 1) = true then fr else fr + 2 ^ (w - 1)) ≠ 0 ∧
      (if tbit fr (w - 1) = true then fr else fr + 2 ^ (w - 1)) < 2 ^ w := by
  have hhalf : 2 ^ w = 2 * 2 ^ (w - 1) := (mul_pow_sub_one hw.ne' 2).symm
  have hpos := Nat.two_pow_pos (w - 1)
  have htop : fr / 2 ^ (w - 1) < 2 := Nat.div_lt_of_lt_mul (by omega)
  split
  · next hset =>
    refine ⟨fun h0 => ?_, hlt⟩
    simp [h0, tbit] at hset
  · next hclear =>
    rw [tbit, beq_iff_eq, Nat.mod_eq_of_lt htop] at hclear
    have : fr < 2 ^ (w - 1) :=
      (Nat.div_eq_zero_iff_lt hpos).mp (Nat.lt_one_iff.mp ((Nat.lt_succ_iff_lt_or_eq.mp htop).resolve_right hclear))
    omega

section
variable {f : Fmt} (he : 0 < f.eb) (hf : 0 < f.fb) (ftz : Bool)
include he hf

/-- A NaN carried into its own format is a NaN. -/
theorem carryNan_isNan (s : Bool) {fr : Nat} (hlt : fr < 2 ^ f.fb) : (unpack f ftz (carryNan f s fr f.fb)).isNan = true := by
  obtain ⟨h0, hlt'⟩ := quiet_frac hf hlt
  rw [carryNan, if_pos le_rfl, Nat.sub_self, pow_zero, mul_one]
  exact unpack_inf_add_isNan he ftz s h0 hlt'

/-- Where an operand is a NaN, so is the result, whatever it would be without (R135). -/
theorem nanElse_isNan (xs : List Nat) (r : Nat) (h : ∃ x ∈ xs, (unpack f ftz x).isNan = true) :
    (unpack f ftz (nanElse f (xs.map (unpack f ftz)) r)).isNan = true := by
  rcases hfind : (xs.map (unpack f ftz)).find? Fv.isNan with _ | v
  · obtain ⟨x, hx, hnan⟩ := h
    exact absurd hnan (List.find?_eq_none.mp hfind _ (List.mem_map_of_mem hx))
  · have hv : v.isNan = true := List.find?_some hfind
    obtain ⟨x, -, hx⟩ := List.mem_map.mp (List.mem_of_find?_eq_some hfind)
    rw [nanElse, hfind]
    cases v with
    | nan s fr fb =>
      obtain ⟨rfl, hlt⟩ := frac_lt_of_unpack_eq_nan hx
      exact carryNan_isNan he hf ftz s hlt
    | inf s => cases hv
    | fin s m e => cases hv

end

/-- Settles O50: each of them asks for the first NaN among its operands before anything else. -/
theorem nanOperands : Obligations.NanOperands := by
  intro f mode ftz x y z hf nan
  obtain ⟨he, hfb⟩ : 0 < f.eb ∧ 0 < f.fb := (by decide : ∀ f ∈ [Fmt.f16, Fmt.bf16, Fmt.f32, Fmt.f64], 0 < f.eb ∧ 0 < f.fb) f hf
  have hnan : ∀ (xs : List Nat) r, (∃ x ∈ xs, nan x) → nan (nanElse f (xs.map (unpack f ftz)) r) := nanElse_isNan he hfb ftz
  refine ⟨fun h => ?two, fun h => ?three, fun h => ?one⟩
  case two =>
    have h2 : ∀ r, nan (nanElse f ([x, y].map (unpack f ftz)) r) := fun r => hnan _ r (by simpa using h)
    exact ⟨h2 _, h2 _, h2 _, h2 _⟩
  case three => exact hnan [x, y, z] _ (by simpa using h)
  case one =>
    have h1 : ∀ r, nan (nanElse f ([x].map (unpack f ftz)) r) := fun r => hnan _ r (by simpa using h)
    exact ⟨h1 _, h1 _⟩

/-! ### One result, instruction by instruction -/

/-- Settles O2: each instruction of the table computes its value for its last operand; the table holds no other. -/
theorem floatResults : Obligations.FloatResults := by
  intro i s u r h hr
  cases i
  -- Arithmetic, in scalar and packed formats (R139, R140).
  case fadd => cases hr; exact h.exec_result (exec_fadd ..) rfl
  case fsub => cases hr; exact h.exec_result (exec_fsub ..) rfl
  case fmul => cases hr; exact h.exec_result (exec_fmul ..) rfl
  case ffma => cases hr; exact h.exec_result (exec_ffma ..) rfl
  case fdiv => cases hr; exact h.exec_result (exec_fdiv ..) rfl
  case fsqrt => cases hr; exact h.exec_result (exec_fsqrt ..) rfl
  case frnd => cases hr; exact h.exec_result (exec_frnd ..) rfl
  case fscl => cases hr; exact h.exec_result (exec_fscl ..) rfl
  case fadd2 => cases hr; exact h.exec_result (exec_fadd2 ..) rfl
  case fmul2 => cases hr; exact h.exec_result (exec_fmul2 ..) rfl
  case ffma2 => cases hr; exact h.exec_result (exec_ffma2 ..) rfl
  -- Order, sign and class (R136, R139, R142).
  case fmin => cases hr; exact h.exec_result (exec_fmin ..) rfl
  case fmax => cases hr; exact h.exec_result (exec_fmax ..) rfl
  case fabs => cases hr; exact h.exec_result (exec_fabs ..) rfl
  case fneg => cases hr; exact h.exec_result (exec_fneg ..) rfl
  case fclass => cases hr; exact h.exec_result (exec_fclass ..) rfl
  -- Conversions (R143 to R145).
  case fcvt => cases hr; exact h.exec_result (exec_fcvt ..) rfl
  case fcvti => cases hr; exact h.exec_result (exec_fcvti ..) rfl
  case icvtf => cases hr; exact h.exec_result (exec_icvtf ..) rfl
  all_goals exact nomatch hr

end Sys2Proof.Machine
end

section
/-! PROOFS. Special functions, tags, barges, rings, barriers, tickets, locks and the words read of the system (spec/05_float.md R147,
spec/08_atomics.md R221 to R231, spec/09_barges.md R238 to R257, spec/10_intervals.md R280, R281): past its own checks, each completes
with what its plan says. -/

namespace Sys2Proof.Machine

/-- The instruction completes as its plan says. -/
def Completes (i : Instr) (s : State) (u : Issue) (p : Plan) : Prop :=
  ∃ w, exec i s = .next (p.post w) ∧ Wrote s i u p.d p.n p.w p.push p.gang w

/-- The plan of an arrival at barrier b, with or without the phase number (R223). -/
def arrivalPlan (s : State) (c : Ctx) (g : Gang) (o : Ord) (b : Nat) (d : Option Reg) : Plan :=
  let r := (s.barrier c.crewId b).arrive
  { gang := g
    post := fun w => (w.setBarrier c.crewId b r.2).addOp
      (c.op o s.next c.lane0 c.act (.barr b r.1 (d.map fun d => ⟨d.toNat, 1, c.act⟩)) none) }

/-! ### Checks that find nothing -/

theorem forall_of_firstSome_eq_none {α β : Type} {f : α → Option β} {l : List α} (h : firstSome f l = none) :
    ∀ x ∈ l, f x = none := by
  induction l with
  | nil => nofun
  | cons x l ih =>
    cases hx : f x with
    | some b => rw [firstSome, hx] at h; cases h
    | none => rw [firstSome, hx] at h; exact List.forall_mem_cons.mpr ⟨hx, ih h⟩

/-- A check that would trap does not: its condition holds. -/
theorem of_ite_none_eq_none {α : Type} {p : Prop} [Decidable p] {a : α} (h : (if p then none else some a) = none) : p :=
  by_contra fun hp => nomatch (if_neg hp).symm.trans h

theorem not_badName {α : Type} {x hi : Nat} {a : α} (h : (if x < 2 ^ hi then none else some a) = none) : ¬ badName x hi = true := by
  simp only [badName, decide_eq_true_eq, not_le]
  exact of_ite_none_eq_none h

theorem Ctx.not_tagMaskBad {α : Type} {c : Ctx} {m : Nat} {a : α}
    (h : (if m / 2 ^ c.pre.tagCount c.crewId = 0 then none else some a) = none) : ¬ c.tagMaskBad m = true := by
  simp only [Ctx.tagMaskBad, bne_iff_ne, ne_eq, not_not]
  exact of_ite_none_eq_none h

/-! ### What an issue does not change of what the units read -/

theorem Ctx.zeroRest_found (c : Ctx) (s : State) (d n j : Nat) (h : (find s.gangs c.gid).isSome) :
    (find (c.zeroRest s d n).gangs j).isSome = (find s.gangs j).isSome := by
  unfold Ctx.zeroRest
  split
  · exact (State.writeLanes_regWrite s c.gid d n _ (fun _ => 0) h).found j
  · rfl

@[simp] theorem Ctx.addUni_layer (c : Ctx) (s : State) (o : Ord) (k : OpKind) (l : Nat) : (c.addUni s o k).layer l = s.layer l := rfl

@[simp] theorem Ctx.park_layer (c : Ctx) (s : State) (w : Nat → Wait) (l : Nat) : (c.park s w).layer l = s.layer l := rfl

@[simp] theorem State.setBarrier_next (s : State) (c b : Nat) (x : Barrier) : (s.setBarrier c b x).next = s.next := by
  unfold State.setBarrier
  split <;> rfl

section
variable {i : Instr} {s : State} {u : Issue} (h : Ready i s u)
include h

theorem Ready.issued_next : (s.issued i u).next = s.next := by rw [h.issued_rest]

theorem Ready.issued_layer (l : Nat) : (s.issued i u).layer l = s.layer l := by rw [State.layer, h.issued_rest]; rfl

/-- A barrier of the issuing crew stands past the issue as it did. -/
theorem Ready.issued_barrier (b : Nat) : (s.issued i u).barrier (s.crewOf u) b = s.barrier (s.crewOf u) b := by
  have hlaunch : ∀ n, (s.issued i u).launch n = s.launch n := fun n => by rw [State.launch, h.issued_rest]; rfl
  have hconvoy : ((s.issued i u).convoy (s.convoyAt u)).barriers = (s.convoy (s.convoyAt u)).barriers := by rw [h.issued_convoy]
  unfold State.barrier
  rw [h.issued_crew]
  simp only [hlaunch, show (s.crew (s.crewOf u)).convoy = s.convoyAt u from rfl, hconvoy]

/-! ### An effect at issue -/

/-- An instruction with one result, and a change that its plan names. -/
theorem Ready.completes_result {d : Reg} {n : Nat} {f : Nat → Nat} {eff : Ctx → State → Effect} {post : State → State}
    (hx : exec i s = issueInstr i s eff)
    (he : eff (s.ctx i u) (s.issued i u) = .ok (post ((s.ctx i u).write (s.issued i u) d.toNat n f)))
    (hd : i.info.opnds.getLast?.map (·.reg) = some d) :
    Completes i s u (.result (s.ctx i u) (s.moved i u) d.toNat n f post) := by
  obtain ⟨o, ho, hreg⟩ := Option.map_eq_some_iff.mp hd
  exact ⟨_, h.exec_ok hx he, h.wrote d.toNat n f ⟨o, List.mem_of_getLast? ho, congrArg _ hreg⟩⟩

/-- An instruction that writes no register: its run moves on, and what its plan names changes. -/
theorem Ready.completes_post {eff : Ctx → State → Effect} {post : State → State} (hx : exec i s = issueInstr i s eff)
    (he : eff (s.ctx i u) (s.issued i u) = .ok (post (s.issued i u))) : Completes i s u { gang := s.moved i u, post := post } :=
  ⟨_, h.exec_ok hx he, h.plain⟩

/-- An instruction whose run stands and waits. -/
theorem Ready.completes_stand {eff : Ctx → State → Effect} {post : State → State} {w : Wait} (hx : exec i s = issueInstr i s eff)
    (he : eff (s.ctx i u) (s.issued i u) = .ok (post ((s.ctx i u).park (s.issued i u) fun _ => w))) :
    Completes i s u { gang := s.stands u w, post := post } := by
  have hwrote := h.changes (Gang.moveLanes_moves u.run fun _ t => { t with wait := w, pc := u.pc }) (fun _ => ⟨rfl, rfl, rfl⟩)
    (fun _ => rfl) (fun _ => rfl)
  rw [State.moved, State.moveLanes_ran] at hwrote
  exact ⟨_, h.exec_ok hx he, hwrote⟩

/-- One operation of the whole instruction, and what its unit does at once. -/
theorem Ready.completes_command {eff : Ctx → State → Effect} {o : Ord} {k : OpKind} {post : State → State}
    (hx : exec i s = issueInstr i s eff)
    (he : eff (s.ctx i u) (s.issued i u) = .ok (post ((s.ctx i u).addUni (s.issued i u) o k))) :
    Completes i s u (.command s (s.ctx i u) (s.moved i u) o k post) := by
  refine h.completes_post hx (he.trans ?_)
  rw [Ctx.addUni, h.issued_next]

/-- A tag instruction whose mask names tags the crew holds (R239). -/
theorem Ready.exec_tag {α : Type} {eff : Ctx → State → State} {a : α} (hx : exec i s = tagInstr i s eff)
    (hnone : (if (s.ctx i u).u 0 / 2 ^ (s.ctx i u).pre.tagCount (s.ctx i u).crewId = 0 then none else some a) = none) :
    exec i s = .next (eff (s.ctx i u) (s.issued i u)) := h.exec_ok hx (if_neg (Ctx.not_tagMaskBad hnone))

/-- A ring instruction whose descriptor's address is sound: its operation is counted, and the unit takes it or fails it (R238, R249). -/
theorem Ready.completes_ring {o : Ord} {kind : State → Nat → Ctx → OpKind} {arrive : State → Nat → Nat → Nat → Option State}
    {k : Nat → OpKind} {arr : State → Nat → Option State} (hx : exec i s = ringInstr i o s kind arrive)
    (haddr : ((s.ctx i u).recordAddr (s.issued i u) 0 (s.ctx i u).lane0 o 64 64).2 = none)
    (hk : ∀ off, kind (s.issued i u) off (s.ctx i u) = k off)
    (harr : ∀ off op, arrive ((s.issued i u).addOp op) (s.ctx i u).crewId off s.next = arr ((s.issued i u).addOp op) off) :
    Completes i s u (ringPlan s (s.ctx i u) (s.issued i u) (s.moved i u) o k arr) := by
  unfold ringPlan
  refine h.completes_command hx ?_
  rcases hrec : (s.ctx i u).recordAddr (s.issued i u) 0 (s.ctx i u).lane0 o 64 64 with ⟨ea, bad⟩
  rw [hrec] at haddr
  cases haddr
  simp only [Ctx.addUni, h.issued_next, hk, harr]
  cases (s.issued i u).ringOk (s.ctx i u).crewId ea.toNat <;> rfl

/-- An arrival at a barrier is received, and its operation counted (R223). -/
theorem Ready.completes_arrival {o : Ord} {bar : BitVec 5} {d : Option Reg} (hx : exec i s = barrInstr i bar d o s) :
    Completes i s u (arrivalPlan s (s.ctx i u) (s.moved i u) o bar.toNat d) := by
  refine h.completes_post hx ?_
  have hbar : (s.issued i u).barrier (s.ctx i u).crewId bar.toNat = s.barrier (s.ctx i u).crewId bar.toNat := h.issued_barrier bar.toNat
  simp only [Ctx.addUni, State.setBarrier_next, h.issued_next, hbar]

end

/-! ### Special functions and tags -/

section
variable {s : State} {u : Issue} {q : Plan}

/-- SFQ: ZERO clears the destination, and the request stands in the gang's queue (R147). -/
theorem Ready.completes_sfq {p : OPfx} {d a : Reg} {tok fn : BitVec 4} (h : Ready (.sfq p d a tok fn) s u)
    (hq : wordPlan (.sfq p d a tok fn) s u = some q) : Completes (.sfq p d a tok fn) s u q := by
  cases hq
  have hfound : (find (s.issued (.sfq p d a tok fn) u).gangs u.gang).isSome = true := by rw [h.issued_found]; exact h.gang
  exact ⟨_, h.exec_ok (exec_sfq ..) rfl, (h.zeroed d.toNat 1).move ((Ctx.zeroRest_found _ _ _ _ _ hfound).trans hfound)
    (φ := fun g => { g with sf := g.sf ++ _ }) (fun _ _ _ _ _ _ => rfl) rfl⟩

/-- EBND: a value's read that no replayable fault delays, or a bound converted (R268, R280). -/
theorem Ready.completes_ebnd {p : OPfx} {d a : Reg} {v : BitVec 2} (h : Ready (.ebnd p d a v) s u)
    (hq : wordPlan (.ebnd p d a v) s u = some q) : Completes (.ebnd p d a v) s u q := by
  have hd : (Instr.ebnd p d a v).info.opnds.getLast?.map (·.reg) = some d := by
    rw [info_ebnd]
    split <;> rfl
  by_cases hv : v = 2
  · replace hq := (if_pos hv).symm.trans hq
    obtain ⟨hready, hq⟩ := Option.ite_none_left_eq_some.mp hq
    cases hq
    have hnone : firstSome (fun l => ((s.ctx (.ebnd p d a v) u).valFault l).filter (·.replay))
        (Machine.lanes (s.ctx (.ebnd p d a v) u).act) = none :=
      firstSome_eq_none fun l hl => by
        by_contra hsome
        exact hready (List.any_eq_true.mpr ⟨l, hl, Option.isSome_iff_ne_none.mpr hsome⟩)
    refine h.completes_result (exec_ebnd ..) ((if_pos hv).trans ?_) hd
    simp only [hnone]
  · cases (if_neg hv).symm.trans hq
    exact h.completes_result (exec_ebnd ..) (if_neg hv) hd

/-- TAGF: the lowest READY tag is the result, and is cleared where the instruction says so (R240). -/
theorem Ready.completes_tagf {d a : Reg} {clr : Bool} (h : Ready (.tagf d a clr) s u)
    (hnone : issueTrap (.tagf d a clr) (s.ctx (.tagf d a clr) u) (s.issued (.tagf d a clr) u) = none)
    (hq : wordPlan (.tagf d a clr) s u = some q) : Completes (.tagf d a clr) s u q := by
  cases hq
  have hdst : ∃ o ∈ (Instr.tagf d a clr).info.opnds, o.reg.toNat = d.toNat :=
    ⟨dst d, List.mem_cons_of_mem _ (List.mem_cons_self ..), rfl⟩
  refine ⟨_, (h.exec_tag (exec_tagf ..) hnone).trans ?_, h.wrote d.toNat 1 _ hdst⟩
  simp only [Bool.and_eq_true, decide_eq_true_eq]
  rfl

/-- TAGCLR: the READY and HELD tags of its mask are cleared (R240). -/
theorem Ready.completes_tagclr {a : Reg} (h : Ready (.tagclr a) s u)
    (hnone : issueTrap (.tagclr a) (s.ctx (.tagclr a) u) (s.issued (.tagclr a) u) = none)
    (hq : wordPlan (.tagclr a) s u = some q) : Completes (.tagclr a) s u q := by
  cases hq
  refine ⟨_, (h.exec_tag (exec_tagclr ..) hnone).trans ?_, h.plain⟩
  simp only [Bool.or_eq_true, beq_iff_eq]

/-- WAITY past its wait and its checks, of a tag mask or of a ring's descriptor (R252). -/
theorem Ready.completes_waity {a : Reg} {mode : BitVec 2} (h : Ready (.waity a mode) s u)
    (hnone : issueTrap (.waity a mode) (s.ctx (.waity a mode) u) (s.issued (.waity a mode) u) = none)
    (hq : wordPlan (.waity a mode) s u = some q) : Completes (.waity a mode) s u q := by
  cases hq
  refine h.completes_post (post := id) (exec_waity ..) ?_
  by_cases hmode : mode.toNat ≤ 1
  · exact (if_pos hmode).trans (if_neg (Ctx.not_tagMaskBad ((if_pos hmode).symm.trans hnone)))
  · replace hnone := (if_neg hmode).symm.trans hnone
    refine (if_neg hmode).trans ?_
    cases hscratch : checkScratch ((s.ctx (.waity a mode) u).u 0) 64
      ((s.issued (.waity a mode) u).partition (s.ctx (.waity a mode) u).crewId) <;> simp only [hscratch] at hnone ⊢
    case none => exact if_neg (not_of_ite_eq_none hnone)
    case some => cases hnone

/-! ### Barges and I/O requests -/

/-- BARGE: its tag is pending, its operation counted, and its advance arrives at the ring (R244, R250). -/
theorem Ready.completes_barge {a : Reg} {o : Ord} (h : Ready (.barge a o) s u)
    (hq : wordPlan (.barge a o) s u = some q) : Completes (.barge a o) s u q := by
  unfold wordPlan at hq
  dsimp only at hq
  cases hcheck : (s.ctx (.barge a o) u).bargeCheck (s.issued (.barge a o) u) o with
  | error x => simp only [hcheck] at hq; cases hq
  | ok b =>
    simp only [hcheck] at hq
    cases hq
    refine h.completes_post (exec_barge ..) ?_
    rw [← h.issued_next]
    simp only [hcheck]
    cases b.tag <;> cases b.ring <;> rfl

/-- IOREQ: every active lane's record is read, and one operation is counted (R255, R257). -/
theorem Ready.completes_ioreq {p : OPfx} {a : Reg} {o : Ord} (h : Ready (.ioreq p a o) s u)
    (hnone : issueTrap (.ioreq p a o) (s.ctx (.ioreq p a o) u) (s.issued (.ioreq p a o) u) = none)
    (hq : wordPlan (.ioreq p a o) s u = some q) : Completes (.ioreq p a o) s u q := by
  cases hq
  refine h.completes_command (post := id) (exec_ioreq ..) ?_
  unfold issueTrap at hnone
  dsimp only at hnone
  split at hnone
  · cases hnone
  · next hrecord =>
    have haddr : ∀ l ∈ Machine.lanes (s.ctx (.ioreq p a o) u).act,
        ((s.ctx (.ioreq p a o) u).recordAddr (s.issued (.ioreq p a o) u) 0 l o 32 32).2 = none :=
      fun l hl => Option.map_eq_none_iff.mp (forall_of_firstSome_eq_none hrecord l hl)
    have hparsed : (Machine.lanes (s.ctx (.ioreq p a o) u).act).find?
        (fun l => ((s.ctx (.ioreq p a o) u).ioRecord (s.issued (.ioreq p a o) u) o l).isNone) = none :=
      List.find?_eq_none.mpr fun l hl => not_of_ite_eq_none (Option.map_eq_none_iff.mp (forall_of_firstSome_eq_none hnone l hl))
    rw [Ctx.checked_of_none fun l hl => haddr l ((mem_lanes _ _).mpr hl), hparsed]
    rfl

/-! ### Tickets and locks -/

/-- TKTW goes on where the ticket is reached, and stands where it is not (R227). -/
theorem Ready.completes_tktw {x y : Reg} (h : Ready (.tktw x y) s u)
    (hnone : issueTrap (.tktw x y) (s.ctx (.tktw x y) u) (s.issued (.tktw x y) u) = none)
    (hq : wordPlan (.tktw x y) s u = some q) : Completes (.tktw x y) s u q := by
  cases hq
  by_cases hserved : s.reached (s.ctx (.tktw x y) u).layer ((s.ctx (.tktw x y) u).u 0) ((s.ctx (.tktw x y) u).u 1) = true
  · rw [if_pos hserved]
    exact h.completes_post (post := id) (exec_tktw ..) ((if_neg (not_badName hnone)).trans (if_pos hserved))
  · rw [if_neg hserved]
    exact h.completes_stand (post := id) (exec_tktw ..) ((if_neg (not_badName hnone)).trans (if_neg hserved))

/-- QLK: the run stands, and the gang joins the lock's FIFO or its operation fails (R230). -/
theorem Ready.completes_qlk {d x : Reg} {o : Ord} (h : Ready (.qlk d x o) s u)
    (hnone : issueTrap (.qlk d x o) (s.ctx (.qlk d x o) u) (s.issued (.qlk d x o) u) = none)
    (hq : wordPlan (.qlk d x o) s u = some q) : Completes (.qlk d x o) s u q := by
  cases hq
  refine h.completes_stand (exec_qlk ..) ((if_neg (not_badName hnone)).trans ?_)
  rw [← h.issued_next]
  simp only [Ctx.addUni_layer, Ctx.park_layer, h.issued_layer]
  exact (apply_ite Effect.ok ..).symm

/-- QUL: the holder's release is counted, another's fails (R230). -/
theorem Ready.completes_qul {x : Reg} {o : Ord} (h : Ready (.qul x o) s u)
    (hnone : issueTrap (.qul x o) (s.ctx (.qul x o) u) (s.issued (.qul x o) u) = none)
    (hq : wordPlan (.qul x o) s u = some q) : Completes (.qul x o) s u q := by
  cases hq
  refine h.completes_command (exec_qul ..) ((if_neg (not_badName hnone)).trans ?_)
  rw [← h.issued_next, ← h.issued_layer]
  exact (apply_ite Effect.ok ..).symm

end

/-- Settles O13, instruction by instruction; the table holds no other. -/
theorem wordsComplete : Obligations.WordsComplete := by
  intro i s u p h hnone hp
  change Completes i s u p
  cases i
  -- Special functions and what is read of intervals and of the system (R147, R280, R281, R392, R414, R426).
  case sfq => exact h.completes_sfq hp
  case ewid => cases hp; exact h.exec_result (exec_ewid ..) rfl
  case ebnd => exact h.completes_ebnd hp
  case csrr => cases hp; exact h.completes_result (exec_csrr ..) rfl rfl
  case slotr => cases hp; exact h.completes_result (exec_slotr ..) rfl rfl
  case qlen => cases hp; exact h.completes_result (exec_qlen ..) rfl rfl
  -- Tags, barges and rings (R240, R244, R250, R252, R255).
  case tagw => cases hp; exact ⟨_, h.exec_tag (exec_tagw ..) hnone, h.plain⟩
  case tagf => exact h.completes_tagf hnone hp
  case tagclr => exact h.completes_tagclr hnone hp
  case waity => exact h.completes_waity hnone hp
  case rawait =>
    cases hp
    exact h.completes_ring (exec_rawait ..) (Option.map_eq_none_iff.mp hnone) (fun _ => rfl) fun _ _ => rfl
  case rarel => cases hp; exact h.completes_ring (exec_rarel ..) (Option.map_eq_none_iff.mp hnone) (fun _ => rfl) fun _ _ => rfl
  case rapub => cases hp; exact h.completes_ring (exec_rapub ..) (Option.map_eq_none_iff.mp hnone) (fun _ => rfl) fun _ _ => rfl
  case barge => exact h.completes_barge hp
  case ioreq => exact h.completes_ioreq hnone hp
  -- Barriers (R223 to R225).
  case barr => cases hp; exact h.completes_arrival (d := none) (exec_barr ..)
  case barrPhase d b o => cases hp; exact h.completes_arrival (d := some d) (exec_barrPhase ..)
  case barw => cases hp; exact h.completes_command (exec_barw ..) rfl
  case bars => cases hp; exact h.completes_command (post := id) (exec_bars ..) (if_neg (by have := of_ite_none_eq_none hnone; omega))
  -- Tickets and locks (R226, R227, R230).
  case tkt => cases hp; exact h.completes_command (post := id) (exec_tkt ..) (if_neg (not_badName hnone))
  case tktw => exact h.completes_tktw hnone hp
  case tktsNext => cases hp; exact h.completes_command (post := id) (exec_tktsNext ..) (if_neg (not_badName hnone))
  case tktsSet => cases hp; exact h.completes_command (post := id) (exec_tktsSet ..) (if_neg (not_badName hnone))
  case qlk => exact h.completes_qlk hnone hp
  case qul => exact h.completes_qul hnone hp
  all_goals exact nomatch hp

end Sys2Proof.Machine
end

section
/-! PROOFS. An operation that completes: the words its destination receives, and that no other operation changes (spec/06_streams.md R155,
R162, spec/07_access.md R190, spec/02_formats.md R60). -/

namespace Sys2Proof.Machine

/-! ### Operations past a change of registers, and without one of them -/

theorem RegWrite.opAt {gid : Nat} {s t : State} (h : RegWrite gid s t) (j : Nat) : t.opAt j = s.opAt j := by
  rw [h.rest]
  rfl

theorem State.opAt_removeOp (s : State) (i j : Nat) : (s.removeOp i).opAt j = if i = j then none else s.opAt j := find_erase s.ops i j

@[simp] theorem State.gang_removeOp (s : State) (i g : Nat) : (s.removeOp i).gang g = s.gang g := rfl

/-! ### The words of a destination in v registers -/

/-- The live lanes of a destination, which alone are written (R92, R162). -/
def Gang.destLanes (g : Gang) (d : Dest) : List Nat := lanes (d.lanes &&& g.live)

theorem Gang.mem_destLanes {g : Gang} {d : Dest} {l : Nat} :
    l ∈ g.destLanes d ↔ hasLane d.lanes l = true ∧ hasLane g.live l = true := by
  rw [Gang.destLanes, mem_lanes, hasLane_and, Bool.and_eq_true]

theorem Gang.destLanes_lt {g : Gang} {d : Dest} : ∀ l ∈ g.destLanes d, l < 32 :=
  fun _ h => hasLane_lt ((mem_lanes _ _).mp h)

theorem State.writeDest_v {s : State} {gid : Nat} {d : Dest} (hv : d.reg < 192) (f : Nat → Nat) :
    s.writeDest gid d f = ((s.gang gid).destLanes d).foldl (fun t l => t.writeVs gid d.reg d.n l (f l)) s := if_pos hv

theorem State.writeDest_regWrite {s : State} {gid : Nat} {d : Dest} (hv : d.reg < 192) (h : (find s.gangs gid).isSome) (f : Nat → Nat) :
    RegWrite gid s (s.writeDest gid d f) := by
  rw [State.writeDest_v hv]
  exact s.writeLanes_regWrite gid d.reg d.n _ f h

theorem State.writeDest_gang {s : State} {gid : Nat} {d : Dest} (hv : d.reg < 192) (h : (find s.gangs gid).isSome) (f : Nat → Nat) :
    (s.writeDest gid d f).gang gid = (s.gang gid).putLanes ((s.gang gid).destLanes d) d.reg d.n f := by
  rw [State.writeDest_v hv]
  exact s.writeLanes_gang gid d.reg d.n _ f h

/-- A lane that is written holds its words where no reference stood. -/
theorem Gang.vreg_putLanes_written {g : Gang} {ls : List Nat} {r n k l : Nat} (f : Nat → Nat) (hls : ∀ l ∈ ls, l < 32) (hnd : ls.Nodup)
    (hl : l ∈ ls) (hk : k < n) (hv : g.hvAt ((r + k) / 4) l = false) :
    (g.putLanes ls r n f).vreg (r + k) l = f l / 2 ^ (32 * k) % 2 ^ 32 := by
  rw [Gang.vreg_putLanes g ls r n f _ l hls hnd (hls l hl), if_pos hl, if_pos (by omega), if_neg (by simp [hv]), Nat.add_sub_cancel_left]

/-- Another lane keeps its words, and so does every e register that the words do not lie in. -/
theorem Gang.vreg_putLanes_kept {g : Gang} {ls : List Nat} {r n k l : Nat} (f : Nat → Nat) (hls : ∀ l ∈ ls, l < 32) (hnd : ls.Nodup)
    (hl : l < 32) (h : l ∉ ls ∨ touches r n (k / 4) = false) : (g.putLanes ls r n f).vreg k l = g.vreg k l := by
  rw [Gang.vreg_putLanes g ls r n f k l hls hnd hl]
  obtain hout | hout := h
  · exact if_neg hout
  · have hk : ¬ (r ≤ k ∧ k < r + n) := fun hin => by
      have htouch := (touches_iff r n (k / 4)).mpr (by omega)
      exact absurd (htouch.symm.trans hout) (by decide)
    simp [hk, hout]

/-! ### Completion -/

section
variable {s : State} {i : Nat} {o : Op} {d : Dest}

theorem State.complete_some (ho : s.opAt i = some o) (x : Nat) :
    s.complete i (some d) x = (s.writeDest o.gang d fun _ => x).removeOp i := by
  rw [State.complete, ho]

theorem State.opAt_complete (ho : s.opAt i = some o) (hv : d.reg < 192) (hg : (find s.gangs o.gang).isSome) (x j : Nat) :
    (s.complete i (some d) x).opAt j = if i = j then none else s.opAt j := by
  rw [State.complete_some ho, State.opAt_removeOp, (State.writeDest_regWrite hv hg _).opAt]

theorem State.gang_complete (ho : s.opAt i = some o) (hv : d.reg < 192) (hg : (find s.gangs o.gang).isSome) (x : Nat) :
    (s.complete i (some d) x).gang o.gang =
      (s.gang o.gang).putLanes ((s.gang o.gang).destLanes d) d.reg d.n fun _ => x := by
  rw [State.complete_some ho, State.gang_removeOp, State.writeDest_gang hv hg]

end

/-- Settles O55: a completion writes the live lanes of its destination and takes its own operation off the list. -/
theorem completionRule : Obligations.CompletionRule := by
  intro s i o d x ho hg hn hreg t
  have hv : d.reg < 192 := by omega
  have hops := State.opAt_complete ho hv hg x
  have hgang : t.gang o.gang = _ := State.gang_complete ho hv hg x
  have hls := Gang.destLanes_lt (g := s.gang o.gang) (d := d)
  have hnd : ((s.gang o.gang).destLanes d).Nodup := lanes_nodup _
  refine ⟨(hops i).trans (if_pos rfl), fun j hj => (hops j).trans (if_neg (Ne.symm hj)), ?words, ?kept, ?references⟩
  case words =>
    intro l k _ hk hdest hlive hfree
    rw [hgang]
    exact Gang.vreg_putLanes_written _ hls hnd (Gang.mem_destLanes.mpr ⟨hdest, hlive⟩) hk hfree
  case kept =>
    intro l r hl _ hout
    rw [hgang]
    refine Gang.vreg_putLanes_kept _ hls hnd hl ?_
    rw [Gang.mem_destLanes, ← Bool.not_eq_true, touches_iff]
    obtain hdest | hlive | hbelow | habove := hout
    · exact .inl fun h => absurd (h.1.symm.trans hdest) (by decide)
    · exact .inl fun h => absurd (h.2.symm.trans hlive) (by decide)
    · exact .inr (by omega)
    · exact .inr (by omega)
  case references =>
    intro l k hl _ hlow hhigh hdest hlive
    rw [hgang, Gang.hvAt_putLanes _ _ _ _ _ _ _ hls hl, decide_eq_true (Gang.mem_destLanes.mpr ⟨hdest, hlive⟩),
      (touches_iff _ _ _).mpr ⟨hn, by omega, hhigh⟩]
    exact Bool.and_false _

end Sys2Proof.Machine
end

section
/-! PROOFS. Completions of memory operations, translation, barriers, tickets, locks, sleeps and the aqueduct (spec/03_control.md R80, R101,
spec/06_streams.md R155, R162, R178, spec/07_access.md R190 to R200, R207, spec/08_atomics.md R213 to R231, spec/16_stack.md R405 to R414):
where the table calls an act due, the act leaves the table's state. -/

namespace Sys2Proof.Machine

/-! ### Changes of threads -/

theorem hasLane_allOnes (l : Nat) : hasLane (BitVec.allOnes 32) l = decide (l < 32) := BitVec.getLsbD_allOnes

/-- A change of the threads that a test picks, of every lane: the lanes are those below 32 (R11). -/
theorem State.modLanes_allOnes_ite (s : State) (gid : Nat) (p : Thread → Prop) [DecidablePred p] (f : Thread → Thread) :
    s.modLanes gid (BitVec.allOnes 32) (fun _ th => if p th then f th else th) =
      s.modGang gid fun g => { g with threads := g.threads.mapIdx fun l th => if l < 32 ∧ p th then f th else th } := by
  simp only [State.modLanes, hasLane_allOnes, decide_eq_true_eq, ite_and]

/-- A change of threads that lets go those a wake lets go is the wake. -/
theorem State.wake_eq {s : State} {gid n : Nat} {p : Wait → Bool} {f : Thread → Thread}
    (hf : ∀ th, f th = if p th.wait then { th with wait := .none, pc := th.pc + n } else th) :
    s.modGang gid (fun g => { g with threads := g.threads.map f }) = s.wake gid n p := by
  rw [funext hf]
  rfl

/-! ### What a read leaves of the operations -/

theorem alter_congr {α : Type} {m : List (Nat × α)} {k : Nat} {x : α} {f g : α → α} (hx : find m k = some x) (hfg : f x = g x) :
    alter m k f = alter m k g := by
  induction m with
  | nil => rfl
  | cons p r ih =>
    obtain ⟨a, y⟩ := p
    simp only [find, alter] at hx ⊢
    by_cases ha : a = k
    · obtain rfl : y = x := Option.some.inj ((if_pos ha).symm.trans hx)
      rw [if_pos ha, if_pos ha, hfg]
    · rw [if_neg ha, if_neg ha, ih ((if_neg ha).symm.trans hx)]

/-- What a change makes of an operation is a matter of that operation alone. -/
theorem State.modOp_congr {s : State} {i : Nat} {o : Op} {f g : Op → Op} (ho : s.opAt i = some o) (hfg : f o = g o) :
    s.modOp i f = s.modOp i g :=
  congrArg (fun l => { s with ops := l }) (alter_congr ho hfg)

/-- A read that nothing stops leaves the state, but for a corrected error's count (R451). -/
theorem State.readMeets_ok {s w : State} {o : Op} {p : Place} {ea n : Nat} (h : s.readMeets o p ea n = .ok w) :
    w = s ∨ w = s.countCorrected o.layer := by
  simp only [State.readMeets] at h
  split at h
  · cases h
  split at h
  · cases h
  split at h
  · cases h
  all_goals
    split at h <;> cases h
  · exact .inr rfl
  · exact .inl rfl

theorem State.readMeets_opAt {s w : State} {o : Op} {p : Place} {ea n : Nat} (h : s.readMeets o p ea n = .ok w) (j : Nat) :
    w.opAt j = s.opAt j := by
  obtain rfl | rfl := State.readMeets_ok h <;> rfl

section
variable {s t : State}

/-! ### Sleeps, starvation turns and special functions -/

theorem exec_sleepEnd_of_due (h : memoryAct .sleepEnd s = some t) : exec .sleepEnd s = .next t := by
  simp only [memoryAct] at h
  split at h
  case h_2 => cases h
  next wake hwait =>
  obtain ⟨hover, hx⟩ := Option.ite_none_right_eq_some.mp h
  cases hx
  simp only [exec_sleepEnd, execSleepEnd, hwait]
  exact (if_pos hover).trans (congrArg _ (State.modLanes_allOnes_ite ..))

theorem exec_starvationTurn_of_due (h : memoryAct .starvationTurn s = some t) : exec .starvationTurn s = .next t := by
  obtain ⟨hstarved, hx⟩ := Option.ite_none_right_eq_some.mp h
  cases hx
  rw [exec_starvationTurn, execStarvationTurn]
  exact if_pos hstarved

theorem exec_sfqComplete_of_due (h : memoryAct .sfqComplete s = some t) : exec .sfqComplete s = .next t := by
  rcases hreq : (s.gang s.choice.target).sf.find? (·.tok == s.choice.unit) with _ | r <;> simp only [memoryAct, hreq, reduceCtorEq] at h
  obtain ⟨hfirst, hx⟩ := Option.ite_none_right_eq_some.mp h
  cases hx
  simp only [exec_sfqComplete, execSfqComplete, hreq]
  exact if_neg (by simp [hfirst])

/-! ### Loads -/

theorem exec_loadComplete_of_due (h : memoryAct .loadComplete s = some t) : exec .loadComplete s = .next t := by
  rcases hop : s.opAt s.choice.target with _ | o <;> simp only [memoryAct, hop, reduceCtorEq] at h
  split at h
  case h_2 => cases h
  next ea size ty d p hkind hplace =>
  simp only [exec_loadComplete, execLoadComplete, hop, hkind, hplace]
  obtain ⟨hfree, h⟩ := Option.ite_none_left_eq_some.mp h
  rw [if_neg hfree]
  by_cases hearly : s.choice.unit = 1
  · obtain ⟨hreads, hx⟩ := Option.ite_none_right_eq_some.mp ((if_pos hearly).symm.trans h)
    cases hx
    rw [if_pos hearly, if_pos hreads]
  · obtain ⟨hmet, h⟩ := Option.ite_none_left_eq_some.mp ((if_neg hearly).symm.trans h)
    rw [if_neg hearly, if_neg hmet]
    rcases hmeets : s.readMeets o p ea size with ⟨w, cause, faddr⟩ | w <;> simp only [hmeets] at h ⊢ <;> cases h <;> rfl

/-! ### Stores and prefetches -/

/-- A store that may come to stand in the store buffer, or be shown to more agents there: the table asks what the act tests (R158, R200). -/
theorem Op.entersBuffer_iff {o : Op} {v : Nat} {b : Bool} :
    (decide (Nat.min o.scope 2 < v) || (o.buffered && decide (v ≤ o.shown)) || !b) = false ↔
      v ≤ Nat.min o.scope 2 ∧ (o.buffered = false ∨ o.shown < v) ∧ b = true := by
  cases o.buffered <;> simp [and_assoc]

theorem exec_storeComplete_of_due (h : memoryAct .storeComplete s = some t) : exec .storeComplete s = .next t := by
  rcases hop : s.opAt s.choice.target with _ | o <;> simp only [memoryAct, hop, reduceCtorEq] at h
  split at h
  case h_2 => cases h
  next ea data p hkind hplace =>
  simp only [exec_storeComplete, execStoreComplete, hop, hkind, hplace]
  obtain ⟨hlocal, h⟩ := Option.ite_none_left_eq_some.mp h
  rw [if_neg hlocal]
  by_cases hvisible : o.visible = true
  · cases (if_pos hvisible).symm.trans h
    rw [if_pos hvisible]
  replace h := (if_neg hvisible).symm.trans h
  rw [if_neg hvisible]
  by_cases hleak : p.cached = true ∧ o.vol = false ∧ s.choice.unit = 4
  · obtain ⟨hcan, hx⟩ := Option.ite_none_right_eq_some.mp ((if_pos hleak).symm.trans h)
    cases hx
    rw [if_pos (by simp [hleak]), if_pos hcan]
  replace h := (if_neg hleak).symm.trans h
  rw [if_neg (by simpa [and_assoc] using hleak)]
  by_cases hbuffer : p.cached = true ∧ o.vol = false ∧ (s.choice.unit ≠ 0 ∨ (o.scope = 0 ∧ o.buffered = false))
  · obtain ⟨henters, hx⟩ := Option.ite_none_right_eq_some.mp ((if_pos hbuffer).symm.trans h)
    cases hx
    rw [if_pos (by simpa [and_assoc] using hbuffer), Op.entersBuffer_iff.mpr henters, if_neg Bool.false_ne_true]
    exact (apply_ite Host.Outcome.next ..).symm
  replace h := (if_neg hbuffer).symm.trans h
  rw [if_neg (by simpa [and_assoc] using hbuffer)]
  by_cases hposted : (!o.buffered && (s.siblings s.choice.target o).all (·.2.posted)) = true
  · obtain ⟨hcan, hx⟩ := Option.ite_none_right_eq_some.mp ((if_pos hposted).symm.trans h)
    cases hx
    rw [if_pos hposted, if_pos hcan]
  obtain ⟨hready, h⟩ := Option.ite_none_left_eq_some.mp ((if_neg hposted).symm.trans h)
  rw [if_neg hposted, if_neg hready]
  rcases hhost : p.isHost && !o.posted <;> rcases hanswer : s.choice.answer <;> simp only [hhost, hanswer] at h ⊢ <;> cases h <;>
    simp only [apply_ite Host.Outcome.next]

theorem exec_prefetchComplete_of_due (h : memoryAct .prefetchComplete s = some t) : exec .prefetchComplete s = .next t := by
  rcases hop : s.opAt s.choice.target with _ | o <;> simp only [memoryAct, hop] at h
  case none =>
    rcases htr : s.translate s.choice.layer 0 .fetch false s.choice.value with p | _ <;> simp only [htr, reduceCtorEq] at h
    cases h
    simp only [exec_prefetchComplete, execPrefetchComplete, hop, htr]
  case some =>
    split at h
    case h_2 => cases h
    next ea lvl hkind =>
    simp only [exec_prefetchComplete, execPrefetchComplete, hop, hkind]
    obtain ⟨hready, h⟩ := Option.ite_none_left_eq_some.mp h
    rw [if_neg hready]
    rcases hhit : s.tlbHit o.layer (s.viaOf o.crew) ea with _ | e <;>
      rcases htr : s.translate o.layer (s.viaOf o.crew) .read false ea with p | _ <;> simp only [hhit, htr] at h ⊢ <;> cases h <;> rfl

/-! ### Translation and failure -/

theorem exec_pageTableWalk_of_due (h : memoryAct .pageTableWalk s = some t) : exec .pageTableWalk s = .next t := by
  rcases hop : s.opAt s.choice.target with _ | o <;> simp only [memoryAct, hop, reduceCtorEq] at h
  obtain ⟨hwalks, h⟩ := Option.ite_none_right_eq_some.mp h
  obtain ⟨x, haccess, rfl⟩ := Option.map_eq_some_iff.mp h
  simp only [exec_pageTableWalk, execPageTableWalk, hop, haccess]
  exact if_pos hwalks

theorem exec_replay_of_due (h : memoryAct .replay s = some t) : exec .replay s = .next t := by
  cases h
  rfl

theorem exec_operationFailure_of_due (h : memoryAct .operationFailure s = some t) : exec .operationFailure s = .next t := by
  rcases hop : s.opAt s.choice.target with _ | o <;> simp only [memoryAct, hop, reduceCtorEq] at h
  obtain ⟨hown, h⟩ := Option.ite_none_left_eq_some.mp h
  obtain ⟨x, hfailed, rfl⟩ := Option.map_eq_some_iff.mp h
  simp only [exec_operationFailure, execOperationFailure, hop, hfailed]
  exact if_neg hown

theorem exec_hostCompletionTimeout_of_due (h : memoryAct .hostCompletionTimeout s = some t) : exec .hostCompletionTimeout s = .next t := by
  rcases hop : s.opAt s.choice.target with _ | o <;> simp only [memoryAct, hop, reduceCtorEq] at h
  split at h
  case h_2 => cases h
  next port addr hplace =>
  obtain ⟨hlate, hx⟩ := Option.ite_none_right_eq_some.mp h
  cases hx
  simp only [exec_hostCompletionTimeout, execHostCompletionTimeout, hop, hplace]
  exact if_pos hlate

/-! ### Atomics -/

/-- A host aborts the group, or one of its lanes (R217); otherwise the group is performed, or meets a storage error (R451). -/
theorem exec_atomicPerform_of_due (h : memoryAct .atomicPerform s = some t) : exec .atomicPerform s = .next t := by
  rcases hop : s.opAt s.choice.target with _ | o <;> simp only [memoryAct, hop, reduceCtorEq] at h
  split at h
  case h_2 => cases h
  next ea size op ty rnd x y d p hkind hplace =>
  obtain ⟨hready, h⟩ := Option.ite_none_left_eq_some.mp h
  split at h
  case h_1 hanswer hlane _ =>
    cases h
    simp only [exec_atomicPerform, execAtomicPerform, hop, hkind, hplace, hanswer, hlane]
    exact (if_neg hready).trans (apply_ite Host.Outcome.next ..).symm
  case h_2 hanswer hlane _ =>
    cases h
    simp only [exec_atomicPerform, execAtomicPerform, hop, hkind, hplace, hanswer, hlane]
    exact if_neg hready
  case h_3 hone hall =>
    simp only [exec_atomicPerform, execAtomicPerform, hop, hkind, hplace]
    rw [if_neg hready]
    rcases hmeets : s.readMeets o _ ea size with ⟨w, cause, faddr⟩ | w <;> simp only [hmeets] at h ⊢ <;> cases h <;> rfl

theorem exec_atomicComplete_of_due (h : memoryAct .atomicComplete s = some t) : exec .atomicComplete s = .next t := by
  rcases hop : s.opAt s.choice.target with _ | o <;> simp only [memoryAct, hop, reduceCtorEq] at h
  split at h
  case h_2 => cases h
  next d old hkind =>
  obtain ⟨hfree, hx⟩ := Option.ite_none_left_eq_some.mp h
  cases hx
  simp only [exec_atomicComplete, execAtomicComplete, hop, hkind]
  exact if_neg hfree

/-! ### Barriers and tickets -/

theorem exec_barrierArrivalCounts_of_due (h : memoryAct .barrierArrivalCounts s = some t) : exec .barrierArrivalCounts s = .next t := by
  rcases hop : s.opAt s.choice.target with _ | o <;> simp only [memoryAct, hop, reduceCtorEq] at h
  obtain ⟨hready, h⟩ := Option.ite_none_left_eq_some.mp h
  split at h
  case h_3 => cases h
  all_goals
    next hkind =>
    cases h
    simp only [exec_barrierArrivalCounts, execBarrierArrivalCounts, hop, hkind]
    exact if_neg hready

theorem exec_barsActs_of_due (h : memoryAct .barsActs s = some t) : exec .barsActs s = .next t := by
  rcases hop : s.opAt s.choice.target with _ | o <;> simp only [memoryAct, hop, reduceCtorEq] at h
  split at h
  case h_2 => cases h
  next b x hkind =>
  obtain ⟨hready, hx⟩ := Option.ite_none_left_eq_some.mp h
  cases hx
  simp only [exec_barsActs, execBarsActs, hop, hkind]
  exact if_neg hready

theorem exec_tktComplete_of_due (h : memoryAct .tktComplete s = some t) : exec .tktComplete s = .next t := by
  rcases hop : s.opAt s.choice.target with _ | o <;> simp only [memoryAct, hop, reduceCtorEq] at h
  split at h
  case h_2 => cases h
  next x d hkind =>
  obtain ⟨hready, hx⟩ := Option.ite_none_left_eq_some.mp h
  cases hx
  simp only [exec_tktComplete, execTktComplete, hop, hkind]
  exact if_neg hready

theorem exec_tktsUpdate_of_due (h : memoryAct .tktsUpdate s = some t) : exec .tktsUpdate s = .next t := by
  rcases hop : s.opAt s.choice.target with _ | o <;> simp only [memoryAct, hop, reduceCtorEq] at h
  split at h
  case h_2 => cases h
  next x y hkind =>
  obtain ⟨hready, hx⟩ := Option.ite_none_left_eq_some.mp h
  cases hx
  simp only [exec_tktsUpdate, execTktsUpdate, hop, hkind]
  refine (if_neg hready).trans ?_
  cases y <;> rfl

theorem exec_tktwWake_of_due (h : memoryAct .tktwWake s = some t) : exec .tktwWake s = .next t := by
  obtain ⟨hseated, hx⟩ := Option.ite_none_right_eq_some.mp h
  cases hx
  simp only [exec_tktwWake, execTktwWake]
  rw [if_neg (by simp [hseated])]
  refine congrArg _ (State.wake_eq fun th => ?_)
  rcases hwait : th.wait with _ | _ | _ | _ | ⟨_, _, _ | _⟩ | _ | _ | _ | _ <;> rfl

theorem exec_slotwWake_of_due (h : memoryAct .slotwWake s = some t) : exec .slotwWake s = .next t := by
  obtain ⟨hseated, hx⟩ := Option.ite_none_right_eq_some.mp h
  cases hx
  simp only [exec_slotwWake, execSlotwWake]
  rw [if_neg (by simp [hseated])]
  refine congrArg _ (State.wake_eq fun th => ?_)
  cases hwait : th.wait <;> rfl

/-! ### Queue locks -/

theorem Op.eq_update (p : Op) {k : OpKind} {c : Bool} (hk : p.kind = k) (hc : p.captured = c) : p = { p with kind := k, captured := c } := by
  subst hk hc
  rfl

/-- The lock passes to its first waiter; a QLK that holds it then completes, and one that does not, or is captured, stays (R230). -/
theorem exec_qlkGrant_of_due (h : memoryAct .qlkGrant s = some t) : exec .qlkGrant s = .next t := by
  rcases hop : s.opAt s.choice.target with _ | o <;> simp only [memoryAct, hop, reduceCtorEq] at h
  split at h
  case h_2 => cases h
  next x d v hkind =>
  obtain ⟨hready, h⟩ := Option.ite_none_left_eq_some.mp h
  simp only [exec_qlkGrant, execQlkGrant, hop, hkind]
  rw [if_neg hready]
  rcases hgranted : (s.grantLock o.layer x).opAt s.choice.target with _ | p <;> simp only [hgranted] at h ⊢
  · cases h
    rfl
  split
  case h_1 hp =>
    cases hp
    exact congrArg _ (Option.some.inj h)
  case h_2 hother =>
    split at h
    case h_2 =>
      cases h
      rfl
    next hholds =>
    by_cases hcaptured : p.captured = true
    · cases (if_pos hcaptured).symm.trans h
      rfl
    · exfalso
      apply hother
      exact congrArg some (p.eq_update hholds (Bool.eq_false_iff.mpr hcaptured))

theorem exec_qulRelease_of_due (h : memoryAct .qulRelease s = some t) : exec .qulRelease s = .next t := by
  rcases hlive : s.live? with _ | o <;> simp only [memoryAct, hlive, reduceCtorEq] at h
  obtain ⟨hop, hcaptured, hfailed, hmet⟩ := State.live?_spec hlive
  split at h
  case h_2 => cases h
  next x hkind =>
  cases h
  simp only [exec_qulRelease, execQulRelease, hop, hkind]
  exact if_neg (by simp [hcaptured, hfailed, hmet])

/-! ### The aqueduct -/

theorem State.nextKey_eq_max (s : State) : s.nextKey = Nat.max (4 * s.slots) s.aqKey := by
  change (if s.aqKey ≤ 4 * s.slots then 4 * s.slots else s.aqKey) = max (4 * s.slots) s.aqKey
  split <;> omega

theorem exec_aqueductSlot_of_due (h : memoryAct .aqueductSlot s = some t) : exec .aqueductSlot s = .next t := by
  obtain ⟨⟨hready, -⟩, hx⟩ := Option.ite_none_right_eq_some.mp h
  cases hx
  rw [exec_aqueductSlot, execAqueductSlot, if_neg (by simp [hready]), State.channels, State.nextKey_eq_max]

theorem exec_aqueductWriteApply_of_due (h : memoryAct .aqueductWriteApply s = some t) : exec .aqueductWriteApply s = .next t := by
  rcases hop : s.opAt s.choice.target with _ | o <;> simp only [memoryAct, hop, reduceCtorEq] at h
  split at h
  case h_2 => cases h
  next k l r off hkey hplace =>
  split at h
  case h_3 => cases h
  case h_1 ea data hkind =>
    obtain ⟨⟨hturn, hbefore⟩, hx⟩ := Option.ite_none_right_eq_some.mp h
    cases hx
    simp only [exec_aqueductWriteApply, execAqueductWriteApply, hop, hkey, hplace, hkind]
    exact if_neg (by simp [hturn, hbefore])
  case h_2 ea data hkind =>
    simp only [exec_aqueductWriteApply, execAqueductWriteApply, hop, hkey, hplace, hkind]
    by_cases hvisible : o.visible = true
    · cases (if_pos hvisible).symm.trans h
      rw [if_pos hvisible]
    · obtain ⟨hready, hx⟩ := Option.ite_none_right_eq_some.mp ((if_neg hvisible).symm.trans h)
      cases hx
      rw [if_neg hvisible]
      exact if_neg (by simp [hready])

/-- An RCHK reads at its turn, with the members as its slot found them, and writes its destination once there is room (R410). -/
theorem exec_rchkComplete_of_due (h : memoryAct .rchkComplete s = some t) : exec .rchkComplete s = .next t := by
  rcases hop : s.opAt s.choice.target with _ | o <;> simp only [memoryAct, hop, reduceCtorEq] at h
  split at h
  case h_3 => cases h
  case h_1 ea d x k hkind hkey =>
    obtain ⟨hroom, hx⟩ := Option.ite_none_left_eq_some.mp h
    cases hx
    simp only [exec_rchkComplete, execRchkComplete, hop, hkind, hkey]
    exact if_neg hroom
  case h_2 ea d k l r off hkind hkey hplace =>
    obtain ⟨hturn, h⟩ := Option.ite_none_left_eq_some.mp h
    simp only [exec_rchkComplete, execRchkComplete, hop, hkind, hkey, hplace]
    rw [if_neg hturn]
    rcases hmeets : s.readMeets o (.replica l r off) ea 64 with ⟨w, cause, faddr⟩ | w <;> simp only [hmeets] at h ⊢ <;> cases h
    · rfl
    · exact congrArg _ (State.modOp_congr ((State.readMeets_opAt hmeets _).trans hop) rfl)

theorem exec_resyncComplete_of_due (h : memoryAct .resyncComplete s = some t) : exec .resyncComplete s = .next t := by
  rcases hop : s.opAt s.choice.target with _ | o <;> simp only [memoryAct, hop, reduceCtorEq] at h
  split at h
  case h_2 => cases h
  next ea k l r off hkind hkey hplace =>
  by_cases hvisible : o.visible = true
  · obtain ⟨hawake, hx⟩ := Option.ite_none_right_eq_some.mp ((if_pos hvisible).symm.trans h)
    cases hx
    simp only [exec_resyncComplete, execResyncComplete, hop, hkind, hkey, hplace]
    rw [if_pos hvisible, if_pos hawake]
  · obtain ⟨hturn, h⟩ := Option.ite_none_left_eq_some.mp ((if_neg hvisible).symm.trans h)
    split at h
    all_goals
      next hpoison =>
      cases h
      simp only [exec_resyncComplete, execResyncComplete, hop, hkind, hkey, hplace, hpoison]
      rw [if_neg hvisible, if_neg hturn]

end

/-- Settles O20, act by act; the table holds no other. -/
theorem memoryActsComplete : Obligations.MemoryActsComplete := by
  intro a s t h
  cases a
  case sleepEnd => exact exec_sleepEnd_of_due h
  case starvationTurn => exact exec_starvationTurn_of_due h
  case sfqComplete => exact exec_sfqComplete_of_due h
  case loadComplete => exact exec_loadComplete_of_due h
  case storeComplete => exact exec_storeComplete_of_due h
  case prefetchComplete => exact exec_prefetchComplete_of_due h
  case pageTableWalk => exact exec_pageTableWalk_of_due h
  case replay => exact exec_replay_of_due h
  case operationFailure => exact exec_operationFailure_of_due h
  case hostCompletionTimeout => exact exec_hostCompletionTimeout_of_due h
  case atomicPerform => exact exec_atomicPerform_of_due h
  case atomicComplete => exact exec_atomicComplete_of_due h
  case barrierArrivalCounts => exact exec_barrierArrivalCounts_of_due h
  case barsActs => exact exec_barsActs_of_due h
  case tktComplete => exact exec_tktComplete_of_due h
  case tktsUpdate => exact exec_tktsUpdate_of_due h
  case tktwWake => exact exec_tktwWake_of_due h
  case slotwWake => exact exec_slotwWake_of_due h
  case qlkGrant => exact exec_qlkGrant_of_due h
  case qulRelease => exact exec_qulRelease_of_due h
  case aqueductSlot => exact exec_aqueductSlot_of_due h
  case aqueductWriteApply => exact exec_aqueductWriteApply_of_due h
  case rchkComplete => exact exec_rchkComplete_of_due h
  case resyncComplete => exact exec_resyncComplete_of_due h
  all_goals exact nomatch h

end Sys2Proof.Machine
end

section
/-! PROOFS. Loads, stores, prefetches, atomics and the aqueduct's accesses at issue (spec/07_access.md R185 to R196, spec/08_atomics.md R209
to R220, spec/16_stack.md R409 to R411): the first illegal address traps; where there is none, every operation stands in flight. -/

namespace Sys2Proof.Machine

/-! ### Accesses entered together -/

/-- The trap of an access whose address is illegal (R189). -/
def Acc.trap (a : Acc) : Option Effect := a.addr.bad.map fun p => .trap p.1 p.2 a.lane

/-- What the accesses of an instruction come to: the trap of the first whose address is illegal; where there is none, all are in flight,
and those whose page a TLB holds are translated (R154, R189, R207). -/
def State.enterAccs (t : State) (l : List Acc) : Effect :=
  (firstSome Acc.trap l).getD (.ok ((t.addOps (l.map (·.op))).translateHits t.next))

theorem firstSome_map {α β γ : Type} (f : β → Option γ) (g : α → β) (l : List α) :
    firstSome f (l.map g) = firstSome (fun a => f (g a)) l := by
  induction l with
  | nil => rfl
  | cons a l ih => rw [List.map_cons, firstSome, firstSome, ih]

theorem firstSome_trap_of_find? {l : List Acc} {a : Acc} {cause faddr : Nat} (ha : l.find? (fun a => a.addr.bad.isSome) = some a)
    (hbad : a.addr.bad = some (cause, faddr)) : firstSome Acc.trap l = some (.trap cause faddr a.lane) := by
  induction l with
  | nil => cases ha
  | cons b l ih =>
    cases hb : b.addr.bad with
    | none =>
      rw [List.find?_cons_of_neg (by simp [hb])] at ha
      rw [firstSome, Acc.trap, hb]
      exact ih ha
    | some p =>
      rw [List.find?_cons_of_pos (by simp [hb])] at ha
      cases ha
      rw [firstSome, Acc.trap, hbad]
      rfl

theorem State.enterAccs_trap {l : List Acc} {a : Acc} {cause faddr : Nat} (t : State)
    (ha : l.find? (fun a => a.addr.bad.isSome) = some a) (hbad : a.addr.bad = some (cause, faddr)) :
    t.enterAccs l = .trap cause faddr a.lane := by
  rw [State.enterAccs, firstSome_trap_of_find? ha hbad]
  rfl

theorem State.enterAccs_ok {l : List Acc} (t : State) (hl : ∀ a ∈ l, a.addr.bad = none) :
    t.enterAccs l = .ok ((t.addOps (l.map (·.op))).translateHits t.next) := by
  rw [State.enterAccs, firstSome_eq_none fun a ha => by rw [Acc.trap, hl a ha]; rfl]
  rfl

/-! ### The two ways an instruction accesses memory -/

/-- A second look at the lanes finds what the first found. -/
theorem Ctx.checked_checked (c : Ctx) (f : Nat → Option (Nat × Nat)) (k : Effect) : c.checked f (c.checked f k) = c.checked f k := by
  unfold Ctx.checked
  cases c.check f <;> rfl

/-- One access for each active lane (R154, R185). -/
theorem Ctx.issueLanes_eq (c : Ctx) {t : State} (hnext : t.next = c.pre.next) (space size : Nat) (o : Ord) (kind : Nat → Nat → OpKind) :
    (c.issueLanes t o (fun l => c.pre.laneAddr c.crewId space (c.val 0 l) o size)
      fun l => kind l (c.pre.laneAddr c.crewId space (c.val 0 l) o size).ea.toNat) = t.enterAccs (c.laneAccs space size o kind) := by
  unfold Ctx.issueLanes State.enterAccs Ctx.laneAccs
  rw [firstSome_map, Ctx.addLanes_eq, hnext, List.map_map]
  rfl

/-- One access of the whole instruction (R196). -/
theorem Ctx.issueUni_eq (c : Ctx) {t : State} (hnext : t.next = c.pre.next) (space size : Nat) (o : Ord) (kind : Nat → OpKind) :
    c.issueUni t o (c.pre.laneAddr c.crewId space (c.u 0) o size) (kind (c.pre.laneAddr c.crewId space (c.u 0) o size).ea.toNat)
      = t.enterAccs (c.uniAccs space size o kind) := by
  unfold Ctx.issueUni State.enterAccs Ctx.uniAccs
  rw [Ctx.addUni_eq, hnext]
  cases hbad : (c.pre.laneAddr c.crewId space (c.u 0) o size).bad <;> simp [firstSome, Acc.trap, hbad]

/-! ### What ZERO clears -/

/-- ZERO clears v registers alone (R41). -/
theorem Ctx.zeroRest_of_no_vreg (c : Ctx) (s : State) {d : Nat} (n : Nat) (hd : 192 ≤ d) : c.zeroRest s d n = s := by
  unfold Ctx.zeroRest
  rw [decide_eq_false (by omega), Bool.and_false]
  rfl

/-- ZERO clears the destination of an instruction that has one. -/
theorem Ctx.zeroRest_of_result (c : Ctx) (s : State) (d n : Nat) (res : Bool) :
    c.zeroRest s (if res then d else 255) n = if res then c.zeroRest s d n else s := by
  cases res
  · exact c.zeroRest_of_no_vreg (d := 255) s n (by decide)
  · rfl

/-- ZERO changes no operation, nor the number the next one takes. -/
theorem Ctx.zeroRest_ops (c : Ctx) (s : State) (d n : Nat) (h : (find s.gangs c.gid).isSome) :
    (c.zeroRest s d n).ops = s.ops ∧ (c.zeroRest s d n).next = s.next := by
  unfold Ctx.zeroRest
  split
  · rw [(State.writeLanes_regWrite s c.gid d n _ (fun _ => 0) h).rest]
    exact ⟨rfl, rfl⟩
  · exact ⟨rfl, rfl⟩

/-! ### The instructions -/

/-- The instruction's effect is to clear what ZERO names and to enter its accesses. -/
def Enters (i : Instr) (s : State) (u : Issue) (d n : Nat) (l : List Acc) : Prop :=
  ∃ eff, exec i s = issueInstr i s eff ∧ eff (s.ctx i u) (s.issued i u) = ((s.ctx i u).zeroRest (s.issued i u) d n).enterAccs l

section
variable {i : Instr} {s : State} {u : Issue} {d n : Nat} {l : List Acc} (h : Ready i s u)
include h

/-- Past the issue and what ZERO clears, the operations are those before the instruction. -/
theorem Ready.zeroRest_ops (d n : Nat) : ((s.ctx i u).zeroRest (s.issued i u) d n).ops = s.ops ∧
    ((s.ctx i u).zeroRest (s.issued i u) d n).next = s.next := by
  obtain ⟨hops, hnext⟩ := (s.ctx i u).zeroRest_ops (s.issued i u) d n (by rw [h.issued_found]; exact h.gang)
  rw [hops, hnext, h.issued_rest]
  exact ⟨rfl, rfl⟩

theorem Ready.enters_lanes {eff : Ctx → State → Effect} (hx : exec i s = issueInstr i s eff) {space size : Nat} {o : Ord}
    {kind : Nat → Nat → OpKind}
    (he : eff (s.ctx i u) (s.issued i u) = (s.ctx i u).issueLanes ((s.ctx i u).zeroRest (s.issued i u) d n) o
      (fun l => (s.ctx i u).pre.laneAddr (s.ctx i u).crewId space ((s.ctx i u).val 0 l) o size)
      fun l => kind l ((s.ctx i u).pre.laneAddr (s.ctx i u).crewId space ((s.ctx i u).val 0 l) o size).ea.toNat) :
    Enters i s u d n ((s.ctx i u).laneAccs space size o kind) :=
  ⟨eff, hx, he.trans ((s.ctx i u).issueLanes_eq (h.zeroRest_ops d n).2 space size o kind)⟩

/-- A uniform form has no lanes for ZERO to clear. -/
theorem Ready.enters_uni {eff : Ctx → State → Effect} (hx : exec i s = issueInstr i s eff) {space size : Nat} {o : Ord} {kind : Nat → OpKind}
    (he : eff (s.ctx i u) (s.issued i u) = (s.ctx i u).issueUni (s.issued i u) o
      ((s.ctx i u).pre.laneAddr (s.ctx i u).crewId space ((s.ctx i u).u 0) o size)
      (kind ((s.ctx i u).pre.laneAddr (s.ctx i u).crewId space ((s.ctx i u).u 0) o size).ea.toNat)) :
    Enters i s u 255 0 ((s.ctx i u).uniAccs space size o kind) := by
  refine ⟨eff, hx, ?_⟩
  rw [Ctx.zeroRest_of_no_vreg _ _ _ (by decide), he]
  exact (s.ctx i u).issueUni_eq h.issued_next space size o kind

theorem Ready.enters_load {space : Nat} {p : OPfx} {r : Reg} {x4 : Bool} {o : Ord} (hx : exec i s = loadInstr i space p r x4 o s)
    (hl : (s.ctx i u).loads space p r x4 o = some (d, n, l)) : Enters i s u d n l := by
  cases hl
  exact h.enters_lanes hx (Ctx.checked_checked ..)

theorem Ready.enters_store {space : Nat} {p : OPfx} {x4 : Bool} {o : Ord} (hx : exec i s = storeInstr i space p x4 o s)
    (hl : (s.ctx i u).stores space p x4 o = some (d, n, l)) : Enters i s u d n l := by
  cases hl
  refine h.enters_lanes hx ?_
  rw [Ctx.zeroRest_of_no_vreg _ _ _ (by decide)]

theorem Ready.enters_atomic {space size ty op rnd r k : Nat} {res : Bool} {o : Ord} {x y : Ctx → Nat → Nat}
    (hx : exec i s = atomicInstr i space size ty op rnd o r k res x y s)
    (hl : (s.ctx i u).atomics space size ty op rnd r k res o (x (s.ctx i u)) (y (s.ctx i u)) = some (d, n, l)) : Enters i s u d n l := by
  cases hl
  refine h.enters_lanes hx ?_
  rw [Ctx.zeroRest_of_result]
  exact Ctx.checked_checked ..

theorem Ready.enters_uniLoad {space : Nat} {r : Reg} {sz : BitVec 2} {o : Ord} (hx : exec i s = uniLoad i space r sz o s) :
    Enters i s u 255 0 ((s.ctx i u).uniAccs space (4 * 2 ^ sz.toNat) o fun ea =>
      .load ea (4 * 2 ^ sz.toNat) 9 (some ⟨r.toNat, 2 ^ sz.toNat, (s.ctx i u).act⟩)) := h.enters_uni hx rfl

theorem Ready.enters_uniStore {space : Nat} {sz : BitVec 2} {o : Ord} (hx : exec i s = uniStore i space sz o s) :
    Enters i s u 255 0 ((s.ctx i u).uniAccs space (4 * 2 ^ sz.toNat) o fun ea =>
      .store ea (toBytes ((s.ctx i u).u 1) (4 * 2 ^ sz.toNat))) := h.enters_uni hx rfl

theorem Ready.enters_uniAtomic {space size ty op r k : Nat} {o : Ord} {x y : Ctx → Nat}
    (hx : exec i s = uniAtomic i space size ty op o r k x y s)
    (hl : (s.ctx i u).uniAtomics space size ty op r k o (x (s.ctx i u)) (y (s.ctx i u)) = some (d, n, l)) : Enters i s u d n l := by
  cases hl
  exact h.enters_uni hx rfl

/-- Every access instruction enters the accesses that the table names. -/
theorem Ready.enters (hl : accessesOf i (s.ctx i u) = some (d, n, l)) : Enters i s u d n l := by
  cases i
  case ldg => exact h.enters_load (exec_ldg ..) hl
  case lds => exact h.enters_load (exec_lds ..) hl
  case ldp => exact h.enters_load (exec_ldp ..) hl
  case stg => exact h.enters_store (exec_stg ..) hl
  case sts => exact h.enters_store (exec_sts ..) hl
  case stp => exact h.enters_store (exec_stp ..) hl
  case pfg =>
    cases hl
    refine h.enters_lanes (exec_pfg ..) ?_
    rw [Ctx.zeroRest_of_no_vreg _ _ _ (by decide)]
  case uldg => cases hl; exact h.enters_uniLoad (exec_uldg ..)
  case ulds => cases hl; exact h.enters_uniLoad (exec_ulds ..)
  case ustg => cases hl; exact h.enters_uniStore (exec_ustg ..)
  case usts => cases hl; exact h.enters_uniStore (exec_usts ..)
  case atom => exact h.enters_atomic (exec_atom ..) hl
  case red => exact h.enters_atomic (exec_red ..) hl
  case cas => exact h.enters_atomic (exec_cas ..) hl
  case cas128 => exact h.enters_atomic (exec_cas128 ..) hl
  case uatom => exact h.enters_uniAtomic (exec_uatom ..) hl
  case ucas => exact h.enters_uniAtomic (exec_ucas ..) hl
  case mcst => cases hl; exact h.enters_uni (exec_mcst ..) rfl
  case rchk => cases hl; exact h.enters_uni (exec_rchk ..) rfl
  case resync => cases hl; exact h.enters_uni (exec_resync ..) rfl
  all_goals exact nomatch hl

end

/-! ### Operations in flight -/

/-- Operations that stand new past a change of the rest of the state stand new in the state before it. -/
theorem Issues.of_ops {s w t : State} {l : List Op} (h : Issues w l t) (hops : w.ops = s.ops) (hnext : w.next = s.next) :
    Issues s l t where
  count := hnext ▸ h.count
  added := hnext ▸ h.added
  kept := hops ▸ hnext ▸ h.kept
  absent := hops ▸ hnext ▸ h.absent

theorem State.withOps_congr {s w : State} (t : State) (hops : w.ops = s.ops) (hnext : w.next = s.next) : t.withOps w = t.withOps s := by
  rw [State.withOps, hops, hnext, State.withOps]

/-- Settles O11: the accesses are entered past what ZERO clears, and entering them changes operations alone. -/
theorem accessesIssue : Obligations.AccessesIssue := by
  intro i s u d n l h hl hlegal
  obtain ⟨eff, hx, he⟩ := h.enters hl
  obtain ⟨hops, hnext⟩ := h.zeroRest_ops d n
  obtain ⟨hissues, hrest⟩ := State.issues_hits ((s.ctx i u).zeroRest (s.issued i u) d n) (l.map (·.op))
  refine ⟨_, h.exec_ok hx (he.trans (State.enterAccs_ok _ hlegal)), hissues.of_ops hops hnext, ?_⟩
  rw [← State.withOps_congr _ hops hnext, hrest]
  exact h.zeroed d n

/-- Settles O12: entering the accesses meets the first illegal address, and issue makes it the instruction's trap. -/
theorem accessTraps : Obligations.AccessTraps := by
  intro i s u d n l a cause faddr h hl ha hbad
  obtain ⟨eff, hx, he⟩ := h.enters hl
  rw [hx, h.issue, he, State.enterAccs_trap _ ha hbad]

end Sys2Proof.Machine
end

section
/-! PROOFS. Operands that break an instruction's own rules: its effect at issue is the trap of the first check that fails
(spec/08_atomics.md R225, R226, R229, spec/09_barges.md R238 to R255, spec/12_matrix.md R320, spec/13_weir.md R339, R340,
spec/14_points.md R358, spec/15_tasks.md R374, R385, R386, spec/17_system.md R450, R453). -/

namespace Sys2Proof.Machine

/-- The instruction traps at issue with this cause, fault address and lane, and has no other effect (R428). -/
def TrapsWith (i : Instr) (s : State) (u : Issue) (x : Nat × Nat × Nat) : Prop :=
  exec i s = .next (s.trapAt u i.len x.1 (x.2.1 % 2 ^ 64) x.2.2)

/-! ### The first lane that fails -/

/-- Where one condition is the check, the lane it names is the first of which the condition holds. -/
theorem find?_of_firstSome_lane {p : Nat → Bool} {f : Nat → Nat × Nat} {ls : List Nat} {y : Nat × Nat × Nat}
    (h : firstSome (fun l => (if p l then some (f l) else none).map fun x => (x.1, x.2, l)) ls = some y) :
    ∃ l, ls.find? p = some l ∧ ((f l).1, (f l).2, l) = y := by
  induction ls with
  | nil => cases h
  | cons l ls ih =>
    by_cases hl : p l = true
    · rw [firstSome, if_pos hl] at h
      exact ⟨l, List.find?_cons_of_pos hl, Option.some.inj h⟩
    · rw [firstSome, if_neg hl] at h
      rw [List.find?_cons_of_neg hl]
      exact ih h

theorem firstSome_comp {α β γ : Type} (f : α → Option β) (g : β → γ) (l : List α) :
    firstSome (fun a => (f a).map g) l = (firstSome f l).map g := by
  induction l with
  | nil => rfl
  | cons a l ih =>
    rw [firstSome, firstSome, ih]
    cases f a <;> rfl

/-- A lane's check that fails is the trap. -/
theorem Ctx.checked_of_firstSome {c : Ctx} {f : Nat → Option (Nat × Nat)} {y : Nat × Nat × Nat}
    (h : firstSome (fun l => (f l).map fun p => (p.1, p.2, l)) (lanes c.act) = some y) (k : Effect) :
    c.checked f k = .trap y.1 y.2.1 y.2.2 := by
  have hcheck : c.check f = (firstSome (fun l => (f l).map fun p => (p.1, p.2, l)) (lanes c.act)).map fun y => .trap y.1 y.2.1 y.2.2 := by
    rw [← firstSome_comp]
    simp only [Ctx.check, Option.map_map, Function.comp_def]
  rw [Ctx.checked, hcheck, h]
  rfl

/-! ### What a check that fails comes to -/

/-- Checks made one after another name the trap of the first that fails. -/
theorem trap_of_ite {p : Prop} [Decidable p] {x y : Nat × Nat × Nat} {r : Option (Nat × Nat × Nat)} {k : Effect}
    (hr : r = some x → k = .trap x.1 x.2.1 x.2.2) (h : (if p then some y else r) = some x) :
    (if p then .trap y.1 y.2.1 y.2.2 else k) = Effect.trap x.1 x.2.1 x.2.2 := by
  by_cases hp : p
  · cases (if_pos hp).symm.trans h
    exact if_pos hp
  · exact (if_neg hp).trans (hr ((if_neg hp).symm.trans h))

section
variable {i : Instr} {s : State} {u : Issue} {x : Nat × Nat × Nat} (h : Ready i s u)
include h

/-- An effect that traps is the instruction's only one (R428). -/
theorem Ready.traps {eff : Ctx → State → Effect} (hx : exec i s = issueInstr i s eff)
    (he : eff (s.ctx i u) (s.issued i u) = .trap x.1 x.2.1 x.2.2) : TrapsWith i s u x := by
  rw [TrapsWith, hx, h.issue, he]

/-- A condition that must not hold, checked first. -/
theorem Ready.traps_if {p : Prop} [Decidable p] {eff : Ctx → State → Effect} {k : Effect} {y : Nat × Nat × Nat}
    (hx : exec i s = issueInstr i s eff) (he : eff (s.ctx i u) (s.issued i u) = if p then .trap y.1 y.2.1 y.2.2 else k)
    (hp : (if p then some y else none) = some x) : TrapsWith i s u x := h.traps hx (he.trans (trap_of_ite (r := none) nofun hp))

/-- A condition that must hold, whose breach is checked first. -/
theorem Ready.traps_unless {p q : Prop} [Decidable p] [Decidable q] {eff : Ctx → State → Effect} {k : Effect} {y : Nat × Nat × Nat}
    (hx : exec i s = issueInstr i s eff) (he : eff (s.ctx i u) (s.issued i u) = if p then .trap y.1 y.2.1 y.2.2 else k)
    (hbreach : ¬ q → p) (hq : (if q then none else some y) = some x) : TrapsWith i s u x := by
  obtain ⟨hbad, hy⟩ := Option.ite_none_left_eq_some.mp hq
  cases hy
  exact h.traps hx (he.trans (if_pos (hbreach hbad)))

/-- A mask that names tags the crew does not hold (R239). -/
theorem Ready.traps_tag {eff : Ctx → State → State} (hx : exec i s = tagInstr i s eff)
    (ht : (if (s.ctx i u).u 0 / 2 ^ (s.ctx i u).pre.tagCount (s.ctx i u).crewId = 0 then none else some (0x03, 0, 255)) = some x) :
    TrapsWith i s u x := h.traps_unless hx rfl bne_iff_ne.mpr ht

/-- A value that names no ticket dispenser, or no lock (R226, R229). -/
theorem Ready.traps_name {hi : Nat} {eff : Ctx → State → Effect} {k : Effect} (hx : exec i s = issueInstr i s eff)
    (he : eff (s.ctx i u) (s.issued i u) = if badName ((s.ctx i u).u 0) hi then .trap 0x20 ((s.ctx i u).u 0) 255 else k)
    (hn : (if (s.ctx i u).u 0 < 2 ^ hi then none else some (0x20, (s.ctx i u).u 0, 255)) = some x) : TrapsWith i s u x :=
  h.traps_unless hx he (fun hbad => decide_eq_true (not_lt.mp hbad)) hn

/-- A record of the whole instruction whose address is not sound (R189, R238). -/
theorem Ready.traps_record {o : Ord} {scale size : Nat} {eff : Ctx → State → Effect} (hx : exec i s = issueInstr i s eff)
    (he : ∀ ea cause faddr, (s.ctx i u).recordAddr (s.issued i u) 0 (s.ctx i u).lane0 o scale size = (ea, some (cause, faddr)) →
      eff (s.ctx i u) (s.issued i u) = .trap cause faddr (s.ctx i u).lane0)
    (hr : (((s.ctx i u).recordAddr (s.issued i u) 0 (s.ctx i u).lane0 o scale size).2.map
      fun p => (p.1, p.2, (s.ctx i u).lane0)) = some x) : TrapsWith i s u x := by
  obtain ⟨p, hp, rfl⟩ := Option.map_eq_some_iff.mp hr
  exact h.traps hx (he _ _ _ (Prod.ext rfl hp))

/-- A ring's descriptor whose address is not sound (R249). -/
theorem Ready.traps_ring {o : Ord} {kind : State → Nat → Ctx → OpKind} {arrive : State → Nat → Nat → Nat → Option State}
    (hx : exec i s = ringInstr i o s kind arrive)
    (hr : (((s.ctx i u).recordAddr (s.issued i u) 0 (s.ctx i u).lane0 o 64 64).2.map fun p => (p.1, p.2, (s.ctx i u).lane0)) = some x) :
    TrapsWith i s u x := h.traps_record hx (fun _ _ _ hrec => by simp only [hrec]) hr

/-- Tiles out of their partition, not aligned, or of a crew in another cluster, or a table that is not loaded (R320). -/
theorem Ready.traps_matrix {o : Ord} {tiles : Ctx → List TileArg} {uses : Ctx → Option Nat} {cmd : Ctx → MatCmd}
    (hx : exec i s = matInstr i o s tiles uses cmd)
    (ht : (((s.issued i u).tilesTrap (s.ctx i u).crewId (tiles (s.ctx i u))
      (if (s.ctx i u).gang.compand.isNone then uses (s.ctx i u) else none)).map fun p => (p.1, p.2, 255)) = some x) :
    TrapsWith i s u x := by
  obtain ⟨p, hp, rfl⟩ := Option.map_eq_some_iff.mp ht
  refine h.traps hx ?_
  simp only [hp]

/-- An operand of the weir in one of the lanes its instruction checks (R340). -/
theorem Ready.traps_weir {o : Ord} {one : Bool} {bad : Ctx → State → Nat → Option (Nat × Nat)} {kind : Ctx → State → WeirKind}
    {lane : Ctx → Nat → WeirLane} {zero : Option (Nat × Nat)} (hx : exec i s = weirInstr i o s one bad kind lane zero)
    (hb : firstSome (fun l => (bad (s.ctx i u) (s.issued i u) l).map fun p => (p.1, p.2, l))
      (if one then [(s.ctx i u).lane0] else Machine.lanes (s.ctx i u).act) = some x) : TrapsWith i s u x := by
  refine h.traps hx ?_
  simp only [hb]

/-- A point record, or its address, that is refused (R358). -/
theorem Ready.traps_point {k : PtKind} {o : Ord} {w : TagWord} (hx : exec i s = pointInstr i k o w s)
    (hp : (match (s.ctx i u).pointCheck (s.issued i u) k w with
      | .error y => some (y.1, y.2, (s.ctx i u).lane0)
      | .ok _ => none) = some x) : TrapsWith i s u x := by
  refine h.traps hx ?_
  cases hcheck : (s.ctx i u).pointCheck (s.issued i u) k w <;> simp only [hcheck] at hp
  case ok => cases hp
  case error => cases hp; rfl

end

section
variable {s : State} {u : Issue} {x : Nat × Nat × Nat}

/-- WAITY: a tag mask, the address of a ring's descriptor, or a descriptor that is refused (R252). -/
theorem Ready.traps_waity {a : Reg} {mode : BitVec 2} (h : Ready (.waity a mode) s u)
    (hx : issueTrap (.waity a mode) (s.ctx (.waity a mode) u) (s.issued (.waity a mode) u) = some x) : TrapsWith (.waity a mode) s u x := by
  by_cases hmode : mode.toNat ≤ 1
  · exact h.traps_unless (exec_waity ..) (if_pos hmode) bne_iff_ne.mpr ((if_pos hmode).symm.trans hx)
  · replace hx := (if_neg hmode).symm.trans hx
    refine h.traps (exec_waity ..) ((if_neg hmode).trans ?_)
    cases hscratch : checkScratch ((s.ctx (.waity a mode) u).u 0) 64
      ((s.issued (.waity a mode) u).partition (s.ctx (.waity a mode) u).crewId) <;> simp only [hscratch] at hx ⊢
    case none =>
      obtain ⟨hrefused, hy⟩ := Option.ite_none_right_eq_some.mp hx
      cases hy
      exact if_pos hrefused
    case some => cases hx; rfl

/-- BARGE: a descriptor that is refused (R244). -/
theorem Ready.traps_barge {a : Reg} {o : Ord} (h : Ready (.barge a o) s u)
    (hx : issueTrap (.barge a o) (s.ctx (.barge a o) u) (s.issued (.barge a o) u) = some x) : TrapsWith (.barge a o) s u x := by
  unfold issueTrap at hx
  refine h.traps (exec_barge ..) ?_
  cases hcheck : (s.ctx (.barge a o) u).bargeCheck (s.issued (.barge a o) u) o <;> simp only [hcheck] at hx
  case ok => cases hx
  case error => cases hx; rfl

/-- IOREQ: the first lane whose record's address is not sound, or else the first whose record is refused (R255). -/
theorem Ready.traps_ioreq {p : OPfx} {a : Reg} {o : Ord} (h : Ready (.ioreq p a o) s u)
    (hx : issueTrap (.ioreq p a o) (s.ctx (.ioreq p a o) u) (s.issued (.ioreq p a o) u) = some x) : TrapsWith (.ioreq p a o) s u x := by
  simp only [issueTrap, Bool.false_eq_true, if_false] at hx
  refine h.traps (exec_ioreq ..) ?_
  split at hx
  case h_1 y haddr =>
    cases hx
    exact Ctx.checked_of_firstSome haddr _
  case h_2 haddr =>
    have hsound := forall_of_firstSome_eq_none haddr
    obtain ⟨l, hl, rfl⟩ := find?_of_firstSome_lane hx
    rw [Ctx.checked_of_none fun l hl => Option.map_eq_none_iff.mp (hsound l ((mem_lanes _ _).mpr hl))]
    simp only [hl]

/-- WSKIP `.base` before a WCFG (R340). -/
theorem Ready.traps_wskip {p : OPfx} {d a : Reg} {o : Ord} {v : BitVec 2} (h : Ready (.wskip p d a o v) s u)
    (hx : issueTrap (.wskip p d a o v) (s.ctx (.wskip p d a o v) u) (s.issued (.wskip p d a o v) u) = some x) :
    TrapsWith (.wskip p d a o v) s u x := by
  obtain ⟨⟨rfl, hcfg⟩, hy⟩ := Option.ite_none_right_eq_some.mp hx
  cases hy
  refine h.traps_weir (exec_wskip ..) ?_
  simp only [if_true, firstSome, hcfg, decide_true, Bool.not_false, Bool.and_self, Option.map_some]

/-- SPAWN: its entry address, its count, the fit of its task gangs, and the range and alignment of its records, in this order (R374). -/
theorem Ready.traps_spawn {e a b : Reg} {o : Ord} (h : Ready (.spawn e a b o) s u)
    (hx : issueTrap (.spawn e a b o) (s.ctx (.spawn e a b o) u) (s.issued (.spawn e a b o) u) = some x) :
    TrapsWith (.spawn e a b o) s u x := by
  simp only [issueTrap, ← or_assoc, ite_or (P := _ ∨ _) (Q := 160 < _)] at hx
  refine h.traps (exec_spawn ..) ?_
  refine trap_of_ite (fun hx => trap_of_ite (fun hx => trap_of_ite (fun hx => trap_of_ite (fun hx => ?_) hx) hx) hx) hx
  obtain ⟨hunaligned, hy⟩ := Option.ite_none_left_eq_some.mp hx
  cases hy
  exact if_pos hunaligned

/-- DBGH of a crew that the logical device does not hold (R453). -/
theorem Ready.traps_dbgh {a : Reg} {v : BitVec 2} (h : Ready (.dbgh a v) s u)
    (hx : issueTrap (.dbgh a v) (s.ctx (.dbgh a v) u) (s.issued (.dbgh a v) u) = some x) : TrapsWith (.dbgh a v) s u x := by
  obtain ⟨hnone, hy⟩ := Option.ite_none_right_eq_some.mp hx
  cases hy
  refine h.traps (exec_dbgh ..) ?_
  simp only [Option.isNone_iff_eq_none.mp hnone]

end

/-- Settles O16: each instruction's own check comes first in its effect. -/
theorem operandTraps : Obligations.OperandTraps := by
  intro i s u cause faddr lane h hx
  change TrapsWith i s u (cause, faddr, lane)
  cases i
  -- Tags, barges, rings and I/O requests (R239, R240, R244, R252, R255).
  case tagw => exact h.traps_tag (exec_tagw ..) hx
  case tagf => exact h.traps_tag (exec_tagf ..) hx
  case tagclr => exact h.traps_tag (exec_tagclr ..) hx
  case waity => exact h.traps_waity hx
  case rawait => exact h.traps_ring (exec_rawait ..) hx
  case rarel => exact h.traps_ring (exec_rarel ..) hx
  case rapub => exact h.traps_ring (exec_rapub ..) hx
  case barge => exact h.traps_barge hx
  case ioreq => exact h.traps_ioreq hx
  -- Barriers, tickets and locks (R225, R226, R229).
  case bars => exact h.traps_unless (exec_bars ..) rfl (by omega) hx
  case tkt => exact h.traps_name (exec_tkt ..) rfl hx
  case tktw => exact h.traps_name (exec_tktw ..) rfl hx
  case tktsNext => exact h.traps_name (exec_tktsNext ..) rfl hx
  case tktsSet => exact h.traps_name (exec_tktsSet ..) rfl hx
  case qlk => exact h.traps_name (exec_qlk ..) rfl hx
  case qul => exact h.traps_name (exec_qul ..) rfl hx
  -- The matrix engine and the weir (R320, R339, R340).
  case mma => exact h.traps_matrix (exec_mma ..) hx
  case accrd => exact h.traps_matrix (exec_accrd ..) hx
  case accwr => exact h.traps_matrix (exec_accwr ..) hx
  case qnt => exact h.traps_matrix (exec_qnt ..) hx
  case dqnt => exact h.traps_matrix (exec_dqnt ..) hx
  case ctbl => exact h.traps_matrix (exec_ctbl ..) hx
  case wcfg => exact h.traps_weir (exec_wcfg ..) hx
  case wsig => exact h.traps_weir (exec_wsig ..) hx
  case wtest => exact h.traps_weir (exec_wtest ..) hx
  case wskip => exact h.traps_wskip hx
  -- Point records (R358).
  case nbrk => exact h.traps_point (exec_nbrk ..) hx
  case nbrr => exact h.traps_point (exec_nbrr ..) hx
  case siteh => exact h.traps_point (exec_siteh ..) hx
  case rule => exact h.traps_point (exec_rule ..) hx
  case ruleSub => exact h.traps_point (exec_ruleSub ..) hx
  case pgat => exact h.traps_point (exec_pgat ..) hx
  case psca => exact h.traps_point (exec_psca ..) hx
  -- Tasks and claims (R374, R385, R386).
  case spawn => exact h.traps_spawn hx
  case claim => exact h.traps_if (exec_claim ..) rfl hx
  case claimTry => exact h.traps_if (exec_claimTry ..) rfl hx
  case give => exact h.traps_if (exec_give ..) rfl hx
  case giveRole => exact h.traps_if (exec_giveRole ..) rfl hx
  -- The system (R450, R453).
  case keyld => exact h.traps_record (exec_keyld ..) (fun _ _ _ hrec => by simp only [hrec]) hx
  case dbgh => exact h.traps_dbgh hx
  all_goals exact nomatch hx

end Sys2Proof.Machine
end

section
/-! PROOFS. Barrier phases that arrivals fill, and locks that are let go (spec/08_atomics.md R221 to R223, R230, R231). -/

namespace Sys2Proof.Machine

/-! ### Arrivals at a barrier -/

/-- An arrival short of EXP leaves the phase open, whose EXP is fixed from its first arrival on (R223, R225). -/
theorem Barrier.arrive_of_room {b : Barrier} (h : b.iss + 1 < b.expOpen) :
    b.arrive.2.open_ = b.open_ ∧ b.arrive.2.iss = b.iss + 1 ∧ b.arrive.2.expOpen = b.expOpen := by
  have hroom : (b.iss + 1 == b.expOpen) = false := beq_false_of_ne h.ne
  have hopen : b.arrive.2.open_ = b.open_ := by simp [Barrier.arrive, hroom]
  refine ⟨hopen, by simp [Barrier.arrive, hroom], ?_⟩
  cases hlisted : b.phases.any (·.1 == b.open_) with
  | true =>
    have hphases : b.arrive.2.phases = b.phases := by simp only [Barrier.arrive, hlisted, if_true]
    have hexp : b.arrive.2.exp = b.exp := rfl
    simp only [Barrier.expOpen, hopen, hphases, hexp]
  | false =>
    have hphases : b.arrive.2.phases = b.phases ++ [(b.open_, some b.expOpen, 0)] := by simp [Barrier.arrive, hlisted]
    have hnone : b.phases.find? (·.1 == b.open_) = none := List.find?_eq_none.mpr fun p hp => by simpa using List.any_eq_false.mp hlisted p hp
    conv_lhs => unfold Barrier.expOpen
    simp [hopen, hphases, hnone]

/-- The arrival that makes EXP opens the next phase (R223). -/
theorem Barrier.arrive_of_full {b : Barrier} (h : b.iss + 1 = b.expOpen) :
    b.arrive.2.open_ = (b.open_ + 1) % 65536 ∧ b.arrive.2.iss = 0 := by
  simp [Barrier.arrive, h]

/-- Arrivals short of EXP add up in the phase that is open. -/
theorem Barrier.arrivals_of_room {b : Barrier} (k : Nat) (h : b.iss + k < b.expOpen) :
    let x := (fun x : Barrier => x.arrive.2)^[k] b
    x.open_ = b.open_ ∧ x.iss = b.iss + k ∧ x.expOpen = b.expOpen := by
  induction k with
  | zero => exact ⟨rfl, rfl, rfl⟩
  | succ k ih =>
    obtain ⟨hopen, hiss, hexp⟩ := ih (by omega)
    simp only [Function.iterate_succ_apply']
    obtain ⟨hopen', hiss', hexp'⟩ := Barrier.arrive_of_room (by rw [hiss, hexp]; omega)
    exact ⟨hopen'.trans hopen, hiss'.trans (by rw [hiss, Nat.add_assoc]), hexp'.trans hexp⟩

/-- Settles O57: all arrivals but the last find room, and the last makes EXP. -/
theorem barrierFills : Obligations.BarrierFills := by
  intro b n k hphases hiss _ hn hpos hk
  have hexp : b.expOpen = n := by simp [Barrier.expOpen, hphases, hn]
  obtain ⟨hopen, hcount, -⟩ := Barrier.arrivals_of_room (b := b) k (by omega)
  obtain ⟨m, rfl⟩ := Nat.exists_eq_add_of_le' hpos
  obtain ⟨hopen', hcount', hexp'⟩ := Barrier.arrivals_of_room (b := b) m (by omega)
  obtain ⟨hnext, hzero⟩ := Barrier.arrive_of_full (b := (fun x : Barrier => x.arrive.2)^[m] b) (by omega)
  simp only [Function.iterate_succ_apply']
  exact ⟨hopen, by omega, by rw [hnext, hopen'], hzero⟩

/-! ### A lock that is let go -/

theorem find_map_snd {α : Type} (m : List (Nat × α)) (f : α → α) (j : Nat) :
    find (m.map fun p => (p.1, f p.2)) j = (find m j).map f := by
  induction m with
  | nil => rfl
  | cons p r ih =>
    simp only [List.map_cons, find, ih]
    split <;> rfl

/-- An operation past a grant of lock x to gang g: a QLK of g that waits for x, and has not failed, has its result (R230, R231). -/
def Op.granted (g x : Nat) (abn : Bool) (o : Op) : Op :=
  if o.gang = g then
    match o.kind with
    | .qlk y d none => if y = x ∧ o.failed.isNone then { o with kind := .qlk y d (some (if abn then 1 else 0)) } else o
    | _ => o
  else o

theorem Op.granted_of_waits {o : Op} {g x : Nat} {d : Dest} (abn : Bool) (hgang : o.gang = g) (hkind : o.kind = .qlk x d none)
    (hfailed : o.failed = none) : o.granted g x abn = { o with kind := .qlk x d (some (if abn then 1 else 0)) } := by
  simp [Op.granted, hgang, hkind, hfailed]

theorem Op.granted_of_not_waits {o : Op} {g x : Nat} (abn : Bool) (h : o.gang ≠ g ∨ o.failed ≠ none ∨ ∀ d, o.kind ≠ .qlk x d none) :
    o.granted g x abn = o := by
  unfold Op.granted
  split
  case isFalse => rfl
  next hgang =>
  split
  case h_2 => rfl
  next y d hkind =>
  refine if_neg ?_
  rintro ⟨rfl, hfailed⟩
  rcases h with h | h | h
  · exact h hgang
  · exact h (Option.isNone_iff_eq_none.mp hfailed)
  · exact h d hkind

/-- The first waiter of a lock that is free is its holder, and its QLK has its result (R230). -/
theorem State.grantLock_of_free {s : State} {l x g : Nat} {rest : List Nat} (hfree : (look (s.layer l).locks x {}).holder = none)
    (hfifo : (look (s.layer l).locks x {}).fifo = g :: rest) :
    s.grantLock l x = { s.setLayer l { s.layer l with
        locks := put (s.layer l).locks x { holder := some g, fifo := rest, abn := false } {} } with
      ops := s.ops.map fun p => (p.1, p.2.granted g x (look (s.layer l).locks x {}).abn) } := by
  unfold State.grantLock
  simp only [hfree, hfifo, State.setLayer_ops, State.mk.injEq, true_and, and_true]
  refine List.map_congr_left fun ⟨n, o⟩ _ => ?_
  dsimp only
  split
  case isFalse hgang => rw [Op.granted_of_not_waits _ (.inl hgang)]
  next hgang =>
  split
  case h_2 hother => rw [Op.granted_of_not_waits _ (.inr (.inr fun d => hother x d))]
  next y d hkind =>
  split
  case isTrue hwaits =>
    obtain ⟨rfl, hfailed⟩ := hwaits
    rw [Op.granted_of_waits _ hgang hkind (Option.isNone_iff_eq_none.mp hfailed)]
  case isFalse hwaits =>
    rw [Op.granted_of_not_waits]
    by_cases hfailed : o.failed = none
    · refine .inr (.inr fun e he => ?_)
      rw [hkind] at he
      cases he
      exact hwaits ⟨rfl, Option.isNone_iff_eq_none.mpr hfailed⟩
    · exact .inr (.inl hfailed)

/-- A lock that is let go stands free for the grant, with its waiters and ABN (R230, R231). -/
theorem State.freeLock_of_waiter {s : State} {l x g : Nat} {rest : List Nat} (abandon : Bool)
    (hfifo : (look (s.layer l).locks x {}).fifo = g :: rest) :
    let t := s.freeLock l x abandon
    (∀ y, look (t.layer l).locks y {} =
      if x = y then { holder := some g, fifo := rest, abn := false } else look (s.layer l).locks y {}) ∧
    ∀ j, find t.ops j = (find s.ops j).map (Op.granted g x ((look (s.layer l).locks x {}).abn || abandon)) := by
  dsimp only
  rw [State.freeLock, State.grantLock_of_free (g := g) (rest := rest) (by simp [look_put]) (by simp [look_put, hfifo])]
  refine ⟨fun y => ?_, fun j => ?_⟩
  · rw [show ∀ (t : State) ops, ({ t with ops := ops } : State).layer l = t.layer l from fun _ _ => rfl]
    simp only [State.layer_setLayer, if_true, look_put]
    split <;> rfl
  · simp [find_map_snd, look_put]

/-- Settles O58: what a release leaves of the locks and of each operation. -/
theorem lockPasses : Obligations.LockPasses := by
  intro s l x g rest k hk hfifo
  obtain ⟨hlocks, hops⟩ := State.freeLock_of_waiter (s := s) (l := l) (x := x) false (by rw [hk, hfifo])
  rw [hk, Bool.or_false] at hops
  refine ⟨by rw [hlocks, if_pos rfl], fun y hy => by rw [hlocks, if_neg hy.symm], fun j o d ho hgang hkind hfailed => ?_,
    fun j o ho hother => ?_⟩
  · rw [hops, ho, Option.map_some, Op.granted_of_waits k.abn hgang hkind hfailed]
  · rw [hops, ho, Option.map_some, Op.granted_of_not_waits k.abn hother]

end Sys2Proof.Machine
end

section
/-! PROOFS. Barges, rings and I/O requests (spec/09_barges.md R245 to R247, R250, R257, R511): where the table calls an act due, the act
leaves the table's state. -/

namespace Sys2Proof.Machine

/-- Nothing stops an operation that is live: the test its act makes first. -/
theorem State.unstopped_of_live? {s : State} {o : Op} (h : s.live? = some o) :
    (o.captured || o.failed.isSome || !s.edgesMet o) = false := by
  obtain ⟨-, hcaptured, hfailed, hmet⟩ := State.live?_spec h
  simp [hcaptured, hfailed, hmet]

/-- The statuses a controller or a remote peer may end a request with, as the act tests them (R257 Table 6). -/
theorem IoRec.status_ends {r : IoRec} {c : Nat} (h : (r.kind = 0 ∧ (c = 2 ∨ c = 4)) ∨ (r.kind ≠ 0 ∧ c = 5)) :
    (if r.kind = 0 then c == 2 || c == 4 else c == 5) = true := by
  obtain ⟨hkind, hc⟩ | ⟨hkind, hc⟩ := h <;> simpa [hkind] using hc

section
variable {s t : State}

/-! ### Barges -/

theorem exec_bargeEngineTake_of_due (h : bargeAct .bargeEngineTake s = some t) : exec .bargeEngineTake s = .next t := by
  rcases hop : s.opAt s.choice.target with _ | o <;> simp only [bargeAct, hop, reduceCtorEq] at h
  split at h
  case h_2 => cases h
  next b hkind =>
  obtain ⟨⟨hcaptured, hfailed, hroom, hfirst⟩, hx⟩ := Option.ite_none_right_eq_some.mp h
  cases hx
  simp only [exec_bargeEngineTake, execBargeEngineTake, hop, hkind]
  refine if_pos ?_
  simp only [Bool.and_eq_true, Bool.not_eq_true', beq_iff_eq, decide_eq_true_eq, Option.isNone_iff_eq_none, and_assoc]
  exact ⟨hcaptured, hfailed, hroom, hfirst⟩

/-- A barge moves the vectors the choice numbers and goes on from the next (R247), or all that are left, where none meets a fault (R245). -/
theorem exec_bargeComplete_of_due (h : bargeAct .bargeComplete s = some t) : exec .bargeComplete s = .next t := by
  rcases hlive : s.live? with _ | o <;> simp only [bargeAct, hlive, reduceCtorEq] at h
  obtain ⟨hop, hcaptured, hfailed, hmet⟩ := State.live?_spec hlive
  split at h
  case h_2 => cases h
  next r hkind =>
  obtain ⟨hwaiting, h⟩ := Option.ite_none_left_eq_some.mp h
  simp only [exec_bargeComplete, execBargeComplete, hop, hkind]
  rw [if_neg (by simp [hcaptured, hfailed, hwaiting, hmet])]
  by_cases hsome : 0 < s.choice.size ∧ s.choice.size < r.total - r.first
  · replace h := (if_pos hsome).symm.trans h
    rw [if_pos hsome]
    rcases hscan : s.bargeScan o r r.first s.choice.size with ⟨l, _ | e⟩ <;> simp only [hscan, reduceCtorEq] at h ⊢
    cases h
    rfl
  · replace h := (if_neg hsome).symm.trans h
    rw [if_neg hsome]
    rcases hall : s.bargeAll o r with ⟨before, l, _ | e⟩ <;> simp only [hall, reduceCtorEq] at h ⊢
    cases h
    rfl

/-- The stop is a fault of the barge's own, or one from outside that poisons no line (R246). -/
theorem exec_bargeFault_of_due (h : bargeAct .bargeFault s = some t) : exec .bargeFault s = .next t := by
  rcases hlive : s.live? with _ | o <;> simp only [bargeAct, hlive, reduceCtorEq] at h
  obtain ⟨hop, hcaptured, hfailed, hmet⟩ := State.live?_spec hlive
  split at h
  case h_2 => cases h
  next r hkind =>
  rcases hstop : s.bargeStop o r with _ | e <;> simp only [hstop, reduceCtorEq] at h
  obtain ⟨hclean, hx⟩ := Option.ite_none_left_eq_some.mp h
  cases hx
  simp only [exec_bargeFault, execBargeFault, hop, hkind, hfailed, hstop]
  rewrite [if_neg (ne_true_of_eq_false hcaptured), if_neg (by simp [hmet]), if_neg (by simpa using hclean)]
  rfl

/-! ### Rings -/

theorem exec_rawaitComplete_of_due (h : bargeAct .rawaitComplete s = some t) : exec .rawaitComplete s = .next t := by
  rcases hlive : s.live? with _ | o <;> simp only [bargeAct, hlive, reduceCtorEq] at h
  obtain ⟨hop, -⟩ := State.live?_spec hlive
  split at h
  case h_2 => cases h
  next off n free d hkind =>
  obtain ⟨hpassed, hx⟩ := Option.ite_none_right_eq_some.mp h
  cases hx
  simp only [exec_rawaitComplete, execRawaitComplete, hop, hkind]
  exact if_neg (by simp [State.unstopped_of_live? hlive, hpassed])

theorem exec_rarelRelease_of_due (h : bargeAct .rarelRelease s = some t) : exec .rarelRelease s = .next t := by
  rcases hlive : s.live? with _ | o <;> simp only [bargeAct, hlive, reduceCtorEq] at h
  obtain ⟨hop, -⟩ := State.live?_spec hlive
  split at h
  case h_2 => cases h
  next off hkind =>
  cases h
  simp only [exec_rarelRelease, execRarelRelease, hop, hkind]
  exact if_neg (by simp [State.unstopped_of_live? hlive])

theorem exec_advanceReady_of_due (h : bargeAct .advanceReady s = some t) : exec .advanceReady s = .next t := by
  rcases hlive : s.live? with _ | o <;> simp only [bargeAct, hlive, reduceCtorEq] at h
  obtain ⟨hop, -⟩ := State.live?_spec hlive
  split at h
  case h_2 => cases h
  next off n hkind =>
  cases h
  simp only [exec_advanceReady, execAdvanceReady, hop, hkind]
  exact if_neg (by simp [State.unstopped_of_live? hlive])

/-! ### I/O requests -/

theorem exec_ioreqPost_of_due (h : bargeAct .ioreqPost s = some t) : exec .ioreqPost s = .next t := by
  rcases hop : s.opAt s.choice.target with _ | o <;> simp only [bargeAct, hop, reduceCtorEq] at h
  split at h
  case h_2 => cases h
  next ls hkind =>
  obtain ⟨hdue, hx⟩ := Option.ite_none_left_eq_some.mp h
  cases hx
  rw [Bool.or_eq_true, not_or, Bool.not_eq_true _, Bool.not_eq_true _] at hdue
  obtain ⟨hready, hranges⟩ := hdue
  simp only [exec_ioreqPost, execIoreqPost, hop, hkind]
  rewrite [hready, if_neg Bool.false_ne_true, firstSome_eq_none]
  · rfl
  · intro r hr
    have hrange := List.any_eq_false.mp hranges r hr
    cases hplaces : s.ioRange o.layer r with
    | error f => simp [hplaces] at hrange
    | ok p => rfl

/-- The answer is the bytes of the request, to a range that is mapped or refused, or a status of the request's kind (R257). -/
theorem exec_ioRequestEnd_of_due (h : bargeAct .ioRequestEnd s = some t) : exec .ioRequestEnd s = .next t := by
  rcases hop : s.opAt s.choice.target with _ | o <;> simp only [bargeAct, hop, reduceCtorEq] at h
  split at h
  case h_2 => cases h
  next ls hkind =>
  rcases hrec : ls.find? (fun r => r.lane == s.choice.lane && r.ended.isNone) with _ | r <;> simp only [hrec, reduceCtorEq] at h
  simp only [exec_ioRequestEnd, execIoRequestEnd, hop, hkind, hrec]
  split at h
  case h_1 b ps hanswer hrange =>
    obtain ⟨hlength, hx⟩ := Option.ite_none_right_eq_some.mp h
    cases hx
    simp only [hanswer, hrange]
    exact if_neg (not_not.mpr hlength)
  case h_2 b hanswer hrange =>
    obtain ⟨hlength, hx⟩ := Option.ite_none_right_eq_some.mp h
    cases hx
    simp only [hanswer, hrange]
    exact if_neg (not_not.mpr hlength)
  case h_3 c hanswer =>
    obtain ⟨hends, hx⟩ := Option.ite_none_right_eq_some.mp h
    cases hx
    simp only [hanswer]
    exact congrArg _ (if_pos (IoRec.status_ends hends))
  case h_4 => cases h

theorem exec_ioTimeout_of_due (h : bargeAct .ioTimeout s = some t) : exec .ioTimeout s = .next t := by
  rcases hop : s.opAt s.choice.target with _ | o <;> simp only [bargeAct, hop, reduceCtorEq] at h
  split at h
  case h_2 => cases h
  next ls hkind =>
  rcases hrec : ls.find? (fun r => r.lane == s.choice.lane && r.ended.isNone) with _ | r <;> simp only [hrec, reduceCtorEq] at h
  rcases htarget : find (s.layer o.layer).iotgts r.tgt with _ | x <;> simp only [htarget, reduceCtorEq] at h
  obtain ⟨hlate, hx⟩ := Option.ite_none_right_eq_some.mp h
  cases hx
  simp only [exec_ioTimeout, execIoTimeout, hop, hkind, hrec, htarget]
  exact congrArg _ (if_pos hlate)

end

/-- Settles O21, act by act; the table holds no other. -/
theorem bargeActsComplete : Obligations.BargeActsComplete := by
  intro a s t h
  cases a
  case bargeEngineTake => exact exec_bargeEngineTake_of_due h
  case bargeComplete => exact exec_bargeComplete_of_due h
  case bargeFault => exact exec_bargeFault_of_due h
  case rawaitComplete => exact exec_rawaitComplete_of_due h
  case rarelRelease => exact exec_rarelRelease_of_due h
  case advanceReady => exact exec_advanceReady_of_due h
  case ioreqPost => exact exec_ioreqPost_of_due h
  case ioRequestEnd => exact exec_ioRequestEnd_of_due h
  case ioTimeout => exact exec_ioTimeout_of_due h
  all_goals exact nomatch h

end Sys2Proof.Machine
end

section
/-! PROOFS. Directed rounding encloses, and so do the sums, differences and negations of bounds (spec/02_formats.md R132,
spec/10_intervals.md R260, R276). Endpoints are compared and added as extended real numbers. -/

namespace Sys2Proof.Machine

/-! ### Endpoints as extended real numbers -/

/-- The number an endpoint stands for. -/
noncomputable def Ep.value : Ep → EReal
  | .inf b => if b then ⊥ else ⊤
  | .fin m e => (((m : ℝ) * (2 : ℝ) ^ e : ℝ) : EReal)

@[simp] theorem Ep.value_inf (b : Bool) : (Ep.inf b).value = if b then ⊥ else ⊤ := rfl

theorem Ep.value_fin (m e : Int) : (Ep.fin m e).value = (((m : ℝ) * (2 : ℝ) ^ e : ℝ) : EReal) := rfl

/-- The exponent lowered, the mantissa scaled. -/
theorem scale_down (m : Int) {e l : Int} (h : l ≤ e) : ((m * 2 ^ (e - l).toNat : Int) : ℝ) * (2 : ℝ) ^ l = (m : ℝ) * (2 : ℝ) ^ e := by
  have hexp : e = ((e - l).toNat : Int) + l := by omega
  rw [hexp, zpow_add₀ two_ne_zero, zpow_natCast, ← hexp]
  push_cast
  ring

theorem scale_down_nat (n : Nat) {e l : Int} (h : l ≤ e) : ((n * 2 ^ (e - l).toNat : Nat) : ℝ) * (2 : ℝ) ^ l = (n : ℝ) * (2 : ℝ) ^ e := by
  exact_mod_cast scale_down n h

theorem Ep.le_iff (a b : Ep) : a.le b = true ↔ a.value ≤ b.value := by
  cases a with
  | inf s => cases b <;> cases s <;> simp [Ep.le, Ep.value_fin, -EReal.coe_mul]
  | fin m e =>
    cases b with
    | inf s => cases s <;> simp [Ep.le, Ep.value_fin, -EReal.coe_mul]
    | fin n k =>
      have hle : (if e ≤ k then e else k) ≤ e ∧ (if e ≤ k then e else k) ≤ k := by split <;> omega
      rw [Ep.value_fin, Ep.value_fin, EReal.coe_le_coe_iff, ← scale_down m hle.1, ← scale_down n hle.2,
        mul_le_mul_iff_left₀ (zpow_pos two_pos _), Int.cast_le]
      exact decide_eq_true_iff

theorem Ep.value_neg (a : Ep) : a.neg.value = -a.value := by
  cases a with
  | inf s => cases s <;> simp [Ep.neg, Ep.value]
  | fin m e => rw [Ep.neg, Ep.value_fin, Ep.value_fin, Int.cast_neg, neg_mul, EReal.coe_neg]

/-- A sum of endpoints is the sum of their numbers. -/
theorem Ep.value_add {a b z : Ep} (h : a.add b = some z) : z.value = a.value + b.value := by
  cases a with
  | inf s =>
    cases b with
    | inf t =>
      obtain ⟨rfl, hz⟩ := Option.ite_none_right_eq_some.mp h
      cases hz
      cases s <;> rfl
    | fin n k => cases h; cases s <;> rfl
  | fin m e =>
    cases b with
    | inf t => cases h; cases t <;> rfl
    | fin n k =>
      cases h
      have hle : (if e ≤ k then e else k) ≤ e ∧ (if e ≤ k then e else k) ≤ k := by split <;> omega
      rw [Ep.value_fin, Ep.value_fin, Ep.value_fin, ← EReal.coe_add, ← scale_down m hle.1, ← scale_down n hle.2, Int.cast_add, add_mul]

/-! ### Patterns of binary32 (R130) -/

/-- A sign's factor. -/
def signOf (s : Bool) : ℝ := if s then -1 else 1

theorem signed_cast (s : Bool) (m : Nat) : ((signed s m : Int) : ℝ) = signOf s * m := by
  cases s <;> simp [signed, signOf]

theorem Ep.value_signed (s : Bool) (m : Nat) (e : Int) :
    (Ep.fin (signed s m) e).value = ((signOf s * (m * (2 : ℝ) ^ e) : ℝ) : EReal) := by
  rw [Ep.value_fin, signed_cast, mul_assoc]

/-- Of two numbers of sign s, a lies no further from zero than b. -/
def nearer (s : Bool) (a b : EReal) : Prop := if s then b ≤ a else a ≤ b

theorem nearer_of_le (s : Bool) {x y : ℝ} (h : x ≤ y) : nearer s ((signOf s * x : ℝ) : EReal) ((signOf s * y : ℝ) : EReal) := by
  cases s <;> simpa [nearer, signOf, -EReal.coe_mul] using h

theorem nearer_inf (s : Bool) (a : EReal) : nearer s a (Ep.inf s).value := by
  cases s
  · exact le_top
  · exact bot_le

theorem Fmt.f32_eb : Fmt.f32.eb = 8 := rfl
theorem Fmt.f32_fb : Fmt.f32.fb = 23 := rfl
theorem Fmt.f32_bias : Fmt.f32.bias = 127 := rfl

/-- The value of a sign, an exponent field and a fraction field. -/
theorem unpack_f32_fields (s : Bool) {be fr : Nat} (hbe : be < 2 ^ 8) (hfr : fr < 2 ^ 23) :
    unpack .f32 false (Fmt.f32.signBit s + be * 2 ^ 23 + fr) =
      if be = 255 then (if fr = 0 then .inf s else .nan s fr 23)
      else if be = 0 then .fin s fr (-149) else .fin s (2 ^ 23 + fr) (be - 150) := by
  have hsign : tbit (Fmt.f32.signBit s + be * 2 ^ 23 + fr) 31 = s := by
    cases s <;> simp [tbit, Fmt.signBit, Fmt.f32] <;> omega
  have hexp : bits (Fmt.f32.signBit s + be * 2 ^ 23 + fr) 30 23 = be := by
    cases s <;> simp [bits, Fmt.signBit, Fmt.f32] <;> omega
  have hfrac : (Fmt.f32.signBit s + be * 2 ^ 23 + fr) % 2 ^ 23 = fr := by
    cases s <;> simp [Fmt.signBit, Fmt.f32] <;> omega
  have hbias : (be : Int) - (Fmt.f32.bias : Int) - (23 : Nat) = be - 150 := by
    rw [Fmt.f32_bias]
    omega
  unfold unpack
  simp only [Fmt.f32_eb, Fmt.f32_fb, Nat.reduceAdd, Nat.reduceSub, hsign, hexp, hfrac, hbias]
  rfl

theorem f32Ep_subnormal (s : Bool) {n : Nat} (h : n < 2 ^ 23) : f32Ep (Fmt.f32.signBit s + n) = .fin (signed s n) (-149) := by
  have := unpack_f32_fields s (be := 0) (by decide) h
  rw [Nat.zero_mul, Nat.add_zero] at this
  rw [f32Ep, this]
  rfl

theorem f32Ep_normal (s : Bool) {be fr : Nat} (h0 : be ≠ 0) (hbe : be < 255) (hfr : fr < 2 ^ 23) :
    f32Ep (Fmt.f32.signBit s + be * 2 ^ 23 + fr) = .fin (signed s (2 ^ 23 + fr)) (be - 150) := by
  rw [f32Ep, unpack_f32_fields s (by omega) hfr, if_neg (by omega), if_neg h0]
  rfl

theorem f32Ep_inf (s : Bool) : f32Ep (Fmt.f32.inf s) = .inf s := by cases s <;> decide

theorem f32Ep_huge (s : Bool) : f32Ep (Fmt.f32.huge s) = .fin (signed s (2 ^ 24 - 1)) 104 := by cases s <;> decide

/-- A zero's sign does not count. -/
theorem f32Ep_posZero_value (x : Nat) : (f32Ep (posZero x)).value = (f32Ep x).value := by
  unfold posZero
  split
  · next h =>
    rw [h, show f32Ep 0 = .fin 0 (-149) by decide, show f32Ep (2 ^ 31) = .fin 0 (-149) by decide]
  · rfl

/-! ### Multiples of a power of two (R132) -/

/-- m 2^e in the unit 2^q, that is at most 2^e. -/
theorem quantize_of_le {mode : Nat} {s : Bool} {m : Nat} {e q : Int} (h : q ≤ e) : quantize mode s m e q = m * 2 ^ (e - q).toNat := if_pos h

theorem quantize_of_lt {mode : Nat} {s : Bool} {m : Nat} {e q : Int} (h : e < q) : quantize mode s m e q =
    m / 2 ^ (q - e).toNat + if roundsUp mode s (m / 2 ^ (q - e).toNat) (m % 2 ^ (q - e).toNat) (q - e).toNat then 1 else 0 := by
  rw [quantize, if_neg (by omega)]
  dsimp only
  split <;> rfl

/-- An exact multiple is kept. -/
theorem quantize_exact {mode : Nat} {s : Bool} {m : Nat} {e q : Int} (h : q ≤ e) :
    (quantize mode s m e q : ℝ) * (2 : ℝ) ^ q = m * (2 : ℝ) ^ e := by
  rw [quantize_of_le h, scale_down_nat m h]

/-- Rounding towards zero does not go above. -/
theorem quantize_towards {mode : Nat} {s : Bool} (hmode : ∀ n rem sh, roundsUp mode s n rem sh = false) (m : Nat) (e q : Int) :
    (quantize mode s m e q : ℝ) * (2 : ℝ) ^ q ≤ m * (2 : ℝ) ^ e := by
  rcases le_or_gt q e with h | h
  · exact (quantize_exact h).le
  · rw [quantize_of_lt h, hmode, ← scale_down_nat _ h.le]
    exact mul_le_mul_of_nonneg_right (Nat.cast_le.mpr (Nat.div_mul_le_self ..)) (zpow_pos two_pos e).le

/-- Rounding away from zero does not go below. -/
theorem quantize_away {mode : Nat} {s : Bool} (hmode : ∀ n rem sh, roundsUp mode s n rem sh = (rem != 0)) (m : Nat) (e q : Int) :
    m * (2 : ℝ) ^ e ≤ (quantize mode s m e q : ℝ) * (2 : ℝ) ^ q := by
  rcases le_or_gt q e with h | h
  · exact (quantize_exact h).ge
  · rw [quantize_of_lt h, hmode, ← scale_down_nat _ h.le]
    refine mul_le_mul_of_nonneg_right (Nat.cast_le.mpr ?_) (zpow_pos two_pos e).le
    have hdiv := Nat.div_add_mod m (2 ^ (q - e).toNat)
    have hmod := Nat.mod_lt m (Nat.two_pow_pos (q - e).toNat)
    rw [Nat.add_mul, mul_comm (m / _)]
    split
    · omega
    · next hrem =>
      rw [bne_iff_ne, not_not] at hrem
      omega

/-- A number of w + 1 bits at least fills the unit w bits below its highest bit. -/
theorem quantize_ge {mode : Nat} {s : Bool} {m w : Nat} {e q : Int} (hm : m ≠ 0) (h : q ≤ e + Nat.log2 m - w) :
    2 ^ w ≤ quantize mode s m e q := by
  have hlow : 2 ^ Nat.log2 m ≤ m := Nat.log2_self_le hm
  rcases le_or_gt q e with hq | hq
  · rw [quantize_of_le hq]
    calc 2 ^ w ≤ 2 ^ (Nat.log2 m + (e - q).toNat) := Nat.pow_le_pow_right two_pos (by omega)
      _ = 2 ^ Nat.log2 m * 2 ^ (e - q).toNat := pow_add ..
      _ ≤ m * 2 ^ (e - q).toNat := Nat.mul_le_mul_right _ hlow
  · rw [quantize_of_lt hq]
    refine le_trans ((Nat.le_div_iff_mul_le (Nat.two_pow_pos _)).mpr ?_) (Nat.le_add_right _ _)
    calc 2 ^ w * 2 ^ (q - e).toNat = 2 ^ (w + (q - e).toNat) := (pow_add ..).symm
      _ ≤ 2 ^ Nat.log2 m := Nat.pow_le_pow_right two_pos (by omega)
      _ ≤ m := hlow

/-- A number is at most a full one of w + 1 bits in a unit no smaller than that w bits below its highest bit. -/
theorem quantize_le {mode : Nat} {s : Bool} {m w : Nat} {e q : Int} (h : e + Nat.log2 m - w ≤ q) :
    quantize mode s m e q ≤ 2 ^ (w + 1) := by
  have hhigh : m < 2 ^ (Nat.log2 m + 1) := Nat.lt_log2_self
  rcases le_or_gt q e with hq | hq
  · rw [quantize_of_le hq]
    calc m * 2 ^ (e - q).toNat ≤ 2 ^ (Nat.log2 m + 1) * 2 ^ (e - q).toNat := Nat.mul_le_mul_right _ hhigh.le
      _ = 2 ^ (Nat.log2 m + 1 + (e - q).toNat) := (pow_add ..).symm
      _ ≤ 2 ^ (w + 1) := Nat.pow_le_pow_right two_pos (by omega)
  · have hlt : m / 2 ^ (q - e).toNat < 2 ^ (w + 1) := by
      refine (Nat.div_lt_iff_lt_mul (Nat.two_pow_pos _)).mpr ?_
      calc m < 2 ^ (Nat.log2 m + 1) := hhigh
        _ ≤ 2 ^ (w + 1 + (q - e).toNat) := Nat.pow_le_pow_right two_pos (by omega)
        _ = 2 ^ (w + 1) * 2 ^ (q - e).toNat := pow_add ..
    rw [quantize_of_lt hq]
    split <;> omega

/-! ### A rounded number's pattern -/

/-- The unit of a format in which m 2^e is rounded: that of its highest bit, or of the subnormal numbers. -/
def Fmt.unit (f : Fmt) (m : Nat) (e : Int) : Int :=
  (if e + (Nat.log2 m : Int) < 1 - (f.bias : Int) then 1 - (f.bias : Int) else e + (Nat.log2 m : Int)) - f.fb

/-- The directed mode rounds numbers of sign s towards zero: ru those below zero, rd those above. -/
def towardsZero (mode : Nat) (s : Bool) : Prop := mode = 2 ↔ s = true

/-- What a pattern past the largest finite one becomes under a directed mode: that one, or an infinity. -/
def Fmt.over (f : Fmt) (mode : Nat) (s : Bool) : Nat := if (mode = 2 ↔ s = true) then f.huge s else f.inf s

theorem Fmt.over_towards (f : Fmt) {mode : Nat} {s : Bool} (h : towardsZero mode s) : f.over mode s = f.huge s := if_pos h

theorem Fmt.over_away (f : Fmt) {mode : Nat} {s : Bool} (h : ¬ towardsZero mode s) : f.over mode s = f.inf s := if_neg h

/-- The pattern of the significand k in the unit 2^q. -/
def Fmt.place (f : Fmt) (mode : Nat) (s : Bool) (k : Nat) (q : Int) : Nat :=
  if k < 2 ^ f.fb then f.signBit s + k
  else if 2 ^ f.eb - 1 ≤ (q + f.fb + f.bias).toNat then f.over mode s
  else f.signBit s + (q + f.fb + f.bias).toNat * 2 ^ f.fb + (k - 2 ^ f.fb)

/-- The pattern of n 2^q, where n may have been rounded up to a power of two. -/
def Fmt.pattern (f : Fmt) (mode : Nat) (s : Bool) (n : Nat) (q : Int) : Nat :=
  f.place mode s (if n = 2 ^ (f.fb + 1) then 2 ^ f.fb else n) (if n = 2 ^ (f.fb + 1) then q + 1 else q)

/-- Rounding, under a directed mode and without FTZ, is rounding to a multiple of the unit. -/
theorem roundFin_eq_pattern (f : Fmt) {mode : Nat} (hmode : mode = 2 ∨ mode = 3) (s : Bool) {m : Nat} (hm : m ≠ 0) (e : Int) :
    roundFin f mode false s m e = f.pattern mode s (quantize mode s m e (f.unit m e)) (f.unit m e) := by
  unfold roundFin
  simp only [if_neg hm, Bool.false_and, decide_eq_true_eq]
  rcases hmode with rfl | rfl <;> cases s <;> rfl

/-- The value of a finite pattern of binary32, or an overflow. -/
theorem f32Ep_place (mode : Nat) (s : Bool) {k : Nat} {q : Int} (hk : k < 2 ^ 24) (hq : -149 ≤ q) (hlow : k < 2 ^ 23 → q = -149) :
    f32Ep (Fmt.f32.place mode s k q) = .fin (signed s k) q ∨
      2 ^ 23 ≤ k ∧ 105 ≤ q ∧ Fmt.f32.place mode s k q = Fmt.f32.over mode s := by
  unfold Fmt.place
  split
  case isTrue hsub =>
    rw [Fmt.f32_fb] at hsub
    exact .inl (by rw [f32Ep_subnormal s hsub, hlow hsub])
  case isFalse hfull =>
    rw [Fmt.f32_fb] at hfull
    split
    case isTrue hover =>
      rw [Fmt.f32_eb, Fmt.f32_fb, Fmt.f32_bias] at hover
      exact .inr ⟨by omega, by omega, rfl⟩
    case isFalse hnormal =>
      rw [Fmt.f32_eb, Fmt.f32_fb, Fmt.f32_bias] at hnormal
      rw [Fmt.f32_fb, Fmt.f32_bias, f32Ep_normal s (by omega) (by omega) (by omega), show 2 ^ 23 + (k - 2 ^ 23) = k by omega,
        show (((q + (23 : Nat) + (127 : Nat)).toNat : Int) - 150) = q by omega]
      exact .inl rfl

/-- The value of a rounded number, or an overflow: a carry moves the unit, not the value. -/
theorem f32Ep_pattern (mode : Nat) (s : Bool) {n : Nat} {q : Int} (hn : n ≤ 2 ^ 24) (hq : -149 ≤ q) (hlow : n < 2 ^ 23 → q = -149) :
    (f32Ep (Fmt.f32.pattern mode s n q)).value = ((signOf s * (n * (2 : ℝ) ^ q) : ℝ) : EReal) ∨
      (2 : ℝ) ^ (128 : Int) ≤ n * (2 : ℝ) ^ q ∧ Fmt.f32.pattern mode s n q = Fmt.f32.over mode s := by
  obtain ⟨k, r, hk, hr, hlow', hkn, hpat⟩ : ∃ (k : Nat) (r : Int), k < 2 ^ 24 ∧ -149 ≤ r ∧ (k < 2 ^ 23 → r = -149) ∧
      (k : ℝ) * (2 : ℝ) ^ r = n * (2 : ℝ) ^ q ∧ Fmt.f32.pattern mode s n q = Fmt.f32.place mode s k r := by
    unfold Fmt.pattern
    rcases hn.eq_or_lt with rfl | hlt
    · refine ⟨2 ^ 23, q + 1, by decide, by omega, by omega, ?_, rfl⟩
      rw [zpow_add₀ two_ne_zero]
      norm_num
      ring
    · have hcarry : n ≠ 2 ^ (Fmt.f32.fb + 1) := hlt.ne
      exact ⟨n, q, hlt, hq, hlow, rfl, by rw [if_neg hcarry, if_neg hcarry]⟩
  rw [hpat, ← hkn]
  rcases f32Ep_place mode s hk hr hlow' with hfin | ⟨hfull, hlarge, hover⟩
  · exact .inl (by rw [hfin, Ep.value_signed])
  · refine .inr ⟨?_, hover⟩
    calc (2 : ℝ) ^ (128 : Int) = (2 : ℝ) ^ 23 * (2 : ℝ) ^ (105 : Int) := by norm_num
      _ ≤ (k : ℝ) * (2 : ℝ) ^ r := by
        gcongr
        · exact_mod_cast hfull
        · norm_num

/-! ### Directed rounding (R132) -/

theorem roundsUp_towards {mode : Nat} {s : Bool} (hmode : mode = 2 ∨ mode = 3) (h : towardsZero mode s) (n rem sh : Nat) :
    roundsUp mode s n rem sh = false := by
  rcases hmode with rfl | rfl <;> cases s <;> simp [towardsZero, roundsUp] at h ⊢

theorem roundsUp_away {mode : Nat} {s : Bool} (hmode : mode = 2 ∨ mode = 3) (h : ¬ towardsZero mode s) (n rem sh : Nat) :
    roundsUp mode s n rem sh = (rem != 0) := by
  rcases hmode with rfl | rfl <;> cases s <;> simp [towardsZero, roundsUp] at h ⊢

section
variable {mode : Nat} (hmode : mode = 2 ∨ mode = 3) {s : Bool} {m : Nat} (hm : m ≠ 0) (e : Int)
include hmode hm

/-- The value of a rounded number in its unit, or an overflow. -/
theorem f32Ep_roundFin : (f32Ep (roundFin .f32 mode false s m e)).value =
      ((signOf s * (quantize mode s m e (Fmt.f32.unit m e) * (2 : ℝ) ^ Fmt.f32.unit m e) : ℝ) : EReal) ∨
    (2 : ℝ) ^ (128 : Int) ≤ quantize mode s m e (Fmt.f32.unit m e) * (2 : ℝ) ^ Fmt.f32.unit m e ∧
      roundFin .f32 mode false s m e = Fmt.f32.over mode s := by
  have hunit : Fmt.f32.unit m e = (if e + (Nat.log2 m : Int) < -126 then -126 else e + (Nat.log2 m : Int)) - 23 := rfl
  rw [roundFin_eq_pattern .f32 hmode s hm]
  refine f32Ep_pattern mode s (quantize_le ?_) ?_ fun hlow => ?_
  · rw [hunit]; split <;> omega
  · rw [hunit]; split <;> omega
  · by_contra hne
    refine absurd (quantize_ge (mode := mode) (s := s) (w := 23) hm ?_) hlow.not_ge
    rw [hunit] at hne ⊢
    split at hne <;> split <;> omega

/-- Towards zero, the magnitude does not grow. -/
theorem f32Ep_roundFin_towards (h : towardsZero mode s) :
    nearer s (f32Ep (roundFin .f32 mode false s m e)).value (Ep.fin (signed s m) e).value := by
  have hle := quantize_towards (roundsUp_towards hmode h) m e (Fmt.f32.unit m e)
  rw [Ep.value_signed]
  rcases f32Ep_roundFin hmode hm e (s := s) with hfin | ⟨hlarge, hover⟩
  · rw [hfin]
    exact nearer_of_le s hle
  · have hhuge : ((2 ^ 24 - 1 : Nat) : ℝ) * (2 : ℝ) ^ (104 : Int) ≤ (2 : ℝ) ^ (128 : Int) := by norm_num
    rw [hover, Fmt.over_towards _ h, f32Ep_huge, Ep.value_signed]
    exact nearer_of_le s (hhuge.trans (hlarge.trans hle))

/-- Away from zero, it does not shrink. -/
theorem f32Ep_roundFin_away (h : ¬ towardsZero mode s) :
    nearer s (Ep.fin (signed s m) e).value (f32Ep (roundFin .f32 mode false s m e)).value := by
  rcases f32Ep_roundFin hmode hm e (s := s) with hfin | ⟨-, hover⟩
  · rw [hfin, Ep.value_signed]
    exact nearer_of_le s (quantize_away (roundsUp_away hmode h) m e _)
  · rw [hover, Fmt.over_away _ h, f32Ep_inf]
    exact nearer_inf s _

end

/-- rd does not raise a number other than zero, and ru does not lower it. -/
theorem f32Ep_roundFin_encloses (s : Bool) {m : Nat} (hm : m ≠ 0) (e : Int) :
    (f32Ep (roundFin .f32 3 false s m e)).value ≤ (Ep.fin (signed s m) e).value ∧
      (Ep.fin (signed s m) e).value ≤ (f32Ep (roundFin .f32 2 false s m e)).value := by
  cases s with
  | false =>
    exact ⟨f32Ep_roundFin_towards (.inr rfl) hm e (s := false) (by simp [towardsZero]),
      f32Ep_roundFin_away (.inl rfl) hm e (s := false) (by simp [towardsZero])⟩
  | true =>
    exact ⟨f32Ep_roundFin_away (.inr rfl) hm e (s := true) (by simp [towardsZero]),
      f32Ep_roundFin_towards (.inl rfl) hm e (s := true) (by simp [towardsZero])⟩

/-! ### Bounds (R276) -/

theorem signed_natAbs (m : Int) : signed (decide (m < 0)) m.natAbs = m := by
  unfold signed
  split <;> next h => simp only [decide_eq_true_eq] at h; omega

/-- The lower bound lies below, the upper above. -/
theorem Ep.f32_encloses (x : Ep) : (f32Ep (x.f32 3)).value ≤ x.value ∧ x.value ≤ (f32Ep (x.f32 2)).value := by
  cases x with
  | inf s => simp only [Ep.f32, f32Ep_inf, le_refl, and_self]
  | fin m e =>
    simp only [Ep.f32, f32Ep_posZero_value, roundInt]
    by_cases hm : m = 0
    · have hzero : (f32Ep (Fmt.f32.zero false)).value = (Ep.fin m e).value := by
        rw [hm, show f32Ep (Fmt.f32.zero false) = .fin 0 (-149) by decide, Ep.value_fin, Ep.value_fin, Int.cast_zero, zero_mul, zero_mul]
      simp only [if_pos hm, hzero, le_refl, and_self]
    · have hencloses := f32Ep_roundFin_encloses (decide (m < 0)) (Int.natAbs_ne_zero.mpr hm) e
      rw [signed_natAbs] at hencloses
      simpa only [if_neg hm] using hencloses

/-- Settles O51: endpoints compare as the numbers they stand for. -/
theorem outwardRounding : Obligations.OutwardRounding := fun x =>
  ⟨(Ep.le_iff _ _).mpr x.f32_encloses.1, (Ep.le_iff _ _).mpr x.f32_encloses.2⟩

/-- Bounds as written enclose what the exact bounds enclose, and the whole line everything. -/
theorem ivBounds_encloses {lo hi : Option Ep} {v : EReal} (hlo : ∀ l, lo = some l → l.value ≤ v) (hhi : ∀ h, hi = some h → v ≤ h.value) :
    (f32Ep (ivBounds lo hi).lo).value ≤ v ∧ v ≤ (f32Ep (ivBounds lo hi).hi).value := by
  have hwhole : (f32Ep (IvRes.whole false).lo).value ≤ v ∧ v ≤ (f32Ep (IvRes.whole false).hi).value := by
    simp only [IvRes.whole, f32Ep_inf]
    exact ⟨bot_le, le_top⟩
  cases lo with
  | none => exact hwhole
  | some l =>
    cases hi with
    | none => exact hwhole
    | some h => exact ⟨l.f32_encloses.1.trans (hlo l rfl), (hhi h rfl).trans h.f32_encloses.2⟩

/-- The bounds of a sum enclose the sum of enclosed numbers. -/
theorem ivBounds_add_encloses {l h x l' h' y : Ep} (hl : l.value ≤ x.value) (hh : x.value ≤ h.value) (hl' : l'.value ≤ y.value)
    (hh' : y.value ≤ h'.value) {z : Ep} (hz : x.add y = some z) :
    (f32Ep (ivBounds (l.add l') (h.add h')).lo).value ≤ z.value ∧ z.value ≤ (f32Ep (ivBounds (l.add l') (h.add h')).hi).value := by
  rw [Ep.value_add hz]
  refine ivBounds_encloses (fun k hk => ?_) fun k hk => ?_
  · rw [Ep.value_add hk]; exact add_le_add hl hl'
  · rw [Ep.value_add hk]; exact add_le_add hh hh'

theorem Ep.neg_value_le_neg {a b : Ep} (h : a.value ≤ b.value) : b.neg.value ≤ a.neg.value := by
  rw [Ep.value_neg, Ep.value_neg]
  exact EReal.neg_le_neg_iff.mpr h

/-- Settles O52: ESUB is EADD of the negated operand, and ENEG changes the bounds' places. -/
theorem intervalEnclosure : Obligations.IntervalEnclosure := by
  intro a b c x y z _ _ hax hxa hby hyb
  simp only [Ep.le_iff] at hax hxa hby hyb ⊢
  refine ⟨ivBounds_add_encloses hax hxa hby hyb, ivBounds_add_encloses hax hxa (Ep.neg_value_le_neg hyb) (Ep.neg_value_le_neg hby), ?_⟩
  exact ivBounds_encloses (fun l hl => Option.some.inj hl ▸ Ep.neg_value_le_neg hxa) fun h hh => Option.some.inj hh ▸ Ep.neg_value_le_neg hax

end Sys2Proof.Machine
end

section
/-! PROOFS. The allocation of a node (spec/10_intervals.md R262, R266 to R269): the cyclic order of the indices, and what an allocation leaves
of its crew's caddy. -/

namespace Sys2Proof.Machine

/-! ### The cyclic order 1 .. T - 1 -/

/-- The index after `last` (R267). -/
def nextIndex (size last : Nat) : Nat := if last + 1 < size then last + 1 else 1

/-- The index k places after the one that follows `last`. -/
def indexAfter (size last k : Nat) : Nat := 1 + (nextIndex size last - 1 + k) % (size - 1)

section
variable {size : Nat} (hsize : 2 ≤ size)
include hsize

theorem nextIndex_mem (last : Nat) : 1 ≤ nextIndex size last ∧ nextIndex size last < size := by
  unfold nextIndex
  split <;> omega

theorem indexAfter_mem (last k : Nat) : 1 ≤ indexAfter size last k ∧ indexAfter size last k < size := by
  have := Nat.mod_lt (nextIndex size last - 1 + k) (show 0 < size - 1 by omega)
  unfold indexAfter
  omega

/-- The order begins with the index after `last`. -/
theorem indexAfter_zero (last : Nat) : indexAfter size last 0 = nextIndex size last := by
  obtain ⟨hlow, hhigh⟩ := nextIndex_mem hsize last
  rw [indexAfter, Nat.add_zero, Nat.mod_eq_of_lt (by omega)]
  omega

/-- The order goes on from the index that follows `last` as it does from `last`. -/
theorem indexAfter_nextIndex (last k : Nat) : indexAfter size (nextIndex size last) k = indexAfter size last (k + 1) := by
  obtain ⟨hlow, hhigh⟩ := nextIndex_mem hsize last
  unfold indexAfter
  congr 1
  generalize nextIndex size last = i at hlow hhigh
  unfold nextIndex
  split
  · congr 1; omega
  · rw [show i - 1 + (k + 1) = k + (size - 1) by omega, Nat.add_mod_right, Nat.sub_self, Nat.zero_add]

/-- How far an index lies behind the one that follows `last`: the k-th lies k places behind, in turns of T - 1. -/
theorem distance_indexAfter (last k : Nat) :
    (indexAfter size last k + (size - 1) - nextIndex size last) % (size - 1) = k % (size - 1) := by
  obtain ⟨hlow, hhigh⟩ := nextIndex_mem hsize last
  rw [indexAfter, show 1 + (nextIndex size last - 1 + k) % (size - 1) + (size - 1) - nextIndex size last =
    (nextIndex size last - 1 + k) % (size - 1) + (size - 1 - (nextIndex size last - 1)) by omega, Nat.mod_add_mod,
    show nextIndex size last - 1 + k + (size - 1 - (nextIndex size last - 1)) = k + (size - 1) by omega, Nat.add_mod_right]

/-- Every index is reached, at the distance it lies behind. -/
theorem indexAfter_distance (last : Nat) {j : Nat} (hlow : 1 ≤ j) (hhigh : j < size) :
    indexAfter size last ((j + (size - 1) - nextIndex size last) % (size - 1)) = j := by
  obtain ⟨hfrom, hto⟩ := nextIndex_mem hsize last
  rw [indexAfter, Nat.add_mod_mod, show nextIndex size last - 1 + (j + (size - 1) - nextIndex size last) = j - 1 + (size - 1) by omega,
    Nat.add_mod_right, Nat.mod_eq_of_lt (by omega)]
  omega

end

/-! ### The search for a free index -/

theorem nextFree_succ (nodes : List (Nat × Node)) (size fuel last : Nat) : nextFree nodes size (fuel + 1) last =
    if (find nodes (nextIndex size last)).isNone then some (nextIndex size last) else nextFree nodes size fuel (nextIndex size last) := rfl

/-- The search takes the first free index, and passes those before it. -/
theorem nextFree_eq_some {nodes : List (Nat × Node)} {size fuel last i : Nat} (hsize : 2 ≤ size)
    (h : nextFree nodes size fuel last = some i) :
    ∃ k, i = indexAfter size last k ∧ find nodes i = none ∧ ∀ j < k, (find nodes (indexAfter size last j)).isSome := by
  induction fuel generalizing last with
  | zero => cases h
  | succ fuel ih =>
    rw [nextFree_succ] at h
    split at h
    case isTrue hfree =>
      cases h
      exact ⟨0, (indexAfter_zero hsize last).symm, Option.isNone_iff_eq_none.mp hfree, nofun⟩
    case isFalse htaken =>
      obtain ⟨k, hi, hfree, hpassed⟩ := ih h
      refine ⟨k + 1, hi.trans (indexAfter_nextIndex hsize last k), hfree, fun j hj => ?_⟩
      cases j with
      | zero => rw [indexAfter_zero hsize]; exact Option.isSome_iff_ne_none.mpr fun hnone => htaken (Option.isNone_iff_eq_none.mpr hnone)
      | succ j => rw [← indexAfter_nextIndex hsize]; exact hpassed j (by omega)

/-- A search in vain has met no free index among as many as it was allowed. -/
theorem nextFree_eq_none {nodes : List (Nat × Node)} {size fuel last : Nat} (hsize : 2 ≤ size)
    (h : nextFree nodes size fuel last = none) : ∀ j < fuel, (find nodes (indexAfter size last j)).isSome := by
  induction fuel generalizing last with
  | zero => nofun
  | succ fuel ih =>
    rw [nextFree_succ] at h
    split at h
    case isTrue => cases h
    case isFalse htaken =>
      intro j hj
      cases j with
      | zero => rw [indexAfter_zero hsize]; exact Option.isSome_iff_ne_none.mpr fun hnone => htaken (Option.isNone_iff_eq_none.mpr hnone)
      | succ j => rw [← indexAfter_nextIndex hsize]; exact ih h j (by omega)

theorem mem_keys_of_find {α : Type} {m : List (Nat × α)} {k : Nat} (h : (find m k).isSome) : k ∈ m.map (·.1) := by
  induction m with
  | nil => cases h
  | cons p r ih =>
    obtain ⟨a, x⟩ := p
    simp only [find] at h
    split at h
    case isTrue heq => exact List.mem_cons.mpr (.inl heq.symm)
    case isFalse => exact List.mem_cons.mpr (.inr (ih h))

/-- Where an index is free, a search of more places than there are nodes finds one: the places are different indices, or all of them. -/
theorem nextFree_ne_none {nodes : List (Nat × Node)} {size fuel last j : Nat} (hlow : 1 ≤ j) (hhigh : j < size)
    (hfree : find nodes j = none) (hfuel : nodes.length < fuel) : nextFree nodes size fuel last ≠ none := by
  intro hnone
  have hsize : 2 ≤ size := by omega
  have htaken := nextFree_eq_none hsize hnone
  rcases le_or_gt (size - 1) fuel with hall | hsome
  · have hj := htaken ((j + (size - 1) - nextIndex size last) % (size - 1)) ((Nat.mod_lt _ (by omega)).trans_le hall)
    rw [indexAfter_distance hsize last hlow hhigh, hfree] at hj
    cases hj
  · have hnodup : ((List.range fuel).map (indexAfter size last)).Nodup := by
      refine List.nodup_range.map_on fun a ha b hb hab => ?_
      rw [List.mem_range] at ha hb
      have hdist := distance_indexAfter hsize last a
      rw [hab, distance_indexAfter hsize, Nat.mod_eq_of_lt (by omega), Nat.mod_eq_of_lt (by omega)] at hdist
      exact hdist.symm
    have hsub : (List.range fuel).map (indexAfter size last) ⊆ nodes.map (·.1) := by
      intro i hi
      obtain ⟨k, hk, rfl⟩ := List.mem_map.mp hi
      exact mem_keys_of_find (htaken k (List.mem_range.mp hk))
    have hlen := (hnodup.subperm hsub).length_le
    simp only [List.length_map, List.length_range] at hlen
    omega

/-! ### What an allocation leaves of the caddy -/

/-- The caddy unit of crew c has the same last allocation in t as in s, and the same nodes but those of `l`. -/
structure KeepsNodesBut (c : Nat) (l : List Nat) (s t : State) : Prop where
  last : (t.crew c).caddy.last = (s.crew c).caddy.last
  nodes : ∀ i ∉ l, find (t.crew c).caddy.nodes i = find (s.crew c).caddy.nodes i

section
variable {c : Nat} {l : List Nat}

theorem KeepsNodesBut.refl (s : State) : KeepsNodesBut c l s s := ⟨rfl, fun _ _ => rfl⟩

theorem KeepsNodesBut.trans {s t w : State} (h : KeepsNodesBut c l s t) (k : KeepsNodesBut c l t w) : KeepsNodesBut c l s w :=
  ⟨k.last.trans h.last, fun i hi => (k.nodes i hi).trans (h.nodes i hi)⟩

theorem KeepsNodesBut.of_crews {s t : State} (h : t.crews = s.crews) : KeepsNodesBut c l s t := by
  constructor <;> simp only [State.crew, h, implies_true]

theorem KeepsNodesBut.modCaddy (s : State) (f : Caddy → Caddy) (hlast : ∀ d, (f d).last = d.last)
    (hnodes : ∀ d, ∀ i ∉ l, find (f d).nodes i = find d.nodes i) : KeepsNodesBut c l s (s.modCaddy c f) := by
  have hcrew : (s.modCaddy c f).crew c = s.crew c ∨ (s.modCaddy c f).crew c = { s.crew c with caddy := f (s.crew c).caddy } := by
    rcases hc : find s.crews c with _ | k
    · exact .inl (by simp [State.crew, State.modCaddy, look_eq_find, find_alter, hc])
    · exact .inr (State.crew_modCrew _ _ _ (by rw [hc]; rfl))
  constructor
  · rcases hcrew with hc | hc <;> rw [hc]
    exact hlast _
  · rcases hcrew with hc | hc <;> rw [hc]
    · exact fun _ _ => rfl
    · exact hnodes _

theorem KeepsNodesBut.foldl {β : Type} {f : State → β → State} {bs : List β} (hf : ∀ t, ∀ b ∈ bs, KeepsNodesBut c l t (f t b)) (s : State) :
    KeepsNodesBut c l s (bs.foldl f s) := by
  induction bs generalizing s with
  | nil => exact .refl s
  | cons b r ih =>
    exact (hf s b List.mem_cons_self).trans (ih (fun t x hx => hf t x (List.mem_cons_of_mem _ hx)) _)

theorem KeepsNodesBut.spillWrite (s : State) (i : Nat) : KeepsNodesBut c l s (s.spillWrite c i) := by
  unfold State.spillWrite
  dsimp only
  split
  · rename_i e
    exact (KeepsNodesBut.of_crews (by rw [State.writeVa_rest e])).trans (.modCaddy _ _ (fun _ => rfl) fun _ _ _ => rfl)
  · exact .modCaddy _ _ (fun _ => rfl) fun _ _ _ => rfl

theorem KeepsNodesBut.spillTouch (s : State) (i : Nat) : KeepsNodesBut c l s (s.spillTouch c i) := by
  unfold State.spillTouch
  split
  · exact .refl s
  · exact .spillWrite s i

/-- A change of a node that is named leaves the others (R268). -/
theorem KeepsNodesBut.modNode (s : State) (f : Node → Node) {j : Nat} (hj : j ∈ l) : KeepsNodesBut c l s (s.modNode c j f) :=
  (KeepsNodesBut.modCaddy s (fun d => { d with nodes := alter d.nodes j f }) (fun _ => rfl) fun d i hi =>
    (find_alter d.nodes j i f).trans (if_neg fun h => hi (h ▸ hj))).trans (.spillTouch _ j)

end

/-- The caddy with node n entered at index i (R267). -/
def Caddy.enter (d : Caddy) (i slot : Nat) (n : Node) : Caddy :=
  { d with nodes := Machine.insert d.nodes i { n with rc := 1 }, last := i, slots := Machine.insert d.slots slot i }

/-- An allocation that finds an index enters its node there, past a spill write or none, and retains the node's children (R267, R268). -/
theorem State.alloc_eq {s : State} {c i : Nat} {n : Node}
    (h : nextFree (s.crew c).caddy.nodes (s.crew c).nodeSpace ((s.crew c).caddy.nodes.length + 2) (s.crew c).caddy.last = some i) :
    ∃ (t : State) (fault : Option VaFault), (find t.crews c).isSome = (find s.crews c).isSome ∧ s.alloc c n =
      (n.children.foldl (fun t j => t.retain c j) (t.modCaddy c fun d => d.enter i (i % (s.crew c).caddyC) n), i, fault) := by
  simp only [State.alloc, h]
  split
  case isFalse => exact ⟨s, none, rfl, rfl⟩
  split
  case h_2 => exact ⟨s, none, rfl, rfl⟩
  split
  case h_1 t e =>
    refine ⟨t.modCaddy c _, none, ?_, rfl⟩
    rw [State.modCaddy, State.modCrew_crews, find_alter_isSome, State.writeVa_rest e]
  case h_2 f e => exact ⟨s, _, rfl, rfl⟩

/-- The index taken is the last allocated, and holds the new node, which only a child of its own could change (R267, R269). -/
theorem State.alloc_of_nextFree {s : State} {c i : Nat} {n : Node}
    (h : nextFree (s.crew c).caddy.nodes (s.crew c).nodeSpace ((s.crew c).caddy.nodes.length + 2) (s.crew c).caddy.last = some i)
    (hc : (find s.crews c).isSome) : (s.alloc c n).2.1 = i ∧ ((s.alloc c n).1.crew c).caddy.last = i ∧
      (i ∉ n.children → find ((s.alloc c n).1.crew c).caddy.nodes i = some { n with rc := 1 }) := by
  obtain ⟨t, fault, hfound, halloc⟩ := State.alloc_eq (n := n) h
  have hkeeps : KeepsNodesBut c n.children (t.modCaddy c fun d => d.enter i (i % (s.crew c).caddyC) n) (s.alloc c n).1 := by
    rw [halloc]
    exact .foldl (fun t j hj => .modNode t _ hj) _
  have hentered : ((t.modCaddy c fun d => d.enter i (i % (s.crew c).caddyC) n).crew c).caddy =
      (t.crew c).caddy.enter i (i % (s.crew c).caddyC) n := by
    rw [State.modCaddy, State.crew_modCrew _ _ _ (hfound.trans hc)]
  refine ⟨by rw [halloc], by rw [hkeeps.last, hentered]; rfl, fun hi => ?_⟩
  rw [hkeeps.nodes i hi, hentered]
  exact (find_insert _ i i _).trans (if_pos rfl)

/-- Settles O56: the search passes every index nearer than the one it takes. -/
theorem nodeAllocation : Obligations.NodeAllocation := by
  intro s c n size d from_ after ⟨j, hlow, hhigh, hfree⟩ hc
  have hsize : 2 ≤ size := by omega
  obtain ⟨i, hi⟩ := Option.ne_none_iff_exists'.mp
    (nextFree_ne_none (fuel := d.nodes.length + 2) (last := d.last) hlow hhigh hfree (by omega))
  obtain ⟨k, hik, hnone, hpassed⟩ := nextFree_eq_some hsize hi
  obtain ⟨hindex, hlast, hnode⟩ := State.alloc_of_nextFree (n := n) hi hc
  intro t i'
  rw [show i' = i from hindex]
  obtain ⟨hfrom, hto⟩ := hik ▸ indexAfter_mem hsize d.last k
  refine ⟨hfrom, hto, hnone, fun m hm hm' hbefore => ?_, fun hzero hone => ?_, hlast, hnode⟩
  · have hk : after m < k := hbefore.trans_le ((congrArg after hik).trans (distance_indexAfter hsize d.last k) ▸ Nat.mod_le _ _)
    exact indexAfter_distance hsize d.last hm hm' ▸ hpassed _ hk
  · have hfirst : indexAfter size d.last 0 = 1 := by
      rw [indexAfter_zero hsize, hzero, nextIndex, if_pos (by omega)]
    rcases Nat.eq_zero_or_pos k with rfl | hk
    · exact hik.trans hfirst
    · have hone' := hpassed 0 hk
      rw [hfirst, hone] at hone'
      cases hone'

end Sys2Proof.Machine
end

section
/-! PROOFS. Instructions with e destinations (spec/10_intervals.md R274 to R279, R282): where every lane passes its checks, the nodes are free
and no spill write faults, the lanes have all acted. -/

namespace Sys2Proof.Machine

/-! ### The lanes' acts, with the first fault and its lane -/

/-- What lane l adds to the lanes before it, the first fault kept with its lane. -/
def namedLaneStep (act : State → Nat → State × Option VaFault) (a : State × Option (Nat × VaFault)) (l : Nat) :
    State × Option (Nat × VaFault) :=
  match a.2 with
  | some _ => a
  | none => ((act a.1 l).1, (act a.1 l).2.map fun f => (l, f))

/-- Without the lane's name, the lanes act as `runLanes` has them. -/
theorem foldl_namedLaneStep (act : State → Nat → State × Option VaFault) (ls : List Nat) (t : State) :
    ((ls.foldl (namedLaneStep act) (t, none)).1, (ls.foldl (namedLaneStep act) (t, none)).2.map Prod.snd) = runLanes ls t act := by
  rw [runLanes_eq]
  refine (List.foldl_hom (fun a : State × Option (Nat × VaFault) => (a.1, a.2.map Prod.snd)) (fun a l => ?_)).symm
  obtain ⟨w, fault⟩ := a
  cases fault with
  | some f => rfl
  | none =>
    show act w l = ((act w l).1, ((act w l).2.map fun f => (l, f)).map Prod.snd)
    rw [Option.map_map]
    exact Prod.ext rfl Option.map_id'.symm

/-- Lanes that meet no fault leave the state that `runLanes` gives. -/
theorem foldl_namedLaneStep_eq {act : State → Nat → State × Option VaFault} {ls : List Nat} {t : State} (h : (runLanes ls t act).2 = none) :
    ls.foldl (namedLaneStep act) (t, none) = ((runLanes ls t act).1, none) := by
  have hrun := foldl_namedLaneStep act ls t
  rw [← hrun] at h ⊢
  exact Prod.ext rfl (Option.map_eq_none_iff.mp h)

/-! ### Checks that pass -/

/-- The nodes that some of the lanes need are no more than all lanes need. -/
theorem sum_map_filter_le (ls : List Nat) (p : Nat → Bool) (need : Nat → Nat) : ((ls.filter p).map need).sum ≤ (ls.map need).sum :=
  (List.filter_sublist.map need).sum_le_sum fun _ _ => Nat.zero_le _

section
variable {c : Ctx} {t : State} {p : IvPlan}

/-- The lanes of an instruction with e destinations, past every check (R266, R275, R279). -/
theorem IvPlan.ivLanes_eq_ok (hbad : ∀ l, hasLane c.act l = true → p.bad l = none) (hfits : p.fits c t = true)
    (hrun : (runLanes (lanes c.act) (p.start c t) p.act).2 = none) :
    c.ivLanes (p.past t) p.bad p.need p.act p.delay = .ok (runLanes (lanes c.act) (p.start c t) p.act).1 := by
  simp only [IvPlan.fits, Bool.and_eq_true, Option.isNone_iff_eq_none, Bool.or_eq_true, Bool.not_eq_true', decide_eq_true_eq] at hfits
  obtain ⟨⟨hdelay, hreclaims⟩, hfree⟩ := hfits
  have hwait : orFault p.delay (if p.needs c t then (p.start c t).reclaimDelay c.crewId else none) = none := by
    rw [hdelay]
    rcases hreclaims with hneeds | hnone
    · exact if_neg (Bool.not_eq_true _ ▸ hneeds)
    · exact ite_eq_right_iff.mpr fun _ => hnone
  have hacts := foldl_namedLaneStep_eq hrun
  have hsound : (lanes c.act).find? (fun l => (p.bad l).isSome) = none := by
    refine List.find?_eq_none.mpr fun l hl => ?_
    simp [hbad l ((mem_lanes _ _).mp hl)]
  have hspent : (lanes c.act).find? (fun l => decide ((p.start c t).freeNodes c.crewId <
      (((lanes c.act).filter (· ≤ l)).map (p.need (p.start c t))).sum)) = none := by
    refine List.find?_eq_none.mpr fun l _ => ?_
    have := sum_map_filter_le (lanes c.act) (· ≤ l) (p.need (p.start c t))
    simp only [decide_eq_true_eq]
    omega
  have hstart : (if ((lanes c.act).map (p.need (p.past t))).sum != 0 then (p.past t).reclaimAll c.crewId else p.past t) = p.start c t := rfl
  unfold IvPlan.needs at hwait
  unfold Ctx.ivLanes
  simp only [hstart, hwait, hsound, hspent]
  generalize hr : List.foldl _ (p.start c t, none) (lanes c.act) = r
  obtain rfl := hr.symm.trans hacts
  rfl

end

/-! ### The instructions -/

/-- Past its lanes, such an instruction clears the destination in the lanes that ZERO names (R41). -/
def Effect.clears (e : Effect) (c : Ctx) (d : Reg) : Effect :=
  match e with
  | .ok t => .ok (c.zeroRest t d.toNat 4)
  | e => e

section
variable {i : Instr} {s : State} {u : Issue} {p : IvPlan} (h : Ready i s u)
  (hbad : ∀ l, hasLane (s.ctx i u).act l = true → p.bad l = none) (hfits : p.fits (s.ctx i u) (s.issued i u) = true)
  (hrun : (runLanes (Machine.lanes (s.ctx i u).act) (p.start (s.ctx i u) (s.issued i u)) p.act).2 = none)
include h hbad hfits hrun

/-- An effect that runs its plan's lanes and then clears the rest, as every instruction with e destinations does. -/
theorem Ready.exec_intervals {eff : Ctx → State → Effect} (hx : exec i s = issueInstr i s eff)
    (he : eff (s.ctx i u) (s.issued i u) =
      ((s.ctx i u).ivLanes (p.past (s.issued i u)) p.bad p.need p.act p.delay).clears (s.ctx i u) p.d) :
    exec i s = .next ((s.ctx i u).zeroRest (runLanes (Machine.lanes (s.ctx i u).act)
      (p.start (s.ctx i u) (s.issued i u)) p.act).1 p.d.toNat 4) :=
  h.exec_ok hx (by rw [he, IvPlan.ivLanes_eq_ok hbad hfits hrun]; rfl)

end

/-- The arithmetic instructions share one effect, and one plan (R276). -/
theorem arith_of_intervalOf {i : Instr} {d : Reg} {op n : Nat} (h : intervalOf i = some (d, op, n)) :
    (∀ s, exec i s = ivArith i op n d s) ∧ ∀ c t, intervalPlan i c t = some
      ⟨d, fun l => if (c.ivs n l).any IvSrc.bad then some 0x28 else none, fun _ l => c.ivNeed n l, c.ivLane d op n, 0, none⟩ := by
  cases i <;> cases h <;> exact ⟨fun _ => rfl, fun _ _ => rfl⟩

/-- The integer a leaf is made of is its operand's, read under its type (R104, R277). -/
theorem eleafi_value (ty x : Nat) : extT (if ty = 4 then 4 else if ty = 7 then 7 else 3) x =
    if ty = 4 then sext x 64 else if ty = 7 then ((x % 2 ^ 32 : Nat) : Int) else sext x 32 := by
  split
  · rfl
  · split <;> rfl

/-- Settles O18: the arithmetic instructions by their common plan, the four others each by its own. -/
theorem intervalsComplete : Obligations.IntervalsComplete := by
  intro i s u p h hp hbad hfits hrun
  rcases hof : intervalOf i with _ | ⟨d, op, n⟩
  case some =>
    obtain ⟨hx, hplan⟩ := arith_of_intervalOf hof
    cases hp.symm.trans (hplan _ _)
    exact h.exec_intervals hbad hfits hrun (hx s) rfl
  cases i
  case eadd | esub | emul | ediv | esqrt | eneg | esq | efma => cases hof
  case eleaf => cases hp; exact h.exec_intervals hbad hfits hrun (exec_eleaf ..) rfl
  case esever => cases hp; exact h.exec_intervals hbad hfits hrun (exec_esever ..) rfl
  case eleafi =>
    cases hp
    refine h.exec_intervals hbad hfits hrun (exec_eleafi ..) ?_
    simp only [eleafi_value]
    rfl
  case emov q d a adopt =>
    cases hp
    refine h.exec_intervals hbad hfits hrun (exec_emov ..) (congrArg (Effect.clears · (s.ctx _ u) d) ?_)
    -- The free values it may take, the lanes' checks, and the lanes' acts, as the plan writes them.
    congr 1
    · simp only [IvPlan.past]
      cases adopt <;> rfl
    · funext l
      simp only [Bool.or_eq_true, Bool.not_eq_true']
    · funext t l
      simp only [Ctx.emovLane, Bool.and_eq_true, decide_eq_true_eq, Bool.or_eq_true, Bool.not_eq_true']
      cases adopt <;> cases ((s.ctx (.emov q d a _) u).iv 0 l).hv <;> simp
  all_goals cases hp

end Sys2Proof.Machine
end

section
/-! PROOFS. The refinement, matrix, weir and neighbour engines, the caddy unit and the bin unit (spec/10_intervals.md R271,
spec/11_decisions.md R291 to R299, spec/12_matrix.md R313, R320 to R332, spec/13_weir.md R336 to R348, spec/14_points.md R358 to R368,
spec/15_tasks.md R374): where the table calls an act due, the act leaves the table's state. -/

namespace Sys2Proof.Machine

section
variable {s t : State}

/-! ### The caddy unit -/

/-- No fault of a spilled node's read delays the node's entry (R268, R271). -/
theorem exec_reclamation_of_due (h : engineAct .reclamation s = some t) : exec .reclamation s = .next t := by
  obtain ⟨hread, hx⟩ := Option.ite_none_left_eq_some.mp h
  cases hx
  rw [exec_reclamation, execReclamation]
  split
  case h_1 f hdelay =>
    obtain ⟨hfree, hf⟩ := Option.ite_none_right_eq_some.mp hdelay
    exact absurd (by simp [hfree, hf]) hread
  case h_2 => rfl

/-! ### The refinement engine -/

theorem exec_refinementAdmit_of_due (h : engineAct .refinementAdmit s = some t) : exec .refinementAdmit s = .next t := by
  rcases hreq : find s.reqs s.choice.target with _ | r <;> simp only [engineAct, hreq, reduceCtorEq] at h
  obtain ⟨⟨hcaptured, hfirst, hslot, hopen⟩, hx⟩ := Option.ite_none_right_eq_some.mp h
  cases hx
  simp only [exec_refinementAdmit, execRefinementAdmit, hreq]
  exact if_pos (by simp only [hcaptured, hfirst, hslot, hopen, Bool.not_false, BEq.rfl, decide_true, Bool.and_self])

/-- A request in a slot reads no spilled node that faults; it leaves its slot where it needs more than the slot's store (R299). -/
theorem exec_refinementEnd_of_due (h : engineAct .refinementEnd s = some t) : exec .refinementEnd s = .next t := by
  rcases hreq : find s.reqs s.choice.target with _ | r <;> simp only [engineAct, hreq, reduceCtorEq] at h
  obtain ⟨⟨hcaptured, halone, hserved, hread⟩, hx⟩ := Option.ite_none_right_eq_some.mp h
  cases hx
  simp only [exec_refinementEnd, execRefinementEnd, hreq, hcaptured, halone, hserved, hread]
  by_cases hstore : slotStore < (r.graph (s.crew r.crew)).outcome.2
  · simp [hstore]
  · simp [hstore]

/-! ### The matrix engine -/

theorem exec_matrixCommandStart_of_due (h : engineAct .matrixCommandStart s = some t) : exec .matrixCommandStart s = .next t := by
  rcases hop : s.opAt s.choice.target with _ | o <;> simp only [engineAct, hop, reduceCtorEq] at h
  rcases hmat : o.mat with _ | m <;> simp only [hmat, reduceCtorEq] at h
  obtain ⟨hfirst, hx⟩ := Option.ite_none_right_eq_some.mp h
  cases hx
  simp only [exec_matrixCommandStart, execMatrixCommandStart, hop, hmat]
  exact if_pos (beq_iff_eq.mpr hfirst)

theorem exec_subarrayGate_of_due (h : engineAct .subarrayGate s = some t) : exec .subarrayGate s = .next t := by
  obtain ⟨⟨harray, hidle, hgated, hbusy, hage⟩, hx⟩ := Option.ite_none_right_eq_some.mp h
  cases hx
  rw [exec_subarrayGate, execSubarrayGate]
  refine if_pos ?_
  simp only [Bool.and_eq_true, Bool.not_eq_true', decide_eq_true_eq]
  exact ⟨⟨⟨⟨harray, bne_iff_ne.mpr hidle⟩, hgated⟩, hbusy⟩, hage⟩

theorem exec_operandsConsumed_of_due (h : engineAct .operandsConsumed s = some t) : exec .operandsConsumed s = .next t := by
  rcases hop : s.opAt s.choice.target with _ | o <;> simp only [engineAct, hop, reduceCtorEq] at h
  rcases hmat : o.mat with _ | m <;> simp only [hmat, reduceCtorEq] at h
  obtain ⟨hreads, h⟩ := Option.ite_none_left_eq_some.mp h
  simp only [exec_operandsConsumed, execOperandsConsumed, hop, hmat]
  rw [if_neg hreads]
  rcases hline : (s.matMeets o m).matLine m o.threads with _ | x <;> simp only [hline] at h ⊢
  case some => cases h; rfl
  case none =>
    by_cases hall : s.choice.nums = []
    · cases (if_pos hall).symm.trans h
      exact if_pos (List.isEmpty_iff.mpr hall)
    · cases (if_neg hall).symm.trans h
      exact if_neg (mt List.isEmpty_iff.mp hall)

/-- An MMA has read its operands; a command of another kind meets what reaches it from outside, and a CTBL its table (R313). -/
theorem exec_matrixCommandComplete_of_due (h : engineAct .matrixCommandComplete s = some t) :
    exec .matrixCommandComplete s = .next t := by
  rcases hop : s.opAt s.choice.target with _ | o <;> simp only [engineAct, hop, reduceCtorEq] at h
  rcases hmat : o.mat with _ | m <;> simp only [hmat, reduceCtorEq] at h
  obtain ⟨hturn, h⟩ := Option.ite_none_left_eq_some.mp h
  simp only [exec_matrixCommandComplete, execMatrixCommandComplete, hop, hmat]
  rw [if_neg hturn]
  by_cases hmma : m.kind = .mma
  · cases (if_pos hmma).symm.trans h
    simp only [hmma, if_true]
  rw [if_neg hmma] at h
  rw [if_neg hmma, if_neg hmma]
  rcases hline : (s.matMeets o m).matLine m o.threads with _ | x <;> simp only [hline] at h ⊢
  case some => cases h; rfl
  case none =>
    by_cases hctbl : m.kind = .ctbl
    · rw [if_pos hctbl] at h
      rw [hctbl]
      rcases htable : parseTable ((s.matMeets o m).tileRead m.a 16) with _ | y <;> simp only [htable] at h ⊢ <;> cases h <;> rfl
    · cases (if_neg hctbl).symm.trans h
      cases hkind : m.kind with
      | mma => exact absurd hkind hmma
      | ctbl => exact absurd hkind hctbl
      | accz | accrd | accwr | qnt | dqnt => rfl

/-! ### The weir engine -/

/-- What a change makes of a list is a matter of the value it meets. -/
theorem alter_congr_of_look {α : Type} {m : List (Nat × α)} {k : Nat} {d : α} {f g : α → α} (h : f (look m k d) = g (look m k d)) :
    alter m k f = alter m k g := by
  induction m with
  | nil => rfl
  | cons p r ih =>
    obtain ⟨a, x⟩ := p
    simp only [look, alter] at h ⊢
    by_cases ha : a = k
    · rw [if_pos ha] at h
      rw [if_pos ha, if_pos ha, h]
    · rw [if_neg ha] at h
      rw [if_neg ha, if_neg ha, ih h]

theorem State.modCrew_congr {s : State} {c : Nat} {f g : Crew → Crew} (h : f (s.crew c) = g (s.crew c)) :
    s.modCrew c f = s.modCrew c g :=
  congrArg (fun l => { s with crews := l }) (alter_congr_of_look h)

/-- The next lane's entry lies in a page of home memory, and its read meets nothing from outside (R344). -/
theorem exec_wtestEntryUpdate_of_due (h : engineAct .wtestEntryUpdate s = some t) : exec .wtestEntryUpdate s = .next t := by
  rcases hop : s.opAt s.choice.target with _ | o <;> simp only [engineAct, hop, reduceCtorEq] at h
  split at h
  case h_2 => cases h
  next d skm ls hkind =>
  rcases hlane : ls.find? (·.got.isNone) with _ | x <;> simp only [hlane, reduceCtorEq] at h
  obtain ⟨hdue, h⟩ := Option.ite_none_left_eq_some.mp h
  obtain ⟨hturn, hfits⟩ := not_or.mp (mt (Bool.or_eq_true _ _).mpr hdue)
  simp only [exec_wtestEntryUpdate, execWtestEntryUpdate, hop, hkind, hlane]
  rw [if_neg hturn, if_neg (mt decide_eq_true hfits)]
  split at h
  case h_2 => cases h
  next l off k hplace =>
  simp only [hplace]
  split at h
  case h_1 => cases h
  next w hmeets =>
  cases h
  simp only [hmeets]

/-- A context takes a free place, or that of the least recently used context that no command uses (R336). -/
theorem exec_weirContextLoad_of_due (h : engineAct .weirContextLoad s = some t) : exec .weirContextLoad s = .next t := by
  obtain ⟨hwants, h⟩ := Option.ite_none_left_eq_some.mp h
  rw [exec_weirContextLoad, execWeirContextLoad]
  dsimp only
  rw [if_neg hwants]
  by_cases hroom : (s.crewCluster s.choice.target).weirs.length < 32
  · cases (if_pos hroom).symm.trans h
    exact if_pos hroom
  · obtain ⟨j, hidle, hx⟩ := Option.bind_eq_some_iff.mp ((if_neg hroom).symm.trans h)
    rw [if_neg hroom, hidle]
    rcases hout : s.weirOut j with f | w <;> simp only [hout, reduceCtorEq] at hx ⊢
    cases hx
    rfl

/-- A command that configures or steps the unit changes the crew's own context alone (R341, R347). -/
theorem exec_weirCommandComplete_of_due (h : engineAct .weirCommandComplete s = some t) : exec .weirCommandComplete s = .next t := by
  rcases hop : s.opAt s.choice.target with _ | o <;> simp only [engineAct, hop, reduceCtorEq] at h
  split at h
  case h_2 => cases h
  next k ls hkind =>
  obtain ⟨hturn, h⟩ := Option.ite_none_left_eq_some.mp h
  simp only [exec_weirCommandComplete, execWeirCommandComplete, hop, hkind]
  rw [if_neg hturn]
  cases k with
  | wcfg x => cases h; exact congrArg (fun w : State => Host.Outcome.next (w.finish _ none 0)) (State.modCrew_congr rfl)
  | wstep x => cases h; exact congrArg (fun w : State => Host.Outcome.next (w.finish _ none 0)) (State.modCrew_congr rfl)
  | wskip v x d => cases h; rfl
  | wsig bf => cases h; rfl
  | wtest d skm =>
    obtain ⟨htested, hx⟩ := Option.ite_none_left_eq_some.mp h
    cases hx
    exact if_neg htested

/-! ### The neighbour engine -/

/-- A command reads early, goes part of the way, or runs all its vectors without a stop (R367, R370). -/
theorem exec_pointCommandComplete_of_due (h : engineAct .pointCommandComplete s = some t) : exec .pointCommandComplete s = .next t := by
  rcases hop : s.opAt s.choice.target with _ | o <;> simp only [engineAct, hop, reduceCtorEq] at h
  split at h
  case h_2 => cases h
  next p hkind =>
  obtain ⟨hruns, h⟩ := Option.ite_none_left_eq_some.mp h
  simp only [exec_pointCommandComplete, execPointCommandComplete, hop, hkind]
  rw [if_neg hruns]
  by_cases hearly : s.choice.nums = []
  case neg =>
    cases (if_pos hearly).symm.trans h
    exact if_pos (by simpa using hearly)
  replace h := (if_neg (not_not.mpr hearly)).symm.trans h
  rw [if_neg (by simp [hearly])]
  by_cases hpart : 0 < s.choice.size ∧ s.choice.size < p.vectors.length
  · cases (if_pos hpart).symm.trans h
    exact if_pos hpart
  replace h := (if_neg hpart).symm.trans h
  rw [if_neg hpart]
  rcases hrun : s.runPoint o p none with ⟨r, _ | e⟩ <;> simp only [hrun, reduceCtorEq] at h ⊢
  cases h
  rfl

theorem exec_pointCommandFault_of_due (h : engineAct .pointCommandFault s = some t) : exec .pointCommandFault s = .next t := by
  rcases hop : s.opAt s.choice.target with _ | o <;> simp only [engineAct, hop, reduceCtorEq] at h
  split at h
  case h_2 => cases h
  next p hkind =>
  split at h
  case h_2 => cases h
  next r v e hruns hstop =>
  obtain ⟨hfatal, hx⟩ := Option.ite_none_left_eq_some.mp h
  cases hx
  simp only [exec_pointCommandFault, execPointCommandFault, hop, hkind, hstop]
  rw [if_neg (by simp [hruns])]
  exact congrArg _ (if_neg hfatal)

/-! ### The bin unit -/

theorem exec_spawnTasksEnter_of_due (h : engineAct .spawnTasksEnter s = some t) : exec .spawnTasksEnter s = .next t := by
  rcases hop : s.opAt s.choice.target with _ | o <;> simp only [engineAct, hop, reduceCtorEq] at h
  split at h
  case h_2 => cases h
  next e base n hkind =>
  obtain ⟨hfirst, hx⟩ := Option.ite_none_right_eq_some.mp h
  cases hx
  simp only [exec_spawnTasksEnter, execSpawnTasksEnter, hop]
  rw [if_pos (by rw [List.head?_map, hfirst]; rfl)]
  simp only [State.takeTasks, hfirst, hkind]

end

/-- Settles O22, act by act; the table holds no other. -/
theorem engineActsComplete : Obligations.EngineActsComplete := by
  intro a s t h
  cases a
  case reclamation => exact exec_reclamation_of_due h
  case refinementAdmit => exact exec_refinementAdmit_of_due h
  case refinementEnd => exact exec_refinementEnd_of_due h
  case matrixCommandStart => exact exec_matrixCommandStart_of_due h
  case subarrayGate => exact exec_subarrayGate_of_due h
  case operandsConsumed => exact exec_operandsConsumed_of_due h
  case matrixCommandComplete => exact exec_matrixCommandComplete_of_due h
  case wtestEntryUpdate => exact exec_wtestEntryUpdate_of_due h
  case weirContextLoad => exact exec_weirContextLoad_of_due h
  case weirCommandComplete => exact exec_weirCommandComplete_of_due h
  case pointCommandComplete => exact exec_pointCommandComplete_of_due h
  case pointCommandFault => exact exec_pointCommandFault_of_due h
  case spawnTasksEnter => exact exec_spawnTasksEnter_of_due h
  all_goals exact nomatch h

end Sys2Proof.Machine
end
